-- ==== Sys2Proof/Word.lean ====
section
/-! DEFINITION. The word types of the ZX-192 fabric and their plainest arithmetic, the fixed-size tables, and the
sparse addressed store that every addressed RAM of the block is held in. -/

namespace Sys2Proof

abbrev Word := BitVec 64

/-- A table of `n` like things, built from a function of the index. -/
def tabOf {α : Type} {n : Nat} (f : Fin n → α) : Vector α n :=
  ⟨(List.ofFn f).toArray, by simp⟩

/-- A table whose every entry is `x`. -/
def tabAll {α : Type} (n : Nat) (x : α) : Vector α n :=
  ⟨(List.replicate n x).toArray, by simp⟩

/-- Entry `i` of a table. -/
def tget {α : Type} {n : Nat} (v : Vector α n) (i : Fin n) : α := v[i]

/-- Replace entry `i` of a table by `f` of it. -/
def tupd {α : Type} {n : Nat} (v : Vector α n) (i : Fin n) (f : α → α) : Vector α n :=
  v.set i (f v[i])

/-- Map every entry of a table, with its index. -/
def tmap {α β : Type} {n : Nat} (v : Vector α n) (f : Fin n → α → β) : Vector β n :=
  tabOf (fun i => f i (tget v i))

/-! ### Sparse addressed stores: `(address, value)` pairs, addresses strictly rising, no value equal to what an
unlisted address reads as (`d`). -/

abbrev Sparse (α : Type) := List (Nat × α)

/-- Read address `a` of a sparse store whose unlisted addresses read as `d`. -/
def sget {α : Type} (d : Nat → α) : Sparse α → Nat → α
  | [], a => d a
  | (b, x) :: m, a => if a = b then x else sget d m a

/-- Write address `a`, keeping the canonical form: writing what an unlisted address reads as removes the entry. -/
def sput {α : Type} [DecidableEq α] (d : Nat → α) (a : Nat) (x : α) : Sparse α → Sparse α
  | [] => if x = d a then [] else [(a, x)]
  | (b, y) :: m =>
    if a < b then (if x = d a then (b, y) :: m else (a, x) :: (b, y) :: m)
    else if a = b then (if x = d a then m else (a, x) :: m)
    else (b, y) :: sput d a x m

/-- The canonical form of a sparse store, above a lower bound on its addresses. -/
def swfFrom {α : Type} [DecidableEq α] (d : Nat → α) : Nat → Sparse α → Bool
  | _, [] => true
  | lo, (b, y) :: m => decide (lo ≤ b) && decide (y ≠ d b) && swfFrom d (b + 1) m

/-- The canonical form of a sparse store. -/
def swf {α : Type} [DecidableEq α] (d : Nat → α) (m : Sparse α) : Bool := swfFrom d 0 m

/-! ### Lists -/

/-- Apply `f` to the first element that satisfies `p`. -/
def updFirst {α : Type} (p : α → Bool) (f : α → α) : List α → List α
  | [] => []
  | x :: xs => if p x then f x :: xs else x :: updFirst p f xs

/-- Remove the first element that satisfies `p`, giving it and the rest. -/
def takeFirst {α : Type} (p : α → Bool) : List α → Option (α × List α)
  | [] => none
  | x :: xs =>
    if p x then some (x, xs)
    else match takeFirst p xs with
      | none => none
      | some (y, ys) => some (y, x :: ys)

/-- Insert keeping the order `le` (stable: after equals). -/
def insertBy {α : Type} (le : α → α → Bool) (x : α) : List α → List α
  | [] => [x]
  | y :: ys => if le y x then y :: insertBy le x ys else x :: y :: ys

/-- Stable insertion sort. -/
def sortBy {α : Type} (le : α → α → Bool) (xs : List α) : List α :=
  xs.foldl (fun acc x => insertBy le x acc) []

/-- The number of ones among bits 0 to `n` − 1. -/
def ones {w : Nat} (x : BitVec w) : Nat :=
  (List.range w).foldl (fun n i => n + (x.getLsbD i).toNat) 0

/-- Even parity: the exclusive OR of all bits. -/
def parity {w : Nat} (x : BitVec w) : Bool := ones x % 2 == 1

/-- Bit field `[lo + w - 1 : lo]`. -/
abbrev bits {n : Nat} (x : BitVec n) (lo w : Nat) : BitVec w := x.extractLsb' lo w

/-- Bit field `[lo + w - 1 : lo]` as a number. -/
abbrev field {n : Nat} (x : BitVec n) (lo w : Nat) : Nat := (x.extractLsb' lo w).toNat

/-- `x` with bit field `[lo + w - 1 : lo]` replaced by `v`. -/
def setField {n : Nat} (x : BitVec n) (lo w v : Nat) : BitVec n :=
  let m : BitVec n := BitVec.ofNat n ((2 ^ w - 1) * 2 ^ lo)
  (x &&& ~~~ m) ||| (BitVec.ofNat n ((v % 2 ^ w) * 2 ^ lo))

/-- A saturating addition, as the manual's saturating counters count. -/
def satAdd (limit a b : Nat) : Nat := min limit (a + b)

end Sys2Proof
end

