-- ==== Sys2Proof/Types.lean ====
section
/-! DEFINITION. The names of the things the commands carry: slots, routers, ports, flits, status and mode codes,
service classes, events, and the answers that the surroundings give. -/

namespace Sys2Proof

/-! ### Identities (R17, R20, R21, R23, R24, R26, R28) -/

abbrev Slot := Fin 192
abbrev RouterId := Fin 96
abbrev ClusterId := Fin 24
abbrev SectorId := Fin 8
abbrev QuadId := Fin 4
abbrev LinkId := Fin 6
/-- Spine link end: 2 × link + end, end 0 in the lower-numbered quadrant (R453). -/
abbrev LinkEnd := Fin 12
abbrev VcId := Fin 8
abbrev SvcId := Fin 16
/-- Router port index of R21. -/
abbrev PortId := Fin 11
abbrev GroupId := Fin 32
/-- Rings in the order of R311: command 0–7, completion 8–11, event 12–13. -/
abbrev RingId := Fin 14
abbrev CmdRing := Fin 8
abbrev TagId := Fin 512
abbrev LaneId := Fin 32
/-- A milk-round stop: 0–11 the router agents, 12 the row steward (R28). -/
abbrev StopId := Fin 13

/-! ### Flits (R39) -/

/-- The 712 wires of a flit in the four groups of R39. -/
structure Flit where
  par : BitVec 8
  ctl : BitVec 128
  chk : BitVec 64
  dat : BitVec 512
deriving DecidableEq, Repr

/-- A packet is one to four flits; the first is the head (R51, R72). -/
abbrev Packet := List Flit

/-- Routing phase carried in LA_PHASE (R74). -/
inductive RPhase where
  | mesh | toHub | postSpine | detour
deriving DecidableEq, Repr

/-- The forward lookahead sideband of R74. -/
structure Lookahead where
  valid : Bool
  out : BitVec 4
  vc : BitVec 3
  len : BitVec 2
  body : Bool
  phase : BitVec 2
  par : Bool
deriving DecidableEq, Repr

/-! ### Codes -/

/-- Status codes of R13 and R62. -/
inductive Status where
  | ok | poison | broken | rerouted | lost | abandoned | rateRefused | notReady | staleSet | gateFault | overlap
deriving DecidableEq, Repr

/-- Operating modes of R393. -/
inductive Mode where
  | reset | train | serve | drowse | retain | freeze | recover | test
deriving DecidableEq, Repr

/-- Service classes of R206. -/
inductive Cls where
  | g | s | a | b
deriving DecidableEq, Repr

/-- Error classes of R451. -/
inductive EvClass where
  | corrected | contained | fatal | note
deriving DecidableEq, Repr

/-- Unit kinds of R322. -/
inductive UnitKind where
  | router | ni | spineEnd | cluster | sector | die | group
deriving DecidableEq, Repr

/-- Event names of R453. -/
inductive EventCode where
  | malformed | dataUncorrectable | ctrlParity | inboundDiscard | abandon | sprayBad | tickSlip | govSaturated
  | cdcPulseOvf | ordLate | ordGap | lockBreak | lockLease | lockNotOwner
  | curdNonmember | curdUnordered | curdLate | curdWindow | curdNotTarget | curdOverflow | curdCloseOrder
  | curdGroupFailed | curdCommit | curdInexact | curdVatPoison | curdStageEcc | curdFailed
  | gateViolation | gateEcc | linkUp | linkRetrain | linkDown | linkReturn | linkMiswired | laneSpared
  | sparesExhausted | spineNoRoute | ringOverrun | ringHalt | cfgSplit | stewardLost | clusterClockLost
  | routerStateUe | herdStateUe | tickLost | modeRefused | retentionLost | pwrAckLate | pwrAckFail
  | eccRepeat | eccUncorrectable | meterEcc | meterTallyParity | meterSealedWrite | meterReport
  | meterReportFail | meterClock | counterWrap | niStateParity | cdcPtr | recoverDone | clusterDead
  | recoverFailed | epResetDiscard
deriving DecidableEq, Repr

/-- An event as R34 and R453 describe it: what is reported to the Herdsman. -/
structure Event where
  code : EventCode
  kind : UnitKind
  num : Nat
  detail : BitVec 32
  record : BitVec 128
  sectors : BitVec 8
  merged : Nat
  /-- events lost before this one at the Can (R347) -/
  dropped : Nat
  status : Status
  epoch : Nat
deriving DecidableEq, Repr

/-! ### What the surroundings answer -/

/-- The answer on a one-time-store port (R497). -/
inductive OtsAnswer where
  | data (w : Word) | err | timeout
deriving DecidableEq, Repr

inductive OtsPort where
  | can | boot
deriving DecidableEq, Repr

/-- How a line read from host memory came back (R323, R326). -/
inductive ReadState where
  | good | poisoned | lost
deriving DecidableEq, Repr

/-- One line read from host memory: its 64 bytes, and how it came back. -/
structure MemLine where
  data : BitVec 512
  state : ReadState
deriving DecidableEq, Repr

abbrev Block := List MemLine

/-- One line of data with its check bytes and its poison (R39, R64). -/
structure Line where
  data : BitVec 512
  chk : BitVec 64
  poison : Bool
deriving DecidableEq, Repr

/-- The WR_ACK that ends a MSG_SEND: its status and its per-line field, or no acceptance (R327). -/
structure Ack where
  status : Status
  lstat : BitVec 16
deriving DecidableEq, Repr

/-- Who holds the credits that a returned credit adds to (R78): a router output or an NI's local port. -/
inductive Upstream where
  | out (r : RouterId) (p : PortId) | ni (n : Slot)
deriving DecidableEq, Repr

/-- What one lane brought to a full training: whether it locked and reported its own number (R267). -/
structure LaneTrain where
  lane : Nat
  good : Bool
deriving DecidableEq, Repr

/-- What the far end says of itself in step 5 of R267. -/
structure FarEnd where
  link : BitVec 3
  hubX : BitVec 4
  hubY : BitVec 4
deriving DecidableEq, Repr

/-- What befell one lane's marker on its way (R240): whether it arrived in its slot, and the bits it lost. -/
structure MarkerSeen where
  lane : Nat
  arrived : Bool
  dist : BitVec 32
deriving DecidableEq, Repr

/-- A wake source of R411 and R416. -/
inductive WakeSource where
  | pin (n : Fin 8) (level : Bool) | alarm | ep (slot : Slot) (level : Bool)
deriving DecidableEq, Repr

/-- A unit that holds counters: a router, an NI or a spine link end (R371). -/
inductive CtrUnit where
  | router (r : RouterId) | ni (n : Slot) | spine (e : LinkEnd)
deriving DecidableEq, Repr

/-- Where a protected table of R431 is held. -/
inductive TabUnit where
  | router (r : RouterId) | ni (n : Slot)
deriving DecidableEq, Repr

/-- What a word of a protected table holds, as the owner's rule of R437 names it. -/
inductive WordKind where
  | meterWord (tenant : Fin 4096) (hi : Bool)
  | stageData (entry : Fin 512) | stageMeta (entry : Fin 512)
  | pailWord (sfu : Nat)
  | crockWord (entry : Fin 4096) (hi : Bool)
  | gateRegion (set : Bool) (region : Fin 32) | gateCtl (set : Bool)
  | sprayEntry (entry : Fin 8) | targetTable (index : Fin 128) | defaultMap
  | cfgItem (item port index : Nat)
  | regionTable | lockTable | ownerGen (s : Slot) | shadow (g : Nat)
  | other
deriving DecidableEq, Repr

/-- The outcome of reading one word at a scrub (R435, R436); `group`: the parity of its valid-bit group fails. -/
inductive EccSeen where
  | clean | single (syn : BitVec 8) | bad (syn : BitVec 8) | group
deriving DecidableEq, Repr

/-- A bank of a protected table: the unit, the table number of R431, the logical bank. -/
structure BankRef where
  unit : TabUnit
  table : Nat
  lbank : Nat
deriving DecidableEq, Repr

/-- A bank that failed the check of R448: by a canary, or by a word or a valid-bit group. -/
structure LostBank where
  bank : BankRef
  canary : Bool
deriving DecidableEq, Repr

/-- The two error FIFOs named by CDC_PTR (R453). -/
inductive CdcFifo where
  | request | response
deriving DecidableEq, Repr

/-- The DIP_ registers whose change takes effect at the next gather (R390). -/
inductive DipReg where
  | userCtl | userBase | privBase
deriving DecidableEq, Repr

end Sys2Proof
end

