-- ==== Sys2Proof/Syntax.lean ====
section
/-! DEFINITION. The commands of the block: one constructor per row of the table of operations and events, in the
table's order. `k` is the FCLK cycle of the epoch at the acting unit (R210). -/

namespace Sys2Proof

inductive Instr where
  -- resets and boot
  | hardReset
  | warmReset
  | resetSequenceComplete
  | bootWordRead (ans : OtsAnswer)
  | mtrRst
  | otsMAnswer (ans : OtsAnswer)
  | otsTimeout (port : OtsPort)
  -- ticks
  | herdsmanTick
  | clusterTick (c : ClusterId)
  | governorLevelApply (r : RouterId)
  -- routers
  | headFlitArrival (r : RouterId) (p : PortId) (k : Nat) (dist : Flit) (laDist : BitVec 14)
  | switchAllocation (r : RouterId) (ports : List PortId) (k : Nat)
  | creditReturn (u : Upstream) (vc : VcId)
  | escEntry (r : RouterId) (p : PortId) (vc : VcId) (k : Nat)
  -- endpoint requests
  | rdLine (n : Slot) (k : Nat) (fetch : Bool) (pkt : Packet)
  | rdSpray (n : Slot) (k : Nat) (fetch : Bool) (pkt : Packet)
  | wrFullP (n : Slot) (k : Nat) (pkt : Packet)
  | wrFullNp (n : Slot) (k : Nat) (pkt : Packet)
  | wrPartP (n : Slot) (k : Nat) (pkt : Packet)
  | wrPartNp (n : Slot) (k : Nat) (pkt : Packet)
  | atAdd (n : Slot) (k : Nat) (pkt : Packet)
  | atMin (n : Slot) (k : Nat) (pkt : Packet)
  | atMax (n : Slot) (k : Nat) (pkt : Packet)
  | atSwap (n : Slot) (k : Nat) (pkt : Packet)
  | atCas (n : Slot) (k : Nat) (pkt : Packet)
  | lkAcq (n : Slot) (k : Nat) (pkt : Packet)
  | lkRel (n : Slot) (k : Nat) (pkt : Packet)
  | fnStoreT (n : Slot) (k : Nat) (pkt : Packet)
  | fnStoreG (n : Slot) (k : Nat) (pkt : Packet)
  | fnFullT (n : Slot) (k : Nat) (pkt : Packet)
  | fnFullG (n : Slot) (k : Nat) (pkt : Packet)
  | msgIntr (n : Slot) (k : Nat) (pkt : Packet)
  | msgMail (n : Slot) (k : Nat) (pkt : Packet)
  | epochClose (n : Slot) (k : Nat) (pkt : Packet)
  | malformed (n : Slot) (k : Nat) (pkt : Packet)
  | meterHoldRetry (n : Slot) (k : Nat)
  | requestStep5Resume (n : Slot) (k : Nat)
  | pieceInject (n : Slot) (k : Nat)
  | endpointAbandon (n : Slot)
  | abandonRemainderDiscard (n : Slot) (flit : Flit)
  | prematureHead (n : Slot) (k : Nat) (fetch : Bool) (pkt : Packet)
  -- target side
  | inboundRequest (n : Slot) (vc : VcId)
  | ordGap (n : Slot) (src : Slot)
  | inboundDiscard (n : Slot)
  | inboundDiscardEnd (n : Slot)
  | inboundOffer (n : Slot)
  | atomicExecute (n : Slot)
  | atomicReadReturn (n : Slot) (entry : Nat) (line : Line) (st : Status)
  | atomicWritebackAck (n : Slot) (entry : Nat) (st : Status)
  | lockTableAcquire (n : Slot)
  | lockTableRelease (n : Slot)
  | lockLease (n : Slot)
  | ownerGenerationChange (n : Slot) (src : Slot)
  | lockReopenWindowEnd (n : Slot)
  | endpointAnswer (n : Slot) (pkt : Packet)
  -- master side
  | responseArrival (n : Slot) (vc : VcId)
  | responseDelivery (n : Slot)
  | fenceComplete (n : Slot)
  | tagLost (n : Slot) (tag : TagId)
  | quarantineEnd (n : Slot) (tag : TagId)
  | epResetAssert (n : Slot)
  | epResetRelease (n : Slot)
  | requestReadyRise (n : Slot)
  | epReadyChange (n : Slot) (level : Bool)
  | epExc (n : Slot)
  -- rings
  | dbFwd
  | ringPoll (homes : List (RingId × MemLine))
  | commandFetch (ring : CmdRing) (entries : Block)
  | commandIndexRecheck (ring : CmdRing) (entry : MemLine)
  | commandStart (ring : CmdRing)
  | nop (ring : CmdRing)
  | cfgWrite (ring : CmdRing) (block : Block)
  | cfgCopy (ring : CmdRing)
  | cfgSwap (ring : CmdRing)
  | cfgRead (ring : CmdRing)
  | cfgSwapCancel
  | cfgSwapApply (r : RouterId)
  | gateLoad (ring : CmdRing) (block : Block)
  | gateSwap (ring : CmdRing)
  | gateFence (ring : CmdRing)
  | meterProg (ring : CmdRing) (block : Block)
  | meterEntryApply (n : Slot)
  | snapshot (ring : CmdRing)
  | setRate (ring : CmdRing)
  | pause (ring : CmdRing)
  | resume (ring : CmdRing)
  | status (ring : CmdRing)
  | reloaded (ring : CmdRing)
  | crockDrain (ring : CmdRing)
  | linkCtl (ring : CmdRing)
  | modeReqServe (ring : CmdRing)
  | modeReqDrowse (ring : CmdRing)
  | modeReqRetain (ring : CmdRing)
  | enable (ring : CmdRing) (block : Block)
  | change (ring : CmdRing) (block : Block)
  | disable (ring : CmdRing)
  | msgSendIntr (ring : CmdRing)
  | msgSendMail (ring : CmdRing) (block : Block)
  | ringMove (ring : CmdRing) (block : Block)
  | commandComplete (ring : CmdRing)
  | publishBatch (ring : RingId) (k : Nat)
  | publishIndex (ring : RingId)
  | ringInterrupt (ring : RingId)
  -- milk rounds and events
  | mgRd (sec : SectorId) (stop : StopId) (words dist : List (BitVec 32))
  | mgWr (sec : SectorId) (stop : StopId) (words dist : List (BitVec 32))
  | mgResp (sec : SectorId) (dist : List (BitVec 32))
  | mgEvent (sec : SectorId) (words dist : List (BitVec 32))
  | mgFrameTimeout (sec : SectorId) (tag : BitVec 8)
  | stewardLost (sec : SectorId) (silent : Bool)
  | sectorReturn (sec : SectorId)
  | eventReport
  | eventMergeClose
  | spineUpUpdate (r : RouterId)
  | doorbellWindowUpdate (n : Slot) (w : Fin 16)
  | groupStateChange (n : Slot) (g : GroupId)
  | dbgAuthChange (level : Bool)
  -- Curd mode
  | epochCloseInject (n : Slot) (g : GroupId)
  | epochCloseArrival
  | closeRepeat (n : Slot)
  | commitRepeat
  | cmCommit (n : Slot)
  | curdMemberCommit (n : Slot) (g : GroupId)
  | curdRelease (n : Slot) (g : GroupId)
  | curdEpochReleased (n : Slot) (g : GroupId)
  | curdReleaseResume (n : Slot)
  | vatSpill (n : Slot)
  | vatDrain (n : Slot)
  | vatData (n : Slot)
  -- spine links
  | spineRecordSend (e : LinkEnd) (k : Nat)
  | dataSfuReceive (e : LinkEnd) (k : Nat) (dist : BitVec 512)
  | linkSfuReceive (e : LinkEnd) (k : Nat) (dist : BitVec 512)
  | nakRepeat (e : LinkEnd) (k : Nat)
  | ackDue (e : LinkEnd) (k : Nat)
  | replayTimeout (e : LinkEnd) (k : Nat)
  | laneLockLoss (e : LinkEnd) (lane : Nat)
  | laneFailing (e : LinkEnd) (lane : Nat)
  | linkTrainingComplete (e : LinkEnd) (lanes : List LaneTrain) (far : FarEnd)
  | linkTrainingTimeout (e : LinkEnd)
  | linkRetrainComplete (e : LinkEnd) (lanes : List LaneTrain)
  | linkRetrainFail (e : LinkEnd)
  | lockLossExpiry (e : LinkEnd)
  | linkDown (l : LinkId)
  | linkDownRetry (e : LinkEnd)
  | returnWaitExpiry (e : LinkEnd)
  | returnETimeout (e : LinkEnd)
  | returnPortReinject (q : QuadId) (k : Nat)
  | linkEnOff (l : LinkId)
  | spineNoRoute (q : QuadId)
  -- the metering island
  | tallyWord (lane : LaneId) (dist : BitVec 24)
  | tallyMarker (lane : LaneId) (dist : BitVec 24)
  | reportClose
  | laneAbsentTimeout
  | reportWrite
  | reportTrailer
  | meterResetNotice
  | canScrub (bad : List (Fin 32768))
  | meterClock
  | mtrSeal (v : Word)
  | mtrUnseal (v : Word) (sealOpen : Bool)
  | unsealConfirm (ans : OtsAnswer)
  | sealedWrite (off : Nat) (v : Word)
  | mtrTmapData (v : Word)
  | mtrRptNow (v : Word)
  | mtrDebugAccess (off : Nat)
  -- the Dipper
  | dipSelData (v : Word)
  | selectionApply (u : CtrUnit)
  | snapshotLatch (c : ClusterId)
  | dipperGather
  | dipperPublish
  | gatherAbandon
  -- stored data
  | scrubLine (b : BankRef) (row : Nat) (seen : List (EccSeen × WordKind))
  | scrubForce (b : BankRef) (row : Nat) (seen : List (EccSeen × WordKind))
  | bankCopyDone (b : BankRef)
  -- modes, power, wake
  | postedDrainDone
  | drainTimeout
  | quietReached
  | pwrcAck (level : Bool)
  | pwrAckLate
  | clkcRootAck (level : Bool)
  | clkcAck (n : Fin 26) (level : Bool)
  | wakeEvent (src : WakeSource)
  | epochAlarm
  | drowseExit
  | retainReturn (failed : List LostBank)
  | clusterGate (c : ClusterId) (k : Nat)
  | clusterUngate (c : ClusterId)
  | freeze
  | thaw
  -- faults and recovery
  | clusterClockLost (c : ClusterId)
  | routerStateUe (r : RouterId)
  | niStateParity (n : Slot)
  | cdcPtr (n : Slot) (fifo : CdcFifo)
  | niRecoveryDone (n : Slot) (failed : List LostBank)
  | clusterRecoveryStep (c : ClusterId) (failed : List LostBank)
  | clusterRecoveryRestart (c : ClusterId)
  | herdStateUe
  | dieRecoveryStep (failed : List LostBank)
  -- set-up registers
  | fabLock (v : Word)
  | fabWin (v : Word)
  | stwRing (r : RingId) (v : Word)
  | stwRingCtl (v : Word)
  | stwDbw (w : Fin 16) (v : Word)
  | stwIrqMask (v : Word)
  | stwIrqCause (v : Word)
  | stwIntr (ring : Fin 6) (isVal : Bool) (v : Word)
  | dipSelStatus (v : Word)
  | dipUserCtl (reg : DipReg) (v : Word)
  | crkRearm (v : Word)
  | pwrWakeCfg (v : Word)
  | pwrAlarm (v : Word)
  | pwrDrain (v : Word)
  | registerWrite (off : BitVec 16) (v : Word) (mask : BitVec 8)
  -- the test port
  | idcode
  | testEntry (bit : Bool)
  | frzHold (bit : Bool)
  | frzRead (seg : BitVec 16)
  | dbgMaster (flit : Flit) (ans : Bool) (fetch : Bool)
  | bypass (code : BitVec 8)
  | tapReset
  -- later rows of the table
  | supplyPowerOn
  | trainingPatternsSeen (e : LinkEnd)
  | laneMarker (e : LinkEnd) (seen : List MarkerSeen)
deriving DecidableEq, Repr

end Sys2Proof
end

