-- ==== Sys2Proof/Config.lean ====
section
/-! DEFINITION. What an integrator or an implementation fixes, and the values the manual leaves open: constants
without a body, of which nothing can be proved but what the wrappers around them say. -/

namespace Sys2Proof.Config

/-- The check byte of a non-zero data word. R41 names a SECDED (72, 64) code and not its matrix. -/
opaque secdedRaw : BitVec 64 → BitVec 8

/-- The manufacturer code that the integrator ties at TAP_MFR (R500). -/
opaque tapMfr : BitVec 11

/-- The TAG of work that an NI makes for its endpoint under no tag of its own (releases, Vat writes and reads), which
the manual does not give (R194, R484); drawn afresh for each. -/
opaque workTag : Nat → BitVec 9

/-- The EVENT code that the selection word of a counter with a fixed event shows (R372, R373), by global index. -/
opaque fixedCode : Nat → BitVec 6

/-- The chain of a segment while debug is not authorised (R428): of a layout that the manual does not give, and of the
readable fields alone, which are the Crock's entries with their valid bits and the other open values. -/
opaque openChain : BitVec 16 → List (Nat × BitVec 128 × Bool) → List Nat → BitVec 714

/-- What a freeze readout shifts out of a segment whose layout the manual does not give (R428), drawn afresh for
each readout. -/
opaque readout : Nat → BitVec 714

end Sys2Proof.Config
end

