-- ==== Sys2Proof/Machine/State.lean ====
section
/-! DEFINITION. Everything the manual gives the ZX-192 to hold, as plain data, and the block right after a hard reset.
Written by unit: routers, NIs, spine link ends, the Herdsman, the metering island, the Dipper, the always-on
island, stored-data upkeep, recovery. Tables whose words are addressed are `Sparse` stores. -/

namespace Sys2Proof.Machine

/-- Why a step stops with a fault. -/
inductive Fault where
  /-- Raised by no meaning: the manual gives every misuse an outcome (R16). Safe. -/
  | none
deriving DecidableEq, Repr

/-- Why a step is refused. -/
inductive Refusal where
  /-- Raised by the dispatcher for a row that has no meaning yet. Safe. -/
  | notModelled (mnemonic : String)
deriving DecidableEq, Repr

/-! ### Routers -/

/-- A VC buffer of a router input: a mesh VC, or at a spine input a spine VC (R81). -/
abbrev BufVc := Fin 16

/-- A flit in an input buffer: its routing phase (R75), the time from which it has waited at the front, whether it may
take escape (R86) and whether only escape is left to it (R76), and at a spine input its record: in the pool, and its
size in pool units (R259). -/
structure BufFlit where
  flit : Flit
  phase : RPhase
  /-- the output that its lookahead named, until that output has decided (R77) -/
  la : Option PortId
  since : Nat
  esc : Bool
  escOnly : Bool
  pool : Option Nat
deriving DecidableEq, Repr

/-- A flit on its way into an input, with its lookahead (R74); from a spine receiver with its spine VC and, for a
record in the pool, its units. -/
structure WireFlit where
  la : Lookahead
  flit : Flit
  bvc : BufVc
  pool : Option Nat
deriving DecidableEq, Repr

/-- A router input (R74, R77, R80): the flits on its link, its VC buffers, the flits still to be consumed of a packet
discarded for control parity (R69; `some n`: n more, and `dropTail` says that TAIL ends it sooner), and whether the
rest of the packet arriving is poisoned (R70). -/
structure RouterIn where
  wire : List WireFlit
  buf : Vector (List BufFlit) 16
  drop : Vector Nat 16
  dropTail : Vector Bool 16
  poisonRest : Vector Bool 16
  left : Vector Nat 16
  /-- flits of the arriving packet, LEN + 1 (R50) -/
  total : Vector Nat 16
  /-- control field of that packet's head -/
  head : Vector (BitVec 128) 16
deriving DecidableEq, Repr

/-- The packet that holds an output VC (R79): the input and VC it comes from, the flits still to cross, and on a
spine output whether it uses the far pool (R260); whether a closing has held it (R231). -/
structure VcOwner where
  inPort : PortId
  inVc : BufVc
  left : Nat
  pool : Bool
  held : Bool
  /-- routing phase the packet leaves with, and the VC it takes -/
  phase : RPhase
  outVc : VcId
  cls : Cls
  /-- rank among class-G requests that the slot entry gave the head at its grant, and the set active then (R219) -/
  first : Bool
  under : Bool
  /-- LEN of the packet (R74) -/
  len : Nat
deriving DecidableEq, Repr

/-- A router output (R78, R79, R95–R97, R217). -/
structure RouterOut where
  credit : Vector Nat 8
  /-- credits on the reverse sideband, not yet counted (R78) -/
  returning : Vector Nat 8
  /-- per VC, and at a spine output per spine VC -/
  owner : Vector (Option VcOwner) 16
  /-- round-robin position per rank of R95: G, S, A, B -/
  rr : Vector Nat 4
  age : Nat
  hint : Vector (BitVec 3) 8
  /-- class-G flits granted in the aligned pair of slots `creamPair` (R217) -/
  creamPair : Nat
  creamCount : Nat
  /-- the link leads into a cluster under recovery (R36, R106) -/
  down : Bool
deriving DecidableEq, Repr

/-- One of the 96 routers with its router agent. -/
structure Router where
  ins : Vector RouterIn 11
  outs : Vector RouterOut 11
  /-- R90 -/
  spineUp : BitVec 6
  /-- active configuration set of the router and of its two NIs: false A, true B (R333) -/
  active : Bool
  /-- armed swap: the tick and the set (R332) -/
  armed : Option (Nat × Bool)
  govLevel : Nat
  /-- governor level relayed and the tick at which it applies (R235) -/
  govNext : Option (Nat × Nat)
  /-- flits of this epoch for R234: mesh outputs, express outputs, all outputs, local inputs, local outputs -/
  eMesh : Nat
  eExpr : Nat
  eOut : Nat
  eLocIn : Nat
  eLocOut : Nat
  /-- flit counts of R387 per port 0–9, saturating -/
  bwIn : Vector Nat 10
  bwOut : Vector Nat 10
  bwShadowIn : Vector Nat 10
  bwShadowOut : Vector Nat 10
  /-- hub return port (R274) -/
  returned : List Packet
deriving DecidableEq, Repr

/-! ### Network interfaces -/

/-- What step 2 of R111 makes of one line: its line address, spray-map entry (0 direct-target), DEST and chunk
(R119, R122). -/
structure LineMap where
  addr : Nat
  entry : Nat
  dest : Nat
  chunk : Nat
deriving DecidableEq, Repr

/-- What the meter has made of a request that is not accepted yet (R221, R226): nothing so far; a colour, which
stands; red under REFUSE, which waits for lane room alone; red under HOLD, in the hold store or before a full one. -/
inductive Metered where
  | no | colour (c : BitVec 2) | refused | held | blocked
deriving DecidableEq, Repr

/-- Flits in the request FIFO as one row has presented them (R109): opcode of the row, fetch qualifier, flits. -/
structure FifoFlits where
  op : BitVec 6
  fetch : Bool
  flits : Packet
deriving DecidableEq, Repr

/-- A request in the request store that is not yet accepted (R110, R111): its opcode, the fetch qualifier, its
flits, and what its meter has made of it. -/
structure PendReq where
  op : BitVec 6
  fetch : Bool
  pkt : Packet
  metered : Metered
  /-- positions of body flits with a control parity error (R50, R70, R71) -/
  parity : List Nat
  /-- no earlier request held its TAG when its head came (R142) -/
  tagFree : Bool
  /-- step 1 found it malformed -/
  bad : Bool
  /-- step 2: the lines as the set active at that cycle maps them (R128) -/
  plan : List LineMap
deriving DecidableEq, Repr

/-- A piece of an accepted request that waits to be injected (R112, R118, R125): packet number, request number, the
packet with its header but for the tag, the position of its first line in the request, the number of its lines, the
outbound code of each of them (R294), whether its response is for the NI alone (posted), and the doorbells that
follow it (R317). -/
structure Piece where
  pid : Nat
  req : Nat
  pkt : Packet
  base : Nat
  nlines : Nat
  codes : List Status
  posted : Bool
  split : Bool
  doorbells : List Packet
  /-- canonical lines: their groups and logical epochs (R182) -/
  canon : List (GroupId × Nat)
  /-- flits with a control parity error, whose data errors are not logged (R71) -/
  parity : List Nat
  /-- the NI's own release of R172, whose answer it discards -/
  own : Bool
deriving DecidableEq, Repr

/-- A packet that an NI is driving onto its local port (R209): its head, the flits still to be driven, and its stamp. -/
structure Sending where
  head : Flit
  left : List Flit
  stamp : Nat
deriving DecidableEq, Repr

/-- A network tag in use (R115, R140, R141). -/
structure TagEnt where
  tag : Nat
  pid : Nat
  req : Nat
  quarantined : Bool
  orphan : Bool
  /-- false while the request is accepted and not yet injected -/
  injected : Bool
  /-- epoch from which the tag's age is counted -/
  epoch : Nat
  head : Flit
  base : Nat
  nlines : Nat
  codes : List Status
  posted : Bool
  split : Bool
  /-- response-store lines reserved (R118) -/
  lines : Nat
  canon : List (GroupId × Nat)
  /-- the staging WR_ACK of a canonical atomic has arrived (R184) -/
  staged : Bool
  /-- the release that R172 issues for an orphaned lock acquire, or one of the Herdsman's own -/
  own : Bool
deriving DecidableEq, Repr

/-- What has come back for one line of a request: its line, its per-line code and the target that supplied it. -/
structure LineRes where
  line : Line
  code : Status
  /-- the condition that applied to the whole packet that brought the line -/
  whole : Status
  src : Nat
deriving DecidableEq, Repr

/-- An accepted or locally completed request that owes its endpoint a response (R129–R131, R139). -/
structure ReqEnt where
  num : Nat
  op : BitVec 6
  head : Flit
  tag : Nat
  /-- whether the endpoint tag is freed with the last response (R116), or belongs to another request (R142) -/
  frees : Bool
  lines : List (Option LineRes)
  whole : Status
  aux : BitVec 16
  /-- lines already written to the response FIFO -/
  done : Nat
  slot : Bool
  /-- the response carries lines -/
  data : Bool
  /-- the endpoint was reset since: the response is consumed and discarded (R144) -/
  discard : Bool
deriving DecidableEq, Repr

/-- A fence being tracked (R161, R164): its request number and the packets it still waits for. -/
structure Fence where
  req : Nat
  op : BitVec 6
  dest : Nat
  wait : List Nat
deriving DecidableEq, Repr

/-- A request packet in an inbound queue (R135, R136), with the inbound code of each line (R296). -/
structure InPkt where
  pkt : Packet
  cream : Bool
  early : Bool
  epoch : Nat
  codes : List Status
  /-- positions whose flit arrived poisoned (R295) -/
  bad : List Bool
  /-- stamp at which it became deliverable (R149) -/
  stamp : Nat
  /-- stamp of its arrival (R136) -/
  arrived : Nat
deriving DecidableEq, Repr

/-- CAUSE of R309. -/
inductive GCause where
  | noMatch | overlap | master | attrs | locked | sealedRule
deriving DecidableEq, Repr

/-- What a gate decides of one line: its per-line code, and the cause and region of a refusal (R288). -/
structure GAns where
  code : Status
  cause : GCause
  region : Nat
deriving DecidableEq, Repr

/-- Why the NI offered a packet to its endpoint (R484). -/
inductive OfferKind where
  | request | atomicRead (entry : Nat) | atomicWrite (entry : Nat) | release (g : GroupId) (idx : Nat)
  | vatSpill | vatDrain
deriving DecidableEq, Repr

/-- Inbound work that the endpoint has been offered and has not answered (R485), with the runs of the packet still to
be offered (R296) and the answers already merged. -/
structure Taken where
  kind : OfferKind
  pkt : Packet
  /-- TAG of what is offered (R485) -/
  tag : Nat
  results : List LineRes
  first : Nat
  count : Nat
  rest : List (Nat × Nat)
  whole : Status
  /-- spill packets that must be injected before the answer leaves (R186) -/
  after : List Nat
deriving DecidableEq, Repr

/-- An entry of the atomic unit (R157). `phase`: 0 read offered, 1 write-back offered; `stagedIdx` for a staged
atomic released under R195. -/
structure AtomEnt where
  num : Nat
  pkt : Packet
  phase : Nat
  old : Line
  fresh : BitVec 512
  stagedIdx : Option (GroupId × Nat)
deriving DecidableEq, Repr

/-- An entry of the lock table (R170); no owner: LOCK_BROKEN. -/
structure LockEnt where
  line : Nat
  word : Nat
  owner : Option Slot
  gen : BitVec 8
  epoch : Nat
deriving DecidableEq, Repr

/-- An entry of the Curd stage (R185). `sent`: offered to the endpoint by a release and not yet performed. -/
structure StageEnt where
  group : GroupId
  lep : Nat
  src : Nat
  idx : Nat
  op : BitVec 6
  line : Nat
  mask : BitVec 64
  data : Line
  /-- the request's head flit: tag, tenant, operands -/
  head : Flit
  sent : Bool
  /-- its data word, or its metadata word, proved uncorrectable (R437) -/
  ue : Bool
  ueMeta : Bool
deriving DecidableEq, Repr

inductive GroupState where
  | disabled | active | failed
deriving DecidableEq, Repr

/-- A close that the member NI has accepted and not yet injected (R188). -/
structure CloseWait where
  req : Nat
  lep : Nat
  /-- the packets that it waits for: reads to be answered, writes and atomics to be staged -/
  wait : List Nat
  inexact : Bool
deriving DecidableEq, Repr

/-- A selection pass over a Vat slice (R199): the next position to read and the first beyond the pass, how many valid
records of the logical epoch it has left in place, and the positions taken and not overwritten. -/
structure VatPass where
  pos : Nat
  stop : Nat
  left : Nat
  took : List Nat
  /-- smallest key (source slot, arrival index) among the records so left -/
  least : Option (Nat × Nat)
deriving DecidableEq, Repr

/-- What an NI holds for one commit group (R179, R181, R193). -/
structure NiGroup where
  state : GroupState
  member : Bool
  target : Bool
  k : Nat
  cm : Nat
  ct : Nat
  /-- commits received and not yet acted on (R193): logical epoch and the epoch whose tick acts -/
  cmNext : List (Nat × Nat)
  relNext : List (Nat × Nat)
  /-- logical epoch whose release has begun, and the one through which release runs -/
  releasing : Option Nat
  through : Nat
  close : Option CloseWait
  /-- logical epochs in which a write or atomic was lost or answered NOT_READY (R188) -/
  inexact : List Nat
  /-- the INEXACT bit of the last close sent, for its repeats (R191) -/
  lastInexact : Bool
  vatSlot : Nat
  vatBase : Nat
  vatSlice : Nat
  rank : Nat
  /-- positions of the slice's ring, counted without wrapping -/
  vatHead : Nat
  vatTail : Nat
  /-- logical epochs that have records in the Vat -/
  vatLeps : List Nat
  /-- positions that hold a record, each with its logical epoch -/
  vatRecs : List (Nat × Nat)
  /-- positions known to hold no valid record -/
  vatInvalid : List Nat
  pass : Option VatPass
deriving DecidableEq, Repr

/-- A gate set (R283–R285): 32 regions of two words, the control word without GEN, and GEN. -/
structure GateSet where
  regions : Vector (Word × Word) 32
  ctl : Word
  gen : BitVec 16
deriving DecidableEq, Repr

/-- A meter entry written and not yet in effect (R227). -/
structure MeterWrite where
  tenant : Fin 4096
  w0 : Word
  fill : Bool
  /-- epoch in which it reached the NI -/
  epoch : Nat
  /-- the METER_PROG that wrote it -/
  cmd : Option (CmdRing × Nat)
deriving DecidableEq, Repr

/-- What an NI puts on its endpoint port, in order: responses, inbound work, error records (R481, R484, R490). -/
inductive EpOut where
  | rsp (pkt : Packet) | inb (pkt : Packet) | err (kind : BitVec 3) (st : Status) (op : BitVec 6) (lost : Bool)
deriving DecidableEq, Repr

/-- A recovery that an NI undergoes (R457, R469): the epoch of its start, and what it has discarded and quarantined. -/
structure NiRec where
  start : Nat
  discarded : Nat
  stores : Nat
  quarantined : Nat
deriving DecidableEq, Repr

/-- One of the 192 network interfaces. -/
structure NI where
  -- endpoint port
  reset : Bool
  /-- level of EP_RESET_N, true while asserted; an NI whose clock stands sees it at its next tick -/
  resetPin : Bool
  ready : Bool
  reqReady : Bool
  /-- request-ready is held low until orphaned tags are free (R145) -/
  readyHold : Bool
  out : List EpOut
  excCount : Nat
  readyChanges : Nat
  /-- flits of the request FIFO that the store has no room for yet (R109, R110) -/
  reqFifo : List FifoFlits
  /-- flits still to be consumed of a request discarded for control parity (R69); TAIL ends it sooner -/
  reqDrop : Nat
  reqDropTail : Bool
  -- request store
  partialReq : Option PendReq
  partialTicks : Nat
  remainder : Nat
  /-- opcode of the abandoned packet whose remainder is being discarded (R490) -/
  remainderOp : BitVec 6
  shortfall : Nat
  store : List PendReq
  /-- holds of DROWSE (posted writes) and of RETAIN (every request) entry -/
  holdPosted : Bool
  holdAll : Bool
  -- accepted requests
  nextReq : Nat
  nextPid : Nat
  inj : List Piece
  tags : List TagEnt
  reqs : List ReqEnt
  /-- request numbers in the order of R139, per domain -/
  order : Vector (List Nat) 3
  /-- response delivery mode in force per domain: true OUT_OF_ORDER (R128) -/
  rspOoo : Vector Bool 3
  fences : List Fence
  lostStores : Vector Nat 192
  oseq : Vector (BitVec 10) 192
  /-- ordered injection held until this epoch after a recovery (R458) -/
  orderedFrom : Nat
  /-- injection queues: each packet with the stamp of its arrival (R209) -/
  rspQ : List (Nat × Packet)
  skmQ : List (Nat × Packet)
  vatQ : List (Nat × Packet)
  dbQ : List (Nat × Packet)
  /-- the packet under way on each VC of the local port -/
  sending : Vector (Option Sending) 8
  /-- round-robin position per rank of the injection arbiter (R209) -/
  rrInj : Vector Nat 4
  credit : Vector Nat 8
  returning : Vector Nat 8
  hint : Vector (BitVec 3) 8
  age : Nat
  /-- class-G heads injected in the current slot: request, response; and which slot (R215) -/
  slotNow : Nat
  slotReq : Bool
  slotRsp : Bool
  /-- the flow table, by word (R223); its profiles are entries of the configuration sets -/
  meter : Sparse Word
  meterNext : List MeterWrite
  -- target side
  ej : Vector (List Flit) 8
  /-- the inbound check of the request packets in each ejection buffer, made as each head arrived (R299) -/
  ejGate : Vector (List (List GAns)) 8
  exp : Vector (Option (BitVec 10)) 192
  /-- sequences of early ordered packets discarded under R103, which E passes over (R138) -/
  gone : Vector (List (BitVec 10)) 192
  inq : List InPkt
  taken : List Taken
  discarding : Bool
  idle : Nat
  /-- inbound packets discarded (R103), refusals counted (R112) and the other counts the manual keeps at an NI -/
  discarded : Nat
  refused : Nat
  corrected : Nat
  lateRsp : Nat
  badAnswers : Nat
  atoms : List AtomEnt
  nextAtom : Nat
  locks : List LockEnt
  /-- epoch at which a lost lock table reopened, while R174 applies -/
  lockReopen : Option Nat
  gens : Vector (BitVec 8) 192
  -- Curd
  groups : Vector NiGroup 32
  stage : List StageEnt
  arrival : BitVec 32
  readWait : List InPkt
  vatSpills : List Packet
  vatDrains : List Packet
  /-- answers that wait for spill packets to be injected (R186): the packets' stamps -/
  spillAcks : List (List Nat × Packet)
  /-- heads of spilled atomics, by arrival index: R61 copies fields that a record of R198 does not hold -/
  spilledHeads : List (Nat × Flit)
  -- gates
  gates : Vector GateSet 2
  gateActive : Fin 2
  dbgAuth : Bool
  /-- regions whose GATE_ECC has been logged and which have not been reloaded (R305): set, region -/
  gateEcc : List (Fin 2 × Fin 32)
  /-- doorbell windows as this NI holds them (R315) -/
  windows : Vector Word 16
  /-- the home lines of each window as this NI holds them: bit r the line of command ring r, bit 8 lines 8 to 13 (R315) -/
  homes : Vector (BitVec 9) 16
  /-- a tick whose epoch number modulo 64 is 32 has come, and the closes are to be sent again (R191, R211) -/
  repeatDue : Bool
  /-- recovery: the NI is closed and its error sideband shows RECOVER (R457) -/
  closed : Bool
  recovering : Option NiRec
deriving DecidableEq, Repr

/-! ### Spine links -/

inductive LinkState where
  | off | train | up | retrain | down
deriving DecidableEq, Repr

/-- A flit record waiting in a record queue (R249), with the packet's pool choice and half. -/
structure SpineRec where
  svc : SvcId
  phase : RPhase
  out : BitVec 4
  pool : Bool
  flit : Flit
deriving DecidableEq, Repr

/-- A sent DATA SFU as the Pail keeps it: sequence, the 512 bits, and the records whose last bit it holds. -/
structure PailEnt where
  seq : Nat
  sfu : BitVec 512
  recs : List SpineRec
deriving DecidableEq, Repr

/-- One receive lane (R240, R267–R269). -/
structure Lane where
  lane : Nat
  failed : Bool
  failing : Bool
  inUse : Bool
  locked : Bool
  missed : Nat
  /-- markers seen, and the numbers of those among the last 1,024 whose BIP-8 failed -/
  markers : Nat
  bips : List Nat
deriving DecidableEq, Repr

/-- One end of a spine link: transmitter and receiver. -/
structure SpineEnd where
  state : LinkState
  en : Bool
  compress : Bool
  lockLoss : Nat
  laneErrMax : Nat
  returnWait : Nat
  -- transmitter
  n : BitVec 12
  o : BitVec 12
  pail : List PailEnt
  /-- sequence from which a replay runs -/
  replay : Option (BitVec 12)
  fruitless : Nat
  lastProgress : Nat
  /-- when the timer of R258 last began a replay -/
  timerAt : Nat
  queue : List SpineRec
  /-- a record begun and not finished, with the bits still to be sent -/
  tx : Option (List Bool × SpineRec)
  credit : Vector Nat 16
  farPoolOff : Bool
  /-- outstanding dedicated flits per spine VC with the SFU that carried each (R262) -/
  outstanding : Vector (List (BitVec 12)) 16
  lastSent : Vector Nat 16
  farCount : Vector (BitVec 12) 16
  sinceLink : Nat
  -- receiver
  e : BitVec 12
  recovering : Bool
  nakDue : Bool
  lastNak : Nat
  lastAccept : Nat
  ackCount : Nat
  ackSince : Option Nat
  ackIsDue : Bool
  rxBits : List Bool
  dedicated : Vector Nat 16
  freed : Vector (BitVec 12) 16
  freedInc : Vector Nat 16
  poolFree : Nat
  poolOff : Bool
  /-- FCLK time from which an OFF pool is still to be counted (R279) -/
  poolSince : Nat
  /-- the pool has changed state and no LINK SFU has said so (R248) -/
  poolNote : Bool
  /-- credit leaks found, per spine VC (R263) -/
  creditLeaks : Vector Nat 16
  /-- SFUs on the lanes towards this end -/
  lanesIn : List (BitVec 512)
  /-- SFU slots of that direction since its last lane markers, and the parity of the bits that its far end has put on
  each lane and of those that have come off it since (R240) -/
  slots : Nat
  sentPar : BitVec 512
  seenPar : BitVec 512
  lanes : List Lane
  spareNoted : Bool
  -- link management
  lockTimer : Bool
  attempts : Nat
  downEpoch : Option Nat
  lastTry : Nat
  stopping : Bool
  /-- bodies of packets whose head was granted before the link went down and which go to the return path (R273) -/
  returning : Bool
  linkReq : Bool
  /-- the first LINK SFU after a training is due (R267) -/
  firstLink : Bool
  /-- a FAILING lane in use asks for a retrain at the next tick (R269) -/
  retrainAt : Option Nat
  /-- withhold training until the return is complete, and the first SFU of the Pail that cannot be read (R438) -/
  withhold : Bool
  pailBad : Option (BitVec 12)
  /-- a full training attempt of a DOWN link is in progress (R266) -/
  attempting : Bool
deriving DecidableEq, Repr

/-! ### The Herdsman -/

/-- Whether a fetched entry may be acted on (R323): it may; its read was answered LOST; its INDEX_CHK did not match,
with the re-reads left. -/
inductive CmdChk where
  | ready | lost | mismatch (left : Nat)
deriving DecidableEq, Repr

/-- A command descriptor read from a ring (R321). -/
structure Cmd where
  ring : CmdRing
  index : Nat
  desc : BitVec 512
  chk : CmdChk
  /-- its row has acted, and the command waits for what completes it -/
  ran : Bool
  /-- the Herdsman's epoch at which its entry was last read (R323) -/
  readAt : Nat
  /-- how it ends once host memory has answered its accesses (R327, R474) -/
  ending : Status × BitVec 16 × BitVec 320
  /-- some: the command has ended with this status, DETAIL and RESULT (bytes 24–63) -/
  result : Option (Status × BitVec 16 × BitVec 320)
deriving DecidableEq, Repr

/-- What an access of the Herdsman through NI 188 is for (R30): a home word that it owns, the interrupt of a publication,
an entry or the index of a publication, a ring command, one line of a drain with the entries that it holds, and the
first header, the records, the fence and the closing header of half of a gather (`user`: of the user buffer). -/
inductive MemUse where
  | home | intr
  | entry (r : RingId) (i : Nat) | index (r : RingId)
  | cmd (ring : CmdRing) (index : Nat)
  | drain (ring : CmdRing) (index : Nat) (entries : List Nat)
  | gatherHead (user : Bool) | gather | gatherFence | gatherClose
deriving DecidableEq, Repr

/-- An access that waits for NI 188 to take it; `after`: it waits for the answers to the accesses of that use. -/
structure MemAcc where
  use : MemUse
  pkt : Packet
  after : Option MemUse
deriving DecidableEq, Repr

/-- An access that NI 188 has taken: its TAG; for a posted one that is accepted, the request number and the pieces that
are not answered; the worst status so far, and the per-line field. -/
structure MemBusy where
  use : MemUse
  tag : Nat
  req : Option Nat
  left : Nat
  st : Status
  lstat : BitVec 16
deriving DecidableEq, Repr

/-- A CFG_COPY whose acknowledgements are awaited (R331). -/
structure CopyWait where
  ring : CmdRing
  index : Nat
deriving DecidableEq, Repr

/-- One of the fourteen rings (R311, R312, R515): set-up word, indices, and for completion and event rings the
entries not yet published. -/
structure HRing where
  word : Word
  prod : BitVec 32
  cons : BitVec 32
  halted : Bool
  pending : List (BitVec 512)
  /-- entries written and waiting for their WR_ACKs: how many -/
  batch : Nat
  /-- the WR_ACKs of the batch's entries, and that of its index, as they come (R336) -/
  acks : List (Option Status)
  indexAck : Option Status
  retry : Bool
  dropped : Nat
  /-- the index of the publication is being written -/
  indexSent : Bool
  /-- interrupt address and value with which the publication started (R518) -/
  intr : Word × Word
  /-- newly enabled: its home line is read at the next tick (R516) -/
  fresh : Bool
deriving DecidableEq, Repr

/-- An accepted configuration swap (R332). -/
structure Swap where
  tick : Nat
  toB : Bool
  ring : CmdRing
  index : Nat
  /-- the row stewards that have acknowledged it -/
  acked : BitVec 8
deriving DecidableEq, Repr

/-- An open merged event (R34). -/
structure Merge where
  ev : Event
  opened : Nat
  count : Nat
deriving DecidableEq, Repr

/-- A commit group at the coordinator (R179, R180, R191, R192). -/
structure CoGroup where
  state : GroupState
  members : BitVec 192
  targets : BitVec 192
  start : Nat
  vatSlot : Nat
  vatBase : Nat
  vatSlice : Nat
  notify : Bool
  c : Nat
  ks : Vector Nat 192
  /-- logical epochs whose closes carried INEXACT -/
  inexact : List Nat
  lastCommit : Option (Nat × Nat × Bool)
deriving DecidableEq, Repr

/-- A snapshot sequence (R381, R382). -/
structure SnapSeq where
  ring : CmdRing
  index : Nat
  next : Nat
  first : Nat
  repeats : Nat
  interval : Nat
  cmdId : Nat
  done : Nat
  abandoned : Nat
  user : Bool
  stop : Bool
  /-- the tick that units are armed for, and the sectors whose units have received the arm -/
  armed : Option (Nat × BitVec 8)
deriving DecidableEq, Repr

/-- The milk round of one sector: the row steward's side (R28, R334, R335). -/
structure MilkRound where
  reachable : Bool
  /-- answers awaited by the row steward: tag, the words sent, failures so far -/
  awaited : List (BitVec 8 × List (BitVec 32) × Nat)
  /-- frames on their way to the row steward and frames it sends -/
  toSteward : List (List (BitVec 32))
  sent : List (List (BitVec 32))
  tokenStopped : Bool
  /-- epoch of the last ring token that returned -/
  token : Nat
  /-- ring tokens that are on their way round (R335) -/
  tokens : Nat
  /-- frames that an agent sends again, with the failures so far (R335) -/
  agentSent : List (List (BitVec 32) × Nat)
  lost : Bool
  resetAt : Nat
  /-- frames discarded at each stop (R335) -/
  badFrames : Vector Nat 13
  dirty : Bool
  /-- the sector armed a swap and became unreachable before its cancellation (R333) -/
  split : Option Nat
deriving DecidableEq, Repr

structure Herd where
  epoch : Nat
  dbgAuth : Bool
  tickDbg : Bool
  /-- set-up -/
  ctl : Word
  rings : Vector HRing 14
  windows : Vector Word 16
  intrAddr : Vector Word 6
  intrVal : Vector Word 6
  irqMask : Word
  causeFatal : Bool
  causeDropped : Bool
  lock : Bool
  win : Word
  winNext : Option Word
  bootStatus : Word
  /-- commands read and not started, started and not complete -/
  fetched : List Cmd
  started : List Cmd
  accept : Bool
  turn : Nat
  dbStale : Nat
  /-- events reported and not yet taken, merged events open -/
  reports : List Event
  merges : List Merge
  /-- events held while host memory cannot be reached (R38) -/
  heldBack : Nat
  rounds : Vector MilkRound 8
  active : Bool
  swap : Option Swap
  gens : Vector (BitVec 8) 192
  /-- generation increments of slots whose sector the Herdsman cannot reach, and which wait for its return (R37) -/
  gensLate : Vector (BitVec 8) 192
  resync : Vector Bool 192
  spineUp : BitVec 6
  /-- the commit groups, as the commit coordinator holds them (R179) -/
  groups : Vector CoGroup 32
  /-- canonical region table; every NI holds an identical copy (R176) -/
  regions : Vector Word 64
  served : Nat
  /-- CM_COMMIT flits left in this epoch's budget (R192) -/
  commitLeft : Nat
  /-- every home line is to be read again before the Herdsman publishes (R38) -/
  rereadAll : Bool
  govLevel : Nat
  govLow : Nat
  govFigures : Nat
  govSat : Option Nat
  /-- the GENs each NI last reported: active, shadow (R327) -/
  gens2 : Vector (BitVec 16 × BitVec 16) 192
  /-- clusters to which a tick is on its way (R210) -/
  tickDue : BitVec 24
  /-- accesses to memory that NI 188 has still to take, in order, and those that it has taken (R30) -/
  memOut : List MemAcc
  memBusy : List MemBusy
  copy : Option CopyWait
  moving : Option (Vector Word 16)
deriving DecidableEq, Repr

/-! ### Performance counters and the Dipper -/

structure Dipper where
  privBase : Word
  userBase : Word
  userCtl : Word
  selAddr : BitVec 12
  /-- the Herdsman's copy of every selection, keyed by global index (R378) -/
  sel : Sparse (BitVec 32)
  /-- selections in force at the units, and those received and waiting for the unit's next tick -/
  inForce : Sparse (BitVec 32)
  waiting : List (Nat × BitVec 32 × Nat)
  resend : List Nat
  busy : Bool
  dropped : Bool
  value : Sparse (BitVec 48)
  ovf : Sparse Bool
  shadow : Sparse (BitVec 48)
  shadowOvf : Sparse Bool
  restarted : Sparse Bool
  /-- epoch of the last COUNTER_WRAP notification of a counter -/
  noted : Sparse Nat
  /-- selections as they stood at the last latch -/
  shadowSel : Sparse (BitVec 32)
  /-- one more than the epoch at which each router's units last latched -/
  latched : Vector Nat 96
  seq : Option SnapSeq
  qPriv : Nat
  qUser : Nat
  /-- a gather in progress: its tick, and whether its closing headers have been written -/
  gather : Option (Nat × Bool)
  /-- fences and closing headers of the gather that have been answered OK, and whether some write was not (R386) -/
  gatherAcks : Nat
  gatherFail : Bool
  /-- values a gather started with: privileged base, user base, user control (R390) -/
  gBase : Word × Word × Word
  privSeq : BitVec 32
  userSeq : BitVec 16
deriving DecidableEq, Repr

/-! ### The metering island -/

/-- A tally lane and its combiner (R351, R354, R356). -/
structure TallyLane where
  fifo : List (BitVec 24)
  /-- markers that the NI has still to write, the FIFO having been full at their ticks (R352, R353) -/
  owed : List (BitVec 24)
  epoch : Nat
  /-- the first marker after a reset takes epoch bits [47:12] zero (R354) -/
  fresh : Bool
  combiner : List (Nat × Nat × Nat)
  /-- the boundary this lane has delivered -/
  atBoundary : Option Nat
deriving DecidableEq, Repr

/-- A snapshot or report of the Can (R360–R364). -/
structure CanReport where
  reason : Nat
  boundary : Nat
  start : Nat
  absent : BitVec 32
  counters : Sparse Word
  log : List (BitVec 128)
  dropped : Nat
  exact : Bool
  sealed : Bool
  aclk : Nat
  seq : BitVec 32
  /-- MTR_CFG and the tenant map in force for the period -/
  cfg : Word
  tmap : Sparse (BitVec 16)
  /-- lines handed over for NI 190: none, 4,112 with FN_STORE_G, 4,113 with the trailer -/
  lines : Nat
deriving DecidableEq, Repr

structure Can where
  key : Vector Word 4
  keyOk : Bool
  /-- a word read at the power-on reset failed (R363) -/
  keyFail : Bool
  /-- SEAL_OPEN_N is asserted -/
  sealOpen : Bool
  session : Word
  sealEvents : BitVec 32
  sealed : Bool
  sealRefused : Bool
  unsealPending : Bool
  otsFail : Bool
  /-- one-time-store operation outstanding: read of a word, or 16 for the increment -/
  ots : Option Nat
  cfg : Word
  cfgNext : Word
  tmapAddr : BitVec 12
  tmap : Sparse (BitVec 16)
  tmapNext : Sparse (BitVec 16)
  rptBase : Word
  rptCtl : Word
  lastFailed : Bool
  lastSeq : BitVec 32
  nextSeq : BitVec 32
  ctrAddr : BitVec 15
  counters : Sparse Word
  lanes : Vector TallyLane 32
  log : List (BitVec 128)
  logDropped : Nat
  exact : Bool
  /-- a close asked for: its REASON (SEAL 1, UNSEAL 2, NOW 3) and the first epoch whose markers may close it -/
  asked : Option (Nat × Nat)
  /-- boundary being collected -/
  closing : Option Nat
  /-- what lanes that have delivered the boundary being collected have counted since -/
  held : Sparse Word
  start : Nat
  absentNow : BitVec 32
  report : Option CanReport
  paused : Bool
  lastMac : BitVec 256
  lastDone : BitVec 32
  events : List Event
  eventsLost : Nat
  resetNotice : Bool
  mclkLost : Bool
  /-- requests that NI 190 has still to take, in order, and the TAG of the one whose response the Can awaits (R364) -/
  memOut : List Packet
  tag : Option Nat
deriving DecidableEq, Repr

/-! ### The Crock -/

structure Crock where
  entries : Sparse (BitVec 128)
  valid : Sparse Bool
  /-- entries written after the trigger -/
  post : Sparse Bool
  cont : Sparse Bool
  next : Nat
  trigIdx : Nat
  triggered : Bool
  stopped : Bool
  postLeft : Nat
  arm : Bool
  lost : Nat
  suppressed : Nat
  /-- event code, unit, its epoch and end of the entry last written of that code, unit and end (R455, R310) -/
  seen : List (BitVec 16 × BitVec 16 × Nat × Bool)
deriving DecidableEq, Repr

/-! ### The always-on island -/

/-- A MODE_REQ in progress (R396, R398, R403): ring, index, target, phase, wake latch. -/
structure ModeReq where
  ring : CmdRing
  index : Nat
  target : Mode
  source : Mode
  /-- 1 accept, 2 drain, 3 quiet (DROWSE: the root), 4 stop (the codes), 5 in RETAIN -/
  phase : Nat
  drainFrom : Nat
  /-- the drain timeout in force when phase 2 began (R520) -/
  limit : Nat
  s : Nat
  aclkEnd : Nat
deriving DecidableEq, Repr

structure Aon where
  mode : Mode
  aclk : BitVec 64
  wakeCfg : Word
  alarm : Word
  lastWake : Word
  lastWakeAclk : Word
  drain : BitVec 16
  codes : Vector Word 8
  /-- pin levels as synchronised -/
  wakeIn : BitVec 8
  epWake : BitVec 192
  /-- the endpoint reset record of R410 -/
  epRec : BitVec 192
  freezePin : Bool
  freezeHold : Bool
  freezeFrom : Mode
  freezeCount : BitVec 32
  freezeStop : Word
  freezeThaw : Word
  /-- an entry whose drain timeout has a part already counted when a freeze stopped it -/
  frozenAt : Nat
  dbgAuth : Bool
  /-- handshakes (R418, R419, R423) -/
  supply : BitVec 2
  bias : BitVec 6
  assist : BitVec 4
  pwrReq : Bool
  pwrAck : Bool
  /-- the mode whose handshake is awaited, and the ACLK count at which it is late (R421, R496) -/
  pwrDue : Option (Mode × Nat)
  /-- codes that wait for PWRC_ACK to fall (R418) -/
  want : Option (BitVec 2 × BitVec 6 × BitVec 4)
  pwrLate : Bool
  clkReq : BitVec 26
  clkAck : BitVec 26
  rootSel : Bool
  rootAck : Bool
  /-- boot load (R499, R512, R513) -/
  bootWords : List (Option Word)
  bootFailed : Nat
  bootFirst : Nat
  resetDone : Bool
  modeReq : Option ModeReq
  lastTarget : Mode
  lastDetail : BitVec 16
  latch : Option (BitVec 4 × BitVec 8)
  armedLatch : Bool
  /-- wake-caused exit (DROWSE) or return (RETAIN) in progress and its step -/
  exitStep : Option Nat
  retStep : Option Nat
  retS : Nat
  retFrom : Nat
  retSource : BitVec 4
  retReplayed : Bool
  /-- a bank failed the retention check of this return (R408) -/
  retFailed : Bool
  stepFrom : Nat
  /-- MODE_REQ SERVE commands that joined an exit or return (R396) -/
  joined : List (CmdRing × Nat)
  gated : BitVec 24
  drowseWhey : BitVec 24
  /-- the supply power-on has cleared the Crock, and boot records for page CRK_ apply (R510) -/
  crkBoot : Bool
  /-- the reset in progress is a warm one -/
  warm : Bool
  -- test port
  tapIr : BitVec 8
  tapDr : BitVec 714
  /-- flits of an answer of slot 191 that is not whole -/
  tapAns : Packet
deriving DecidableEq, Repr

/-! ### Stored data (R431–R450) -/

structure Engine where
  bank : BankRef
  done : Nat
  /-- the last four corrected lines: row and sweep -/
  recent : List (Nat × Nat)
deriving DecidableEq, Repr

structure Churn where
  rate : Nat
  paused : Bool
  acc : Vector Nat 24
  due : Vector Nat 24
  crockAcc : Nat
  crockDue : Nat
  engines : List Engine
  corrections : Nat
  uncorrectable : Nat
  repeats : Nat
  awaiting : List (TabUnit × Nat)
  /-- words that are uncorrectable as stored -/
  bad : List (TabUnit × Nat × WordKind)
  /-- bank copies in progress and completed (R445): bank, target bank -/
  copying : List (BankRef × Nat)
  copied : List (BankRef × Nat)
  /-- valid-bit groups, by bank and row, whose parity has been found wrong and has not been rewritten, and what their
  words hold (R435) -/
  groupBad : List (BankRef × Nat × List WordKind)
  /-- canary words 0 and 1 of every retained bank, once they have been written (R447) -/
  canaries : Option (Word × Word)
deriving DecidableEq, Repr

/-! ### Recovery (R456–R469) -/

structure ClusterRec where
  step : Nat
  attempts : Nat
  start : Nat
  discarded : Nat
  stores : Nat
  quarantined : Nat
  clkAsked : Nat
deriving DecidableEq, Repr

structure DieRec where
  step : Nat
  restarts : Nat
  start : Nat
  /-- epoch at which the step began -/
  since : Nat
  discarded : Nat
  stores : Nat
  quarantined : Nat
deriving DecidableEq, Repr

structure Recovery where
  clusters : Vector (Option ClusterRec) 24
  dead : BitVec 24
  die : Option DieRec
  failed : Bool
  /-- per cluster, the previous tick needed a correction (R466) -/
  slipped : BitVec 24
  /-- per cluster, the highest epoch number whose tick it has taken (R211) -/
  epochTop : Vector Nat 24
deriving DecidableEq, Repr

/-! ### The block -/

structure State where
  routers : Vector Router 96
  nis : Vector NI 192
  spine : Vector SpineEnd 12
  /-- the 48-bit epoch counter of each cluster (R211) -/
  epochs : Vector Nat 24
  /-- configuration sets A and B of every unit, keyed by item, unit, port and index (R330) -/
  cfgA : Sparse Nat
  cfgB : Sparse Nat
  herd : Herd
  dip : Dipper
  can : Can
  crock : Crock
  aon : Aon
  churn : Churn
  recov : Recovery
  /-- the model's own: how many free values have been drawn -/
  drawn : Nat
  /-- the commands that wait, first in first out -/
  pending : List Instr
deriving DecidableEq, Repr

/-! ### Reset (R395, R433, R510, R522) -/

def Lane.reset (i n : Nat) : Lane :=
  { lane := i, failed := false, failing := false, inUse := decide (i < n), locked := false, missed := 0,
    markers := 0, bips := [] }

def RouterIn.reset : RouterIn :=
  { wire := [], buf := tabAll 16 [], drop := tabAll 16 0, dropTail := tabAll 16 false,
    poisonRest := tabAll 16 false, left := tabAll 16 0, total := tabAll 16 0,
    head := tabAll 16 0 }

/-- R80: input buffer depths inside a cluster, and across a boundary or on an express link. -/
def depthNear : Vector Nat 8 := #v[8, 4, 8, 4, 4, 4, 2, 4]
def depthFar : Vector Nat 8 := #v[12, 6, 12, 6, 6, 6, 2, 6]
/-- R80: the local input; an NI never injects on VC 1 or 3. -/
def depthLocal : Vector Nat 8 := #v[4, 0, 4, 0, 4, 4, 2, 4]
/-- R526: the ejection buffer. -/
def depthEject : Vector Nat 8 := tabAll 8 4

/-- Coordinates of a router (R17). -/
def rx (r : RouterId) : Nat := r.val % 12
def ry (r : RouterId) : Nat := r.val / 12

/-- R80 and R526: the credits that an output starts with, from where its link leads. -/
def outDepth (r : RouterId) (p : PortId) : Vector Nat 8 :=
  match p.val with
  | 0 => if ry r % 2 = 1 then depthNear else depthFar
  | 1 => if rx r % 2 = 0 then depthNear else depthFar
  | 2 => if ry r % 2 = 0 then depthNear else depthFar
  | 3 => if rx r % 2 = 1 then depthNear else depthFar
  | 8 => depthEject
  | 9 => depthEject
  | _ => depthFar

def RouterOut.reset (r : RouterId) (p : PortId) : RouterOut :=
  { credit := outDepth r p, returning := tabAll 8 0, owner := tabAll 16 none, rr := tabAll 4 0, age := 0,
    hint := tabAll 8 0, creamPair := 0, creamCount := 0, down := false }

def Router.reset (r : RouterId) : Router :=
  { ins := tabAll 11 RouterIn.reset, outs := tabOf (RouterOut.reset r), spineUp := 0, active := false,
    armed := none, govLevel := 0, govNext := none, eMesh := 0, eExpr := 0, eOut := 0, eLocIn := 0, eLocOut := 0,
    bwIn := tabAll 10 0, bwOut := tabAll 10 0, bwShadowIn := tabAll 10 0, bwShadowOut := tabAll 10 0,
    returned := [] }

def NiGroup.reset : NiGroup :=
  { state := .disabled, member := false, target := false, k := 0, cm := 0, ct := 0, cmNext := [], relNext := [],
    releasing := none, through := 0, close := none, inexact := [], lastInexact := false, vatSlot := 16, vatBase := 0,
    vatSlice := 0,
    rank := 0, vatHead := 0, vatTail := 0, vatLeps := [], vatRecs := [], vatInvalid := [], pass := none }

def GateSet.reset : GateSet := { regions := tabAll 32 (0, 0), ctl := 0, gen := 0 }

def NI.reset0 : NI :=
  { reset := false, resetPin := false, ready := false, reqReady := false, readyHold := false, out := [],
    excCount := 0, readyChanges := 0, reqFifo := [], reqDrop := 0, reqDropTail := false,
    partialReq := none, partialTicks := 0, remainder := 0, remainderOp := 0, shortfall := 0, store := [],
    holdPosted := false,
    holdAll := false, nextReq := 0, nextPid := 0, inj := [], tags := [], reqs := [], order := tabAll 3 [],
    rspOoo := tabAll 3 false, fences := [], lostStores := tabAll 192 0, oseq := tabAll 192 0, orderedFrom := 0,
    rspQ := [], skmQ := [], vatQ := [], dbQ := [], sending := tabAll 8 none, rrInj := tabAll 4 0,
    credit := depthLocal, returning := tabAll 8 0,
    hint := tabAll 8 0, age := 0, slotNow := 0, slotReq := false, slotRsp := false, meter := [], meterNext := [],
    ej := tabAll 8 [], ejGate := tabAll 8 [], exp := tabAll 192 (some 0), gone := tabAll 192 [], inq := [],
    taken := [], discarding := false, idle := 0,
    discarded := 0, refused := 0, corrected := 0, lateRsp := 0, badAnswers := 0, atoms := [], nextAtom := 0,
    locks := [], lockReopen := none, gens := tabAll 192 0, groups := tabAll 32 NiGroup.reset, stage := [],
    arrival := 0, readWait := [], vatSpills := [], vatDrains := [], spillAcks := [], spilledHeads := [],
    gates := tabAll 2 GateSet.reset, gateActive := 0, dbgAuth := false, gateEcc := [],
    windows := tabAll 16 0, homes := tabOf (fun w => if w = 0 then 0x1FF else 0), repeatDue := false, closed := false,
    recovering := none }

/-- R259: dedicated flits per spine VC. -/
def spineDepth : Vector Nat 16 := #v[8, 8, 0, 0, 8, 8, 0, 0, 4, 4, 4, 4, 2, 2, 4, 4]

/-- A link end belongs to a diagonal link (SPN4, SPN5) (R20). -/
def diagonal (e : LinkEnd) : Bool := decide (8 ≤ e.val)

/-- R239: data lanes and physical lanes. -/
def dataLanes (e : LinkEnd) : Nat := if diagonal e then 64 else 32
def physLanes (e : LinkEnd) : Nat := if diagonal e then 68 else 34

def SpineEnd.reset (e : LinkEnd) : SpineEnd :=
  { state := .off, en := true, compress := true, lockLoss := 10, laneErrMax := 16, returnWait := 16,
    n := 0, o := 0, pail := [], replay := none, fruitless := 0, lastProgress := 0, timerAt := 0, queue := [], tx := none,
    credit := spineDepth, farPoolOff := false, outstanding := tabAll 16 [], lastSent := tabAll 16 0,
    farCount := tabAll 16 0, sinceLink := 0, e := 0, recovering := false, nakDue := false, lastNak := 0,
    lastAccept := 0, ackCount := 0, ackSince := none, ackIsDue := false, rxBits := [], dedicated := tabAll 16 0,
    freed := tabAll 16 0, freedInc := tabAll 16 0, poolFree := 4096, poolOff := false, poolSince := 0,
    poolNote := false, creditLeaks := tabAll 16 0,
    lanesIn := [], slots := 0, sentPar := 0, seenPar := 0,
    lanes := (List.range (physLanes e)).map (fun i => Lane.reset i (dataLanes e)),
    spareNoted := false, lockTimer := false, attempts := 0, downEpoch := none, lastTry := 0, stopping := false,
    returning := false, linkReq := false, firstLink := false, retrainAt := none, withhold := false,
    pailBad := none, attempting := false }

def HRing.reset : HRing :=
  { word := 0, prod := 0, cons := 0, halted := false, pending := [], batch := 0, acks := [], indexAck := none,
    retry := false, dropped := 0,
    indexSent := false, intr := (0, 0), fresh := false }

def MilkRound.reset : MilkRound :=
  { reachable := true, awaited := [], toSteward := [], sent := [], tokenStopped := false, token := 0,
    tokens := 0, agentSent := [], lost := false, resetAt := 0, badFrames := tabAll 13 0, dirty := false, split := none }

def CoGroup.reset : CoGroup :=
  { state := .disabled, members := 0, targets := 0, start := 0, vatSlot := 16, vatBase := 0, vatSlice := 0,
    notify := false, c := 0, ks := tabAll 192 0, inexact := [], lastCommit := none }

/-- R177: a canonical region word after reset: SIZE_LOG 0x0C, the rest zero. -/
def regionReset : Word := 0x00C0000000000000#64

def Herd.reset : Herd :=
  { epoch := 0, dbgAuth := false, tickDbg := false, ctl := 0x10#64, rings := tabAll 14 HRing.reset,
    windows := tabAll 16 0, intrAddr := tabAll 6 0, intrVal := tabAll 6 0, irqMask := 0, causeFatal := false,
    causeDropped := false, lock := false, win := 0, winNext := none, bootStatus := 0, fetched := [],
    started := [], accept := true, turn := 0, dbStale := 0, reports := [], merges := [], heldBack := 0,
    rounds := tabAll 8 MilkRound.reset, active := false, swap := none, gens := tabAll 192 0,
    gensLate := tabAll 192 0, resync := tabAll 192 false, spineUp := 0, groups := tabAll 32 CoGroup.reset,
    regions := tabAll 64 regionReset,
    served := 31, commitLeft := 0, rereadAll := false, govLevel := 0, govLow := 0, govFigures := 0, govSat := none,
    gens2 := tabAll 192 (0, 0), tickDue := 0, memOut := [], memBusy := [], copy := none, moving := none }

def Dipper.reset : Dipper :=
  { privBase := 0, userBase := 0, userCtl := 0, selAddr := 0, sel := [], inForce := [], waiting := [], resend := [],
    busy := false, dropped := false, value := [], ovf := [], shadow := [], shadowOvf := [], restarted := [],
    noted := [], shadowSel := [], latched := tabAll 96 0, seq := none, qPriv := 0, qUser := 0, gather := none,
    gatherAcks := 0, gatherFail := false,
    gBase := (0, 0, 0), privSeq := 0xFFFFFFFF#32, userSeq := 0xFFFF#16 }

def TallyLane.reset : TallyLane := { fifo := [], owed := [], epoch := 0, fresh := true, combiner := [], atBoundary := none }

def Can.reset : Can :=
  { key := tabAll 4 0, keyOk := false, keyFail := false, sealOpen := false, session := 0, sealEvents := 0,
    sealed := false, sealRefused := false,
    unsealPending := false, otsFail := false, ots := some 0, cfg := 0x0000FFFF00100000#64,
    cfgNext := 0x0000FFFF00100000#64, tmapAddr := 0, tmap := [], tmapNext := [], rptBase := 0,
    rptCtl := 0x100007#64, lastFailed := false, lastSeq := 0xFFFFFFFF#32, nextSeq := 0, ctrAddr := 0,
    counters := [], lanes := tabAll 32 TallyLane.reset, log := [], logDropped := 0, exact := true, asked := none,
    closing := none, held := [], start := 0, absentNow := 0, report := none, paused := false, lastMac := 0,
    lastDone := 0xFFFFFFFF#32, events := [], eventsLost := 0, resetNotice := false, mclkLost := false,
    memOut := [], tag := none }

def Crock.reset : Crock :=
  { entries := [], valid := [], post := [], cont := [], next := 0, trigIdx := 0, triggered := false,
    stopped := false, postLeft := 0, arm := true, lost := 0, suppressed := 0, seen := [] }

/-- R417: reset codes of each mode: SUPPLY [11:10], BIAS [9:4], ASSIST [3:0]. FREEZE's entry is never used. -/
def codesReset : Vector Word 8 := #v[0xC00, 0xC00, 0xC00, 0x8C1, 0x5C3, 0x000, 0xC00, 0xC02]

/-- R412: every POL_n resets to 1. -/
def wakeCfgReset : Word := 0x492492#64

def Aon.reset : Aon :=
  { mode := .reset, aclk := 0, wakeCfg := wakeCfgReset, alarm := 0, lastWake := 0, lastWakeAclk := 0,
    drain := 0x0280#16, codes := codesReset, wakeIn := 0, epWake := 0, epRec := 0, freezePin := false,
    freezeHold := false,
    freezeFrom := .reset, freezeCount := 0, freezeStop := 0, freezeThaw := 0, frozenAt := 0, dbgAuth := false,
    supply := 3, bias := 0, assist := 0, pwrReq := false, pwrAck := false, pwrDue := none, want := none, pwrLate := false,
    clkReq := 0, clkAck := 0, rootSel := false, rootAck := false, bootWords := [], bootFailed := 0, bootFirst := 0,
    resetDone := false, modeReq := none, lastTarget := .reset, lastDetail := 0, latch := none, armedLatch := false,
    exitStep := none, retStep := none, retS := 0, retFrom := 0, retSource := 0, retReplayed := false,
    retFailed := false, stepFrom := 0,
    joined := [], gated := 0, drowseWhey := 0, crkBoot := true, warm := false, tapIr := 0x01#8, tapDr := 0,
    tapAns := [] }

def Churn.reset : Churn :=
  { rate := 537, paused := false, acc := tabAll 24 0, due := tabAll 24 0, crockAcc := 0, crockDue := 0,
    engines := [], corrections := 0, uncorrectable := 0, repeats := 0, awaiting := [], bad := [], copying := [],
    copied := [], groupBad := [], canaries := none }

def Recovery.reset : Recovery :=
  { clusters := tabAll 24 none, dead := 0, die := none, failed := false, slipped := 0, epochTop := tabAll 24 0 }

/-- The block right after a hard reset at the power-on of every domain, before the reset sequence has ended. -/
def State.reset : State :=
  { routers := tabOf Router.reset, nis := tabAll 192 NI.reset0, spine := tabOf SpineEnd.reset,
    epochs := tabAll 24 0, cfgA := [], cfgB := [], herd := Herd.reset, dip := Dipper.reset, can := Can.reset,
    crock := Crock.reset, aon := Aon.reset, churn := Churn.reset, recov := Recovery.reset, drawn := 0,
    pending := [] }

end Sys2Proof.Machine
end

