-- ==== Sys2Proof/Machine/Topology.lean ====
section
/-! DEFINITION. The instance layout of chapter 01: the router grid, express and spine links, ports, slot placement,
clusters, quadrants, sectors, and the path costs of R107. -/

namespace Sys2Proof.Machine

/-- Router (x, y) (R17). -/
def rid (x y : Nat) : RouterId := Fin.ofNat 96 (y * 12 + x)

/-- R24: the slot on L0 and on L1 of every router, by router ID × 2 + local port. -/
def slotGrid : List (List Nat) := [
  [0, 16, 17, 18, 19, 20, 21, 22, 23, 24, 25, 26, 27, 28, 29, 30, 31, 32, 33, 34, 35, 36, 8, 37],
  [1, 38, 39, 40, 180, 181, 128, 129, 130, 131, 41, 42, 43, 44, 132, 133, 134, 135, 182, 183, 45, 46, 9, 47],
  [2, 160, 80, 81, 82, 83, 84, 85, 86, 87, 88, 89, 90, 91, 92, 93, 94, 95, 96, 97, 98, 99, 10, 164],
  [3, 161, 120, 121, 144, 145, 146, 147, 168, 169, 170, 188, 171, 189, 172, 173, 148, 149, 150, 151, 122, 123, 11, 165],
  [4, 162, 124, 125, 152, 153, 154, 155, 174, 175, 176, 190, 177, 191, 178, 179, 156, 157, 158, 159, 126, 127, 12, 166],
  [5, 163, 100, 101, 102, 103, 104, 105, 106, 107, 108, 109, 110, 111, 112, 113, 114, 115, 116, 117, 118, 119, 13, 167],
  [6, 48, 49, 50, 184, 185, 136, 137, 138, 139, 51, 52, 53, 54, 140, 141, 142, 143, 186, 187, 55, 56, 14, 57],
  [7, 58, 59, 60, 61, 62, 63, 64, 65, 66, 67, 68, 69, 70, 71, 72, 73, 74, 75, 76, 77, 78, 15, 79]  ]

/-- NI position (R23) → slot. -/
def slotAtPos (pos : Nat) : Nat := (slotGrid.getD (pos / 24) []).getD (pos % 24) 0

/-- The slot whose NI is on local port `p` (0 or 1) of router `r`. -/
def slotAt (r : RouterId) (p : Nat) : Slot := Fin.ofNat 192 (slotAtPos (2 * r.val + p))

/-- NI position of a slot (R23). -/
def niPos (n : Nat) : Nat := slotGrid.flatten.findIdx (· == n)

/-- The router that holds a slot's NI, and the local port (8 or 9) it hangs on. -/
def routerOf (n : Slot) : RouterId := Fin.ofNat 96 (niPos n.val / 2)
def localPort (n : Slot) : PortId := if niPos n.val % 2 = 0 then 8 else 9

/-- R26, and the cluster of a slot (R25). -/
def clusterOf (r : RouterId) : ClusterId := Fin.ofNat 24 ((ry r / 2) * 6 + rx r / 2)
def slotCluster (n : Slot) : ClusterId := clusterOf (routerOf n)

/-- R20. -/
def quadOf (r : RouterId) : QuadId := Fin.ofNat 4 ((ry r / 4) * 2 + rx r / 6)

/-- R28: sector n is row n. -/
def sectorOf (r : RouterId) : SectorId := Fin.ofNat 8 (ry r)
def slotSector (n : Slot) : SectorId := sectorOf (routerOf n)

/-- The routers of a cluster (R26) and its eight slots. -/
def clusterRouters (c : ClusterId) : List RouterId :=
  let x := 2 * (c.val % 6)
  let y := 2 * (c.val / 6)
  [rid x y, rid (x + 1) y, rid x (y + 1), rid (x + 1) (y + 1)]
def clusterSlots (c : ClusterId) : List Slot := (clusterRouters c).flatMap (fun r => [slotAt r 0, slotAt r 1])

/-- The two sectors that a cluster lies in. -/
def clusterSectors (c : ClusterId) : List SectorId :=
  [Fin.ofNat 8 (2 * (c.val / 6)), Fin.ofNat 8 (2 * (c.val / 6) + 1)]

/-- R20: the hub of each quadrant. -/
def hubOf (q : QuadId) : RouterId :=
  match q.val with
  | 0 => rid 2 1
  | 1 => rid 9 1
  | 2 => rid 2 6
  | _ => rid 9 6
def isHub (r : RouterId) : Bool := decide (hubOf (quadOf r) = r)

/-- R20: the spine links on a hub's ports 4, 5, 6. -/
def hubLinks (q : QuadId) : List Nat :=
  match q.val with
  | 0 => [0, 2, 4]
  | 1 => [0, 3, 5]
  | 2 => [1, 2, 5]
  | _ => [1, 3, 4]

/-- R20: the two quadrants a spine link joins, the lower first. -/
def linkQuads (l : Nat) : Nat × Nat :=
  match l with
  | 0 => (0, 1)
  | 1 => (2, 3)
  | 2 => (0, 2)
  | 3 => (1, 3)
  | 4 => (0, 3)
  | _ => (1, 2)

/-- The link that joins two quadrants. -/
def linkBetween (a b : Nat) : Option Nat :=
  (List.range 6).find? (fun l => linkQuads l == (a, b) || linkQuads l == (b, a))

/-- The link end in quadrant `q` of link `l`. -/
def endIn (l q : Nat) : LinkEnd := Fin.ofNat 12 (2 * l + (if (linkQuads l).1 = q then 0 else 1))
def endLink (e : LinkEnd) : Nat := e.val / 2
def endQuad (e : LinkEnd) : QuadId :=
  Fin.ofNat 4 (if e.val % 2 = 0 then (linkQuads (endLink e)).1 else (linkQuads (endLink e)).2)
def farEnd (e : LinkEnd) : LinkEnd := Fin.ofNat 12 (if e.val % 2 = 0 then e.val + 1 else e.val - 1)

/-- The hub port that carries link `l` at the hub of quadrant `q`. -/
def spinePort (q : QuadId) (l : Nat) : Option PortId :=
  let i := (hubLinks q).findIdx (· == l)
  if i < 3 then some (Fin.ofNat 11 (4 + i)) else none
def endPort (e : LinkEnd) : PortId := (spinePort (endQuad e) (endLink e)).getD 4

/-- The link end behind port `p` of router `r`, where that is a spine port. -/
def portEnd (r : RouterId) (p : PortId) : Option LinkEnd :=
  if isHub r && decide (4 ≤ p.val) && decide (p.val ≤ 6) then
    some (endIn ((hubLinks (quadOf r)).getD (p.val - 4) 0) (quadOf r).val)
  else none

/-- R18, R19, R21: the router at the far end of a mesh or express port. -/
def neighbour (r : RouterId) (p : PortId) : Option RouterId :=
  let x := rx r
  let y := ry r
  match p.val with
  | 0 => if 0 < y then some (rid x (y - 1)) else none
  | 1 => if x < 11 then some (rid (x + 1) y) else none
  | 2 => if y < 7 then some (rid x (y + 1)) else none
  | 3 => if 0 < x then some (rid (x - 1) y) else none
  | 4 => if isHub r then none else if y = 4 ∨ y = 7 then some (rid x (y - 4)) else none
  | 5 => if isHub r then none else if x = 0 ∨ x = 3 ∨ x = 4 ∨ x = 7 then some (rid (x + 4) y) else none
  | 6 => if isHub r then none else if y = 0 ∨ y = 3 then some (rid x (y + 4)) else none
  | 7 => if x = 4 ∨ x = 7 ∨ x = 8 ∨ x = 11 then some (rid (x - 4) y) else none
  | _ => none

/-- The port by which the far router receives what port `p` sends. -/
def opposite (p : PortId) : PortId :=
  match p.val with
  | 0 => 2
  | 1 => 3
  | 2 => 0
  | 3 => 1
  | 4 => 6
  | 5 => 7
  | 6 => 4
  | 7 => 5
  | _ => p

/-- R21, R22: the ports a router has. -/
def hasPort (r : RouterId) (p : PortId) : Bool :=
  decide (8 ≤ p.val) || (neighbour r p).isSome || (portEnd r p).isSome

/-- R22: the radix. -/
def radix (r : RouterId) : Nat := ((List.finRange 11).filter (hasPort r)).length

def isMesh (p : PortId) : Bool := decide (p.val < 4)
def isExpress (r : RouterId) (p : PortId) : Bool := decide (4 ≤ p.val) && (neighbour r p).isSome
def isLocal (p : PortId) : Bool := p == 8 || p == 9

/-- R107: the cycles that a mesh or express hop adds. -/
def hopCost (r : RouterId) (p : PortId) : Nat :=
  match neighbour r p with
  | none => 0
  | some r' => if clusterOf r = clusterOf r' then 1 else 2

/-- R91, R89: the spine route between two quadrants with a given SPINE_UP vector: the links to take in order, or none
where there is no spine route. The lower-numbered intermediate quadrant goes first. -/
def spineRoute (up : BitVec 6) (a b : Nat) : Option (List Nat) :=
  match linkBetween a b with
  | none => some []
  | some l =>
    if up.getLsbD l then some [l]
    else
      let viaQuad := (List.range 4).filter (fun q => q != a && q != b)
      let ok := fun q => match linkBetween a q, linkBetween q b with
        | some l1, some l2 => if up.getLsbD l1 && up.getLsbD l2 then some [l1, l2] else none
        | _, _ => none
      viaQuad.findSome? ok

/-- Slots of the privileged kind (R44): 180–189 and 191 may set PRIV. -/
def mayPriv (n : Nat) : Bool := (decide (180 ≤ n) && decide (n ≤ 189)) || n == 191

/-- R283: NIs with one gate set, updated in place. -/
def oneSet (n : Nat) : Bool := (decide (180 ≤ n) && decide (n ≤ 189)) || n == 191

/-- HL0–HL15 (R24). -/
def isHostLink (n : Nat) : Bool := decide (n < 16)
/-- MC0–MC63 (R24). -/
def isDram (n : Nat) : Bool := decide (16 ≤ n) && decide (n < 80)

end Sys2Proof.Machine
end

