-- ==== Sys2Proof/Machine/Flits.lean ====
section
/-! DEFINITION. Flits, headers, opcodes, status codes and responses (chapter 02): the operand forms of the network. -/

namespace Sys2Proof.Machine

/-! ### Opcodes (R52) -/

abbrev opRdLine : BitVec 6 := 0x01
abbrev opRdSpray : BitVec 6 := 0x02
abbrev opWrFullP : BitVec 6 := 0x08
abbrev opWrFullNp : BitVec 6 := 0x09
abbrev opWrPartP : BitVec 6 := 0x0A
abbrev opWrPartNp : BitVec 6 := 0x0B
abbrev opAtAdd : BitVec 6 := 0x10
abbrev opAtMin : BitVec 6 := 0x11
abbrev opAtMax : BitVec 6 := 0x12
abbrev opAtSwap : BitVec 6 := 0x13
abbrev opAtCas : BitVec 6 := 0x14
abbrev opLkAcq : BitVec 6 := 0x18
abbrev opLkRel : BitVec 6 := 0x19
abbrev opFnStoreT : BitVec 6 := 0x1C
abbrev opFnStoreG : BitVec 6 := 0x1D
abbrev opFnFullT : BitVec 6 := 0x1E
abbrev opFnFullG : BitVec 6 := 0x1F
abbrev opMsgIntr : BitVec 6 := 0x20
abbrev opMsgMail : BitVec 6 := 0x21
abbrev opDbFwd : BitVec 6 := 0x24
abbrev opEpochClose : BitVec 6 := 0x25
abbrev opCmCommit : BitVec 6 := 0x26
abbrev opVatSpill : BitVec 6 := 0x28
abbrev opVatDrain : BitVec 6 := 0x29
abbrev opRdData : BitVec 6 := 0x38
abbrev opWrAck : BitVec 6 := 0x39
abbrev opAtResult : BitVec 6 := 0x3A
abbrev opLkResp : BitVec 6 := 0x3B
abbrev opFnDone : BitVec 6 := 0x3C
abbrev opVatData : BitVec 6 := 0x3D
abbrev opBody : BitVec 6 := 0x3F

def isRead (op : BitVec 6) : Bool := op == opRdLine || op == opRdSpray
def isFull (op : BitVec 6) : Bool := op == opWrFullP || op == opWrFullNp
def isPart (op : BitVec 6) : Bool := op == opWrPartP || op == opWrPartNp
def isWrite (op : BitVec 6) : Bool := isFull op || isPart op
def isAtomic (op : BitVec 6) : Bool := decide (0x10 ≤ op.toNat) && decide (op.toNat ≤ 0x14)
def isLock (op : BitVec 6) : Bool := op == opLkAcq || op == opLkRel
def isFence (op : BitVec 6) : Bool := decide (0x1C ≤ op.toNat) && decide (op.toNat ≤ 0x1F)
def isSkim (op : BitVec 6) : Bool := op == opDbFwd || op == opEpochClose || op == opCmCommit
def isVat (op : BitVec 6) : Bool := op == opVatSpill || op == opVatDrain || op == opVatData
def isResponse (op : BitVec 6) : Bool := decide (0x38 ≤ op.toNat) && decide (op.toNat ≤ 0x3C)

/-- The posted forms of R54 and R117. -/
def isPosted (op : BitVec 6) : Bool := op == opWrFullP || op == opWrPartP || op == opMsgIntr

/-- R161: store packets. -/
def isStore (op : BitVec 6) : Bool :=
  isWrite op || op == opMsgIntr || op == opMsgMail || isAtomic op || op == opLkRel

/-- R52: the opcodes that may be injected as class G. -/
def gAllowed (op : BitVec 6) : Bool :=
  isRead op || isFull op || op == opMsgIntr || op == opMsgMail

/-- R56: the opcodes that an endpoint may present (EPOCH_CLOSE subject to R188). -/
def presentable (op : BitVec 6) : Bool :=
  isRead op || isWrite op || isAtomic op || isLock op || isFence op || op == opMsgIntr || op == opMsgMail ||
  op == opEpochClose

/-- R52: the LEN values (flits minus one) allowed for an opcode. -/
def lenOk (op : BitVec 6) (len : Nat) : Bool :=
  if isFull op || op == opMsgMail then decide (len ≤ 3)
  else if isPart op then decide (1 ≤ len) && decide (len ≤ 3)
  else len == 0

/-- R52, R68: the response opcode of a request. -/
def responseOf (op : BitVec 6) : BitVec 6 :=
  if isRead op then opRdData
  else if isAtomic op then opAtResult
  else if isLock op then opLkResp
  else if isFence op || op == opEpochClose then opFnDone
  else if op == opVatDrain then opVatData
  else opWrAck

/-! ### Control field, parity, data words -/

/-- R40: parity bit `i` covers control bits [16i + 15 : 16i]. -/
def ctlParity (c : BitVec 128) : BitVec 8 :=
  (List.range 8).foldl (fun p i => if parity (c.extractLsb' (16 * i) 16) then p ||| (1#8 <<< i) else p) 0

/-- The parity groups that fail on a flit. -/
def badGroups (f : Flit) : BitVec 8 := f.par ^^^ ctlParity f.ctl

/-- A flit with another control field, its parity recomputed (R40). -/
def withCtl (f : Flit) (c : BitVec 128) : Flit := { f with ctl := c, par := ctlParity c }

def fDest (f : Flit) : Nat := field f.ctl 120 8
def fSrc (f : Flit) : Nat := field f.ctl 112 8
def fVc (f : Flit) : Nat := field f.ctl 109 3
def fOp (f : Flit) : BitVec 6 := bits f.ctl 103 6
def fTag (f : Flit) : Nat := field f.ctl 94 9
def fLen (f : Flit) : Nat := field f.ctl 92 2
def fTenant (f : Flit) : Nat := field f.ctl 80 12
def fAddr (f : Flit) : Nat := field f.ctl 34 46
def fPage (f : Flit) : BitVec 2 := bits f.ctl 32 2
def fOrd (f : Flit) : Bool := f.ctl.getLsbD 31
def fOseq (f : Flit) : BitVec 10 := bits f.ctl 21 10
def fLepoch (f : Flit) : BitVec 8 := bits f.ctl 13 8
def fColour (f : Flit) : BitVec 2 := bits f.ctl 6 2
def fPriv (f : Flit) : Bool := f.ctl.getLsbD 4
def fDebug (f : Flit) : Bool := f.ctl.getLsbD 3
def fSpray (f : Flit) : Nat := field f.ctl 0 3
def isHead (f : Flit) : Bool := fOp f != opBody
def fIndex (f : Flit) : Nat := field f.ctl 92 2
def fTail (f : Flit) : Bool := f.ctl.getLsbD 91

/-- POISON stands at bit 5 of a head and at bit 90 of a body flit (R44, R49). -/
def fPoison (f : Flit) : Bool := if isHead f then f.ctl.getLsbD 5 else f.ctl.getLsbD 90
def setPoison (f : Flit) (b : Bool) : Flit :=
  withCtl f (setField f.ctl (if isHead f then 5 else 90) 1 b.toNat)

/-- Set one header field, recomputing parity. -/
def setF (f : Flit) (lo w v : Nat) : Flit := withCtl f (setField f.ctl lo w v)
def setVc (v : Nat) (f : Flit) : Flit := setF f 109 3 v

def word (f : Flit) (w : Nat) : Word := f.dat.extractLsb' (64 * w) 64
def chkByte (f : Flit) (w : Nat) : BitVec 8 := f.chk.extractLsb' (8 * w) 8

def lineWord (d : BitVec 512) (w : Nat) : Word := d.extractLsb' (64 * w) 64
def setLineWord (d : BitVec 512) (w : Nat) (v : Word) : BitVec 512 := setField d (64 * w) 64 v.toNat

/-- R41: the check byte of a data word; an all-zero word has an all-zero check byte. -/
def secded (w : Word) : BitVec 8 := if w = 0 then 0 else Config.secdedRaw w

/-- What the SECDED decoder finds (R42, R436). -/
inductive Ecc where
  | clean | corrected (w : Word) (c : BitVec 8) | bad
deriving DecidableEq, Repr

/-- A word and check byte are clean when the check byte is the word's; single-bit when flipping one of the 72 bits
makes them so; otherwise uncorrectable. -/
def eccDecode (w : Word) (c : BitVec 8) : Ecc :=
  if c = secded w then .clean
  else if ones (c ^^^ secded w) = 1 then .corrected w (secded w)
  else
    match (List.range 64).find? (fun i => secded (w ^^^ (1#64 <<< i)) == c) with
    | some i => .corrected (w ^^^ (1#64 <<< i)) c
    | none => .bad

/-- The check bytes of a line whose words are all good. -/
def lineChk (d : BitVec 512) : BitVec 64 :=
  (List.range 8).foldl (fun c w => setField c (8 * w) 8 (secded (lineWord d w)).toNat) 0

def zeroLine : Line := { data := 0, chk := 0, poison := true }
def goodLine (d : BitVec 512) : Line := { data := d, chk := lineChk d, poison := false }

def lineOf (f : Flit) : Line := { data := f.dat, chk := f.chk, poison := fPoison f }
def putLine (f : Flit) (l : Line) : Flit := setPoison { f with dat := l.data, chk := l.chk } l.poison

/-- A data word as the SECDED check leaves it: corrected where it can be (R42). -/
def eccWord (f : Flit) (w : Nat) : Word :=
  match eccDecode (word f w) (chkByte f w) with
  | .corrected x _ => x
  | _ => word f w

/-- R57: an atomic of 16 bytes. -/
def isWide (op : BitVec 6) (h : Flit) : Bool := isAtomic op && (eccWord h 0).getLsbD 3

/-- R57, R59, R43: which data words of flit `i` of a packet the opcode's layout uses; `wide` for an atomic of 16
bytes. -/
def usedWord (op : BitVec 6) (wide : Bool) (len i w : Nat) : Bool :=
  if isFull op || op == opMsgMail || op == opRdData || op == opVatSpill || op == opVatData then true
  else if isPart op then (if i = 0 then decide (w < len) else true)
  else if i ≠ 0 then false
  else if isRead op || op == opVatDrain then w == 0
  else if op == opAtCas then decide (w ≤ 3 ∧ w ≠ 2) || (wide && decide (w ≤ 4))
  else if isAtomic op then decide (w ≤ 1) || (wide && decide (w ≤ 2))
  else if isLock op then w == 0
  else if op == opMsgIntr then decide (w ≤ 1)
  else if op == opAtResult then decide (w ≤ 1)
  else if op == opCmCommit then decide (w ≤ 1)
  else if op == opEpochClose || op == opDbFwd then w == 0
  else false

/-- R43: every unused word is replaced with zero and a zero check byte. -/
def clearUnused (op : BitVec 6) (len i : Nat) (f : Flit) : Flit :=
  (List.range 8).foldl (fun g w =>
    if usedWord op (isWide op f) len i w then g
    else { g with dat := setField g.dat (64 * w) 64 0, chk := setField g.chk (8 * w) 8 0 }) f

/-- One check of the used words of a flit (R42): the flit corrected or poisoned, words corrected, uncorrectable words. -/
def checkData (op : BitVec 6) (len i : Nat) (f : Flit) : Flit × Nat × List Nat :=
  (List.range 8).foldl (fun (acc : Flit × Nat × List Nat) w =>
    if usedWord op (isWide op f) len i w then
      match eccDecode (word f w) (chkByte f w) with
      | .clean => acc
      | .corrected x c =>
        ({ acc.1 with dat := setField acc.1.dat (64 * w) 64 x.toNat, chk := setField acc.1.chk (8 * w) 8 c.toNat },
         acc.2.1 + 1, acc.2.2)
      | .bad => (setPoison acc.1 true, acc.2.1, acc.2.2 ++ [w])
    else acc) (f, 0, [])

/-- R49: the control field of body flit `i` of a packet whose head has control field `h` and LEN `len`. -/
def bodyCtl (h : BitVec 128) (i len : Nat) (poison : Bool) : BitVec 128 :=
  let c : BitVec 128 := (h >>> 94) <<< 94
  let c := setField c 103 6 0x3F
  let c := setField c 92 2 i
  let c := setField c 91 1 (if i = len then 1 else 0)
  setField c 90 1 poison.toNat

/-- A packet from a head control field and its flits' lines. LEN is the number of lines minus one, and the head's
POISON that of its own line. -/
def mkPacket (h : BitVec 128) (lines : List Line) : Packet :=
  let len := lines.length - 1
  let h := setField h 92 2 len
  lines.zipIdx.map (fun (l, i) =>
    let c := if i = 0 then setField h 5 1 l.poison.toNat else bodyCtl h i len l.poison
    { ctl := c, par := ctlParity c, dat := l.data, chk := l.chk })

/-- Number of flits the head calls for. -/
def pktLen (p : Packet) : Nat := match p with
  | [] => 0
  | h :: _ => fLen h + 1

def zeroFlit : Flit := { par := 0, ctl := 0, chk := 0, dat := 0 }
def hd (p : Packet) : Flit := p.headD zeroFlit

/-- Rewrite a field of every flit of a packet. -/
def mapFlits (f : Flit → Flit) (p : Packet) : Packet := p.map f

/-- Give every flit of a packet its TAG. -/
def setTag (t : Nat) (p : Packet) : Packet := p.map (fun f => setF f 94 9 t)

/-- R46: the class of a packet from its VC and COLOUR. -/
def clsOf (vc : Nat) (colour : BitVec 2) : Cls :=
  if vc = 4 ∨ vc = 5 then .g
  else if vc = 6 then .s
  else if vc = 7 then .b
  else if colour = 0 ∨ colour = 1 then .a else .b
def fCls (f : Flit) : Cls := clsOf (fVc f) (fColour f)

/-! ### Status codes (R13, R62) -/

def stCode : Status → Nat
  | .ok => 0 | .poison => 1 | .broken => 2 | .rerouted => 3 | .lost => 4 | .abandoned => 5 | .rateRefused => 6
  | .notReady => 7 | .staleSet => 8 | .gateFault => 9 | .overlap => 10

def stOfCode (n : Nat) : Option Status :=
  [Status.ok, .poison, .broken, .rerouted, .lost, .abandoned, .rateRefused, .notReady, .staleSet, .gateFault,
   .overlap][n]?

/-- R13: the precedence, 1 highest, is the reverse of the encoding of R62. -/
def stWorse (a b : Status) : Status := if stCode b ≤ stCode a then a else b

/-- The one status that stands for several conditions. -/
def worst (l : List Status) : Status := l.foldl stWorse .ok

/-- R63: the per-line fields LSTAT0–LSTAT3 of up to four codes. -/
def lstatBits (codes : List Status) : Nat :=
  (codes.take 4).zipIdx.foldl (fun n (c, i) => n + stCode c * 16 ^ i) 0

/-- The per-line codes that a response header carries. -/
def lstats (f : Flit) (n : Nat) : List Status :=
  (List.range n).map (fun i => (stOfCode (field f.ctl (60 + 4 * i) 4)).getD .poison)
def fStatus (f : Flit) : Status := (stOfCode (field f.ctl 76 4)).getD .poison
def fAux (f : Flit) : BitVec 16 := bits f.ctl 44 16

/-- R61: the header of the response to a request. DESIGN CHOICE: bits [33:32], the request's PAGE, for which R61 gives a
response neither a copy nor a value, are sent as zero. -/
def rspCtl (req : Flit) (op : BitVec 6) (st : Status) (codes : List Status) (aux : BitVec 16) : BitVec 128 :=
  let c := req.ctl
  let c := setField c 120 8 (fSrc req)
  let c := setField c 112 8 (fDest req)
  let c := setField c 103 6 op.toNat
  let c := setField c 92 2 0
  let c := setField c 34 46 0
  let c := setField c 32 2 0
  let c := setField c 5 1 0
  let c := setField c 109 3 (if fVc req = 4 then 5 else 2)
  let c := setField c 76 4 (stCode st)
  let c := setField c 60 16 (lstatBits codes)
  setField c 44 16 aux.toNat

/-- A response packet without lines (WR_ACK, LK_RESP, FN_DONE). -/
def rspBare (req : Flit) (op : BitVec 6) (st : Status) (codes : List Status) (aux : BitVec 16) : Packet :=
  let c := rspCtl req op st codes aux
  [{ ctl := c, par := ctlParity c, chk := 0, dat := 0 }]

/-- A response packet with lines (RD_DATA, AT_RESULT, VAT_DATA). -/
def rspLines (req : Flit) (op : BitVec 6) (st : Status) (codes : List Status) (aux : BitVec 16)
    (lines : List Line) : Packet :=
  mkPacket (rspCtl req op st codes aux) lines

/-- The lines a request asks for or carries (R57, R59, R349). -/
def reqLines (op : BitVec 6) (p : Packet) : Nat :=
  if op == opRdLine || op == opVatDrain then field (word (hd p) 0) 0 2 + 1
  else if op == opRdSpray then field (word (hd p) 1) 0 6 + 1
  else if isFull op || op == opMsgMail || op == opVatSpill then p.length
  else if isPart op then p.length - 1
  else 1

/-- The lines of a write in address order, with the mask of each (R51, R59). -/
def writeLines (op : BitVec 6) (p : Packet) : List (Line × BitVec 64) :=
  if isPart op then
    (p.drop 1).zipIdx.map (fun (f, i) => (lineOf f, word (hd p) i))
  else p.map (fun f => (lineOf f, BitVec.allOnes 64))

end Sys2Proof.Machine
end

