-- ==== Sys2Proof/Machine/Routes.lean ====
section
/-! DEFINITION. The static part of the routing rules of chapter 03: productive outputs (R84), escape routes (R87),
deterministic routes (R88), and the costs from which SPINE_CHOICE is booted (R92). -/

namespace Sys2Proof.Machine

/-- The distance still to go, per dimension. -/
def distX (r t : RouterId) : Nat := if rx r ≤ rx t then rx t - rx r else rx r - rx t
def distY (r t : RouterId) : Nat := if ry r ≤ ry t then ry t - ry r else ry r - ry t

/-- The mesh outputs that reduce the distance in the row, and in the column (R84). -/
def rowMesh (r t : RouterId) : Option PortId :=
  if rx r < rx t then some 1 else if rx t < rx r then some 3 else none
def colMesh (r t : RouterId) : Option PortId :=
  if ry r < ry t then some 2 else if ry t < ry r then some 0 else none

/-- The express outputs that are productive in the row, and in the column (R84): a remaining distance of at least 4
in that direction, and the link present. -/
def rowExpress (r t : RouterId) : Option PortId :=
  let p : PortId := if rx r < rx t then 5 else 7
  if 4 ≤ distX r t ∧ (neighbour r p).isSome ∧ isHub r = false then some p else none
def colExpress (r t : RouterId) : Option PortId :=
  let p : PortId := if ry r < ry t then 6 else 4
  if 4 ≤ distY r t ∧ (neighbour r p).isSome ∧ isHub r = false then some p else none

/-- R85, first rule: the express outputs in their order of choice. -/
def expressChoices (r t : RouterId) : List PortId :=
  match rowExpress r t, colExpress r t with
  | some a, some b => if distY r t ≤ distX r t then [a, b] else [b, a]
  | some a, none => [a]
  | none, some b => [b]
  | none, none => []

/-- R85, second rule, with the free credits and hints of the two mesh outputs. -/
def meshChoices (r t : RouterId) (free hint : PortId → Nat) : List PortId :=
  match rowMesh r t, colMesh r t with
  | some a, some b =>
    if free b < free a then [a, b]
    else if free a < free b then [b, a]
    else if hint b < hint a then [b, a] else [a, b]
  | some a, none => [a]
  | none, some b => [b]
  | none, none => []

/-- R87: row, then column, over mesh links. -/
def escapeStep (r t : RouterId) : Option PortId := (rowMesh r t).or (colMesh r t)

/-- R88: row then column, with a horizontal express link that lies wholly inside the quadrant. -/
def quadStep (r t : RouterId) : Option PortId :=
  match rowMesh r t with
  | some a =>
    match rowExpress r t with
    | some e => if (neighbour r e).map quadOf = some (quadOf r) then some e else some a
    | none => some a
  | none => colMesh r t

/-- The cycles of the mesh and express route of R83–R85 with equal credits and hints (R92), injection excluded. -/
def pathCost : Nat → RouterId → RouterId → Nat
  | 0, _, _ => 0
  | fuel + 1, r, t =>
    match (expressChoices r t ++ meshChoices r t (fun _ => 0) (fun _ => 0)).head? with
    | none => 0
    | some p =>
      match neighbour r p with
      | none => 0
      | some r' => hopCost r p + pathCost fuel r' t

/-- R92: 1 exactly where the spine route costs strictly less. -/
def spineBoot (r d : Nat) : Nat :=
  if 96 ≤ r ∨ 96 ≤ d then 0
  else
    let a : RouterId := Fin.ofNat 96 r
    let b : RouterId := Fin.ofNat 96 d
    if quadOf a = quadOf b then 0
    else if pathCost 24 a (hubOf (quadOf a)) + 9 + pathCost 24 (hubOf (quadOf b)) b < pathCost 24 a b then 1 else 0

end Sys2Proof.Machine
end

