-- ==== Sys2Proof/Machine/Ops.lean ====
section
/-! DEFINITION. The named operations over the block that every meaning shares: access to one unit, configuration
items, the units' time, events and the Crock, performance counters, and what an NI puts on its endpoint port. -/

namespace Sys2Proof.Machine

/-! ### Units -/

abbrev rtr (s : State) (r : RouterId) : Router := tget s.routers r
abbrev nif (s : State) (n : Slot) : NI := tget s.nis n
abbrev spn (s : State) (e : LinkEnd) : SpineEnd := tget s.spine e

def updR (s : State) (r : RouterId) (f : Router → Router) : State := { s with routers := tupd s.routers r f }
def updN (s : State) (n : Slot) (f : NI → NI) : State := { s with nis := tupd s.nis n f }
def updE (s : State) (e : LinkEnd) (f : SpineEnd → SpineEnd) : State := { s with spine := tupd s.spine e f }
def updHerd (s : State) (f : Herd → Herd) : State := { s with herd := f s.herd }
def updAon (s : State) (f : Aon → Aon) : State := { s with aon := f s.aon }
def updCan (s : State) (f : Can → Can) : State := { s with can := f s.can }
def updDip (s : State) (f : Dipper → Dipper) : State := { s with dip := f s.dip }
def updCrock (s : State) (f : Crock → Crock) : State := { s with crock := f s.crock }
def updChurn (s : State) (f : Churn → Churn) : State := { s with churn := f s.churn }
def updRecov (s : State) (f : Recovery → Recovery) : State := { s with recov := f s.recov }
def updAllN (s : State) (f : Slot → NI → NI) : State := { s with nis := tmap s.nis f }
def updAllR (s : State) (f : RouterId → Router → Router) : State := { s with routers := tmap s.routers f }
def updAllE (s : State) (f : LinkEnd → SpineEnd → SpineEnd) : State := { s with spine := tmap s.spine f }

def updIn (x : Router) (p : PortId) (f : RouterIn → RouterIn) : Router := { x with ins := tupd x.ins p f }
def updOut (x : Router) (p : PortId) (f : RouterOut → RouterOut) : Router := { x with outs := tupd x.outs p f }

/-- Number 188 is the Herdsman's slot, 190 the Can's (R24). -/
abbrev herdSlot : Slot := 188
abbrev canSlot : Slot := 190

/-! ### Time and clocks -/

def epochR (s : State) (r : RouterId) : Nat := tget s.epochs (clusterOf r)
def epochN (s : State) (n : Slot) : Nat := tget s.epochs (slotCluster n)
/-- FCLK time at a unit: cycle `k` of its epoch (R210). -/
def timeR (s : State) (r : RouterId) (k : Nat) : Nat := epochR s r * 1024 + k
def timeN (s : State) (n : Slot) (k : Nat) : Nat := epochN s n * 1024 + k

/-- The fabric clocks run: not before the reset sequence has ended, and not in RETAIN, FREEZE or TEST
(R212, R393, R426), nor once an entry to RETAIN has stopped them (R403). -/
def clocksRun (s : State) : Bool :=
  match s.aon.mode with
  | .train | .serve | .drowse | .recover => !s.aon.modeReq.any (fun m => m.target == .retain && m.phase == 4)
  | .reset | .retain | .freeze | .test => false

/-- A cluster's routers and NIs are clocked: it is not gated, not dead, and no recovery holds it in reset
(R400, R461, R464). -/
def clusterRuns (s : State) (c : ClusterId) : Bool :=
  clocksRun s && !s.aon.gated.getLsbD c.val && !s.recov.dead.getLsbD c.val &&
  (match tget s.recov.clusters c with
   | none => true
   | some x => decide (5 ≤ x.step))
def routerRuns (s : State) (r : RouterId) : Bool := clusterRuns s (clusterOf r)
def niRuns (s : State) (n : Slot) : Bool := clusterRuns s (slotCluster n)

/-- The Herdsman, the row stewards and the Dipper are clocked (R29). -/
def herdRuns (s : State) : Bool := clocksRun s

/-- A sector whose control path the Herdsman reaches (R37). -/
def sectorOk (s : State) (n : SectorId) : Bool := (tget s.herd.rounds n).reachable
def routerReached (s : State) (r : RouterId) : Bool := sectorOk s (sectorOf r)
def niReached (s : State) (n : Slot) : Bool := sectorOk s (slotSector n)

/-- The sectors that the Herdsman cannot reach. -/
def sectorsMissed (s : State) : BitVec 8 :=
  (List.finRange 8).foldl (fun m n => if sectorOk s n then m else m ||| (1#8 <<< n.val)) 0

/-! ### Configuration items (R330) -/

abbrev itSpineChoice : Nat := 0x01
abbrev itDetourEn : Nat := 0x02
abbrev itEscWait : Nat := 0x03
abbrev itAgeN : Nat := 0x04
abbrev itOutSlots : Nat := 0x05
abbrev itGateList : Nat := 0x06
abbrev itGov : Nat := 0x07
abbrev itSprayEntry : Nat := 0x10
abbrev itTargetTable : Nat := 0x11
abbrev itRspOrder : Nat := 0x12
abbrev itAbandon : Nat := 0x13
abbrev itOrdGap : Nat := 0x14
abbrev itStoreLoss : Nat := 0x15
abbrev itLockLease : Nat := 0x16
abbrev itNiSlots : Nat := 0x17
abbrev itDefaultMap : Nat := 0x18
abbrev itMeterProfile : Nat := 0x19
abbrev itBankMap : Nat := 0x20

/-- Where an entry of a configuration set stands: item, unit, port, index. NI units of BANK_MAP are numbered from
256. -/
def cfgKey (item unit port index : Nat) : Nat := item * 2 ^ 32 + unit * 2 ^ 20 + port * 2 ^ 16 + index

/-- The boot values of the items (R92, R121, R127, R165, R218, R289, R445). -/
def cfgBoot (key : Nat) : Nat :=
  let item := key / 2 ^ 32
  let unit := key / 2 ^ 20 % 4096
  let index := key % 2 ^ 16
  if item = itSpineChoice then spineBoot unit index
  else if item = itEscWait then 4
  else if item = itAgeN then 16
  else if item = itGov then [180, 8, 48, 40, 80, 10, 7].getD index 0
  else if item = itSprayEntry then 4 * 2 ^ 58
  else if item = itTargetTable then 0x10
  else if item = itAbandon then 64
  else if item = itOrdGap then 128
  else if item = itStoreLoss then 118
  else if item = itDefaultMap then 0x3F
  else if item = itBankMap then 0x76543210
  else 0

/-- An entry of set A (`false`) or set B (`true`). -/
def cfgGet (s : State) (set : Bool) (item unit port index : Nat) : Nat :=
  sget cfgBoot (if set then s.cfgB else s.cfgA) (cfgKey item unit port index)

def cfgPut (s : State) (set : Bool) (item unit port index v : Nat) : State :=
  let k := cfgKey item unit port index
  if set then { s with cfgB := sput cfgBoot k v s.cfgB } else { s with cfgA := sput cfgBoot k v s.cfgA }

/-- A stored word that decodes as uncorrectable (R436, R437), or whose valid-bit group fails its parity check (R435). -/
def wordBad (s : State) (u : TabUnit) (k : WordKind) : Bool :=
  s.churn.bad.any (fun (v, _, j) => decide (v = u) && decide (j = k)) ||
  s.churn.groupBad.any (fun (b, _, ks) => decide (b.unit = u) && ks.contains k)

/-- An item of a router, or of an NI, as its active set holds it; an uncorrectable word counts as its boot value
(R437). -/
def cfgR (s : State) (r : RouterId) (item port index : Nat) : Nat :=
  if wordBad s (.router r) (.cfgItem item port index) then cfgBoot (cfgKey item r.val port index)
  else cfgGet s (rtr s r).active item r.val port index
def cfgN (s : State) (n : Slot) (item index : Nat) : Nat :=
  if wordBad s (.ni n) (.cfgItem item 0 index) then cfgBoot (cfgKey item n.val 0 index)
  else cfgGet s (rtr s (routerOf n)).active item n.val 0 index
def cfgDie (s : State) (index : Nat) : Nat := cfgGet s s.herd.active itGov 0 0 index

/-! ### Events (R34, R451, R453) -/

def evNum : EventCode → Nat
  | .malformed => 0x0101 | .dataUncorrectable => 0x0102 | .ctrlParity => 0x0103 | .inboundDiscard => 0x0104
  | .abandon => 0x0105 | .sprayBad => 0x0106 | .tickSlip => 0x0107 | .govSaturated => 0x0108 | .cdcPulseOvf => 0x0109
  | .ordLate => 0x0201 | .ordGap => 0x0202 | .lockBreak => 0x0203 | .lockLease => 0x0204 | .lockNotOwner => 0x0205
  | .curdNonmember => 0x0301 | .curdUnordered => 0x0302 | .curdLate => 0x0303 | .curdWindow => 0x0304
  | .curdNotTarget => 0x0305 | .curdOverflow => 0x0306 | .curdCloseOrder => 0x0307 | .curdGroupFailed => 0x0308
  | .curdCommit => 0x0309 | .curdInexact => 0x030A | .curdVatPoison => 0x030B | .curdStageEcc => 0x030C
  | .curdFailed => 0x030D
  | .gateViolation => 0x0401 | .gateEcc => 0x0402
  | .linkUp => 0x0501 | .linkRetrain => 0x0502 | .linkDown => 0x0503 | .linkReturn => 0x0504
  | .linkMiswired => 0x0505 | .laneSpared => 0x0506 | .sparesExhausted => 0x0507 | .spineNoRoute => 0x0508
  | .ringOverrun => 0x0601 | .ringHalt => 0x0602 | .cfgSplit => 0x0603 | .stewardLost => 0x0604
  | .clusterClockLost => 0x0605 | .routerStateUe => 0x0606 | .herdStateUe => 0x0607 | .tickLost => 0x0608
  | .modeRefused => 0x0701 | .retentionLost => 0x0702 | .pwrAckLate => 0x0703 | .pwrAckFail => 0x0704
  | .eccRepeat => 0x0801 | .eccUncorrectable => 0x0802 | .meterEcc => 0x0803
  | .meterTallyParity => 0x0901 | .meterSealedWrite => 0x0902 | .meterReport => 0x0903 | .meterReportFail => 0x0904
  | .meterClock => 0x0905 | .counterWrap => 0x0A01
  | .niStateParity => 0x0B01 | .cdcPtr => 0x0B02 | .recoverDone => 0x0B03 | .clusterDead => 0x0B04
  | .recoverFailed => 0x0B05 | .epResetDiscard => 0x0B06

def evClass : EventCode → EvClass
  | .cdcPulseOvf | .laneSpared | .eccRepeat => .corrected
  | .curdCommit | .linkUp | .linkRetrain | .meterReport | .counterWrap | .recoverDone => .note
  | .curdVatPoison | .curdStageEcc | .linkMiswired | .spineNoRoute | .herdStateUe | .tickLost | .meterClock
  | .clusterDead | .recoverFailed => .fatal
  | _ => .contained

def classCode : EvClass → Nat
  | .corrected => 0 | .contained => 1 | .fatal => 2 | .note => 3

/-- The events that the table of R453 gives a RECORD. -/
def evHasRecord : EventCode → Bool
  | .sprayBad | .lockBreak | .lockLease | .lockNotOwner | .curdNonmember | .curdUnordered | .curdLate | .curdWindow
  | .curdNotTarget | .curdOverflow | .curdCloseOrder | .curdGroupFailed | .curdCommit | .curdInexact
  | .curdVatPoison | .curdStageEcc | .curdFailed | .gateViolation | .linkUp | .linkRetrain | .linkDown | .ringOverrun
  | .cfgSplit | .retentionLost | .eccRepeat | .eccUncorrectable | .meterTallyParity | .recoverDone => true
  | _ => false

/-- R452: the fatal events that start die-scope RECOVER. -/
def evDie : EventCode → Bool
  | .spineNoRoute | .herdStateUe | .tickLost => true
  | _ => false

def kindCode : UnitKind → Nat
  | .router => 0 | .ni => 1 | .spineEnd => 2 | .cluster => 3 | .sector => 4 | .die => 5 | .group => 6

/-- The UNIT field of R322. -/
def unitBits (ev : Event) : BitVec 16 := BitVec.ofNat 16 (kindCode ev.kind * 2 ^ 13 + ev.num % 2 ^ 13)

def secBit (n : SectorId) : BitVec 8 := 1#8 <<< n.val

/-- Hand an event to the Herdsman: through the row stewards whose sectors `sectors` names, or directly. -/
def report (s : State) (ev : Event) : State :=
  updHerd s (fun h => { h with reports := h.reports ++ [ev] })

def mkEvent (code : EventCode) (kind : UnitKind) (num : Nat) (sectors : BitVec 8) (epoch : Nat)
    (detail : BitVec 32) (record : BitVec 128) : Event :=
  { code := code, kind := kind, num := num, detail := detail, record := record, sectors := sectors, merged := 0,
    dropped := 0,
    status := if code = .linkReturn then .rerouted else .ok, epoch := epoch % 2 ^ 48 }

def repNi (s : State) (n : Slot) (code : EventCode) (detail : Nat) (record : Nat := 0) : State :=
  report s (mkEvent code .ni n.val (secBit (slotSector n)) (epochN s n) (BitVec.ofNat 32 detail)
    (BitVec.ofNat 128 record))
def repRouter (s : State) (r : RouterId) (code : EventCode) (detail : Nat) (record : Nat := 0) : State :=
  report s (mkEvent code .router r.val (secBit (sectorOf r)) (epochR s r) (BitVec.ofNat 32 detail)
    (BitVec.ofNat 128 record))
def repDie (s : State) (code : EventCode) (detail : Nat) (record : Nat := 0) : State :=
  report s (mkEvent code .die 0 0 s.herd.epoch (BitVec.ofNat 32 detail) (BitVec.ofNat 128 record))
def repGroup (s : State) (g : GroupId) (code : EventCode) (detail : Nat) (record : Nat := 0) : State :=
  report s (mkEvent code .group g.val 0 s.herd.epoch (BitVec.ofNat 32 detail) (BitVec.ofNat 128 record))
def repSpine (s : State) (e : LinkEnd) (code : EventCode) (detail : Nat) (record : Nat := 0) : State :=
  let r := hubOf (endQuad e)
  report s (mkEvent code .spineEnd e.val (secBit (sectorOf r)) (epochR s r) (BitVec.ofNat 32 detail)
    (BitVec.ofNat 128 record))

/-! ### The Crock (R455, R470–R473) -/

def crockGet (c : Crock) (i : Nat) : BitVec 128 := sget (fun _ => 0) c.entries (i % 4096)
def crockValid (c : Crock) (i : Nat) : Bool := sget (fun _ => false) c.valid (i % 4096)
def crockIsCont (c : Crock) (i : Nat) : Bool := sget (fun _ => false) c.cont (i % 4096)

/-- Write entry NEXT (R471): the oldest is overwritten, and a continuation left without its head loses its valid
bits. -/
def crockWrite1 (c : Crock) (w : BitVec 128) (isCont : Bool) : Crock :=
  let i := c.next % 4096
  let j := (i + 1) % 4096
  let orphan := crockValid c i && !crockIsCont c i && (crockGet c i).getLsbD 109
  { c with
    entries := sput (fun _ => 0) i w c.entries
    valid := (fun v => if orphan then sput (fun _ => false) j false v else v) (sput (fun _ => false) i true c.valid)
    cont := sput (fun _ => false) i isCont c.cont
    post := sput (fun _ => false) i c.triggered c.post
    next := j }

/-- The head entry of R470. -/
def crockHead (ev : Event) (trig : Bool) : BitVec 128 :=
  let w : BitVec 128 := 0
  let w := setField w 112 16 (evNum ev.code)
  let w := setField w 110 2 (classCode (evClass ev.code))
  let w := setField w 109 1 (evHasRecord ev.code).toNat
  let w := setField w 108 1 trig.toNat
  let w := setField w 92 16 (unitBits ev).toNat
  let w := setField w 44 48 ev.epoch
  let w := setField w 36 8 ev.sectors.toNat
  let w := setField w 32 4 (stCode ev.status)
  setField w 0 32 ev.detail.toNat

/-- R455: what identifies a withheld entry: code, unit, the unit's epoch, and for GATE_VIOLATION its end (R310). -/
def crockSeenKey (ev : Event) (epoch : Nat) : BitVec 16 × BitVec 16 × Nat × Bool :=
  (BitVec.ofNat 16 (evNum ev.code), unitBits ev, epoch,
   (ev.code == .gateViolation) && ev.record.getLsbD 17)

/-- Write an event into the Crock: R455's limit, the trigger, the 256 entries after it, and LOST while stopped
(R472). -/
def crockPut (c : Crock) (ev : Event) (epoch : Nat) : Crock :=
  let fatal := evClass ev.code == .fatal
  let key := crockSeenKey ev epoch
  if !fatal && c.seen.contains key then { c with suppressed := satAdd (2 ^ 32 - 1) c.suppressed 1 }
  else
    let need := if evHasRecord ev.code then 2 else 1
    -- of each code, unit and end, the epoch written last is kept
    let others := c.seen.filter (fun k => !(k.1 == key.1 && k.2.1 == key.2.1 && k.2.2.2 == key.2.2.2))
    let c := if fatal then c else { c with seen := others ++ [key] }
    if c.stopped then { c with lost := satAdd 65535 c.lost need }
    else
      let trig := fatal && c.arm && !c.triggered
      let at_ := c.next
      let wasPost := c.triggered
      let c := if trig then { c with triggered := true, trigIdx := at_, postLeft := 256 } else c
      let c := crockWrite1 c (crockHead ev trig) false
      let c := if need = 2 then crockWrite1 c ev.record true else c
      -- the trigger's own head is not one of the 256; its continuation is written after it
      let used := if wasPost then need else need - 1
      if c.triggered then
        let left := c.postLeft - used
        { c with postLeft := left, stopped := decide (left = 0),
                 post := if trig then sput (fun _ => false) at_ false c.post else c.post }
      else c

/-- Record an event in the Crock (R454). R455's limit is counted in the epochs of the unit that reports it. -/
def toCrock (s : State) (ev : Event) : State := updCrock s (fun c => crockPut c ev ev.epoch)

/-! ### Performance counters (R371–R378) -/

abbrev ctrRouter (r : RouterId) : Nat := 16 * r.val
abbrev ctrNi (n : Slot) : Nat := 1536 + 8 * n.val
abbrev ctrSpine (e : LinkEnd) : Nat := 3072 + 12 * e.val

/-- The selection of a counter that no write has reached (R392): every VC, class and port. -/
def selReset (_ : Nat) : BitVec 32 := 0x03FFFC00#32
def selOf (s : State) (g : Nat) : BitVec 32 := sget selReset s.dip.inForce g
def selEvent (w : BitVec 32) : Nat := field w 0 6
def selPort (w : BitVec 32) : Nat := field w 10 4
def selChain (w : BitVec 32) : Bool := w.getLsbD 30
def selWrap (w : BitVec 32) : Bool := w.getLsbD 31

/-- R376: whether counter `g` may run in a CHAIN pair: all but NI counters 4–7. -/
def mayChain (g : Nat) : Bool := decide (g < 1536) || decide (3072 ≤ g) || decide ((g - 1536) % 8 < 4)

def evenOf (g : Nat) : Nat := g - g % 2
def chained (s : State) (g : Nat) : Bool := mayChain g && selChain (selOf s (evenOf g))

def ctrVal (s : State) (g : Nat) : BitVec 48 := sget (fun _ => 0) s.dip.value g

/-- R376: COUNTER_WRAP, at most once per counter in any 1,024 epochs. -/
def wrapNotice (s : State) (g : Nat) : State :=
  let last := sget (fun _ => 0) s.dip.noted g
  if selWrap (selOf s g) && (last == 0 || decide (last + 1023 < s.herd.epoch)) then
    repDie (updDip s (fun d => { d with noted := sput (fun _ => 0) g (s.herd.epoch + 1) d.noted })) .counterWrap g
  else s

/-- Add to counter `g`: WRAP counts modulo 2^48 by itself, CHAIN counts the 96-bit pair (R376, R377). -/
def bump (s : State) (g amt : Nat) : State :=
  if amt = 0 then s
  else if chained s g then
    if g % 2 = 1 then s
    else
      let v := (ctrVal s g).toNat + (ctrVal s (g + 1)).toNat * 2 ^ 48 + amt
      let s1 := updDip s (fun d => { d with
        value := sput (fun _ => 0) (g + 1) (BitVec.ofNat 48 (v / 2 ^ 48))
          (sput (fun _ => 0) g (BitVec.ofNat 48 v) d.value)
        ovf := if 2 ^ 96 ≤ v then sput (fun _ => false) (g + 1) true (sput (fun _ => false) g true d.ovf)
               else d.ovf })
      if 2 ^ 96 ≤ v then wrapNotice s1 g else s1
  else
    let v := (ctrVal s g).toNat + amt
    let s1 := updDip s (fun d => { d with
      value := sput (fun _ => 0) g (BitVec.ofNat 48 v) d.value
      ovf := if 2 ^ 48 ≤ v then sput (fun _ => false) g true d.ovf else d.ovf })
    if 2 ^ 48 ≤ v then wrapNotice s1 g else s1

def clsIndex : Cls → Nat
  | .g => 0 | .s => 1 | .a => 2 | .b => 3

/-- Whether a selection counts this event, with the qualifiers that the event has (R373, R374). -/
def selHit (w : BitVec 32) (code : Nat) (port : Option PortId) (vc : Option Nat) (cls : Option Cls) : Bool :=
  decide (selEvent w = code) &&
  (match port with
   | none => true
   | some p => decide (selPort w = 0xF) || decide (selPort w = p.val)) &&
  (match vc with
   | none => true
   | some v => w.getLsbD (18 + v)) &&
  (match cls with
   | none => true
   | some c => w.getLsbD (14 + clsIndex c))

/-- Count an event at a router (R373). -/
def countR (s : State) (r : RouterId) (code : Nat) (port : Option PortId) (vc : Option Nat) (cls : Option Cls)
    (amt : Nat := 1) : State :=
  (List.range 16).foldl (fun s i =>
    let g := ctrRouter r + i
    if selHit (selOf s g) code port vc cls then bump s g amt else s) s

/-- Count an event at an NI's selectable counters 0–4 (R374). -/
def countN (s : State) (n : Slot) (code : Nat) (vc : Option Nat := none) (cls : Option Cls := none)
    (amt : Nat := 1) : State :=
  (List.range 5).foldl (fun s i =>
    let g := ctrNi n + i
    if selHit (selOf s g) code none vc cls then bump s g amt else s) s

/-- Count at an NI's fixed counter: 5 DATA_CORRECTED, 6 GATE_OUT_LINES, 7 GATE_IN_LINES (R372). -/
def countNFix (s : State) (n : Slot) (j amt : Nat) : State := bump s (ctrNi n + j) amt

/-- Count at a spine link end's fixed counter `k` (R279). -/
def countE (s : State) (e : LinkEnd) (k : Nat) (amt : Nat := 1) : State := bump s (ctrSpine e + k) amt

/-- R387: the 32-bit flit counts of a router port. -/
def satBw (n : Nat) : Nat := min (2 ^ 32 - 1) (n + 1)
def bwOutInc (x : Router) (p : PortId) : Router :=
  if h : p.val < 10 then { x with bwOut := tupd x.bwOut ⟨p.val, h⟩ satBw } else x
def bwInInc (x : Router) (p : PortId) : Router :=
  if h : p.val < 10 then { x with bwIn := tupd x.bwIn ⟨p.val, h⟩ satBw } else x

/-! ### The endpoint port (R481, R484, R490) -/

def putOut (x : NI) (o : EpOut) : NI := { x with out := x.out ++ [o] }

end Sys2Proof.Machine
end

