-- ==== Sys2Proof/Machine/Gates.lean ====
section
/-! DEFINITION. Access gates at both ends (chapter 09): the check of one line, of mail, and the violation record. -/

namespace Sys2Proof.Machine

/-- KIND of R309. -/
inductive GKind where
  | read | write | fetch | atomic | lock | mail
deriving DecidableEq, Repr

def gkCode : GKind → Nat
  | .read => 0 | .write => 1 | .fetch => 2 | .atomic => 3 | .lock => 4 | .mail => 5

/-- R281, R282: the kind that the opcode fixes; the fetch qualifier counts at the source only. -/
def gateKind (op : BitVec 6) (fetch : Bool) : GKind :=
  if isRead op then (if fetch then .fetch else .read)
  else if isAtomic op then .atomic
  else if isLock op then .lock
  else if op == opMsgMail then .mail
  else .write

def gcCode : GCause → Nat
  | .noMatch => 0 | .overlap => 1 | .master => 2 | .attrs => 3 | .locked => 4 | .sealedRule => 5

def gOk : GAns := { code := .ok, cause := .noMatch, region := 0 }
def gNo (c : GCause) (r : Nat) : GAns := { code := .gateFault, cause := c, region := r }

def gRegionBad (s : State) (n : Slot) (set : Fin 2) (i : Fin 32) : Bool :=
  wordBad s (.ni n) (.gateRegion (set == 1) i)

/-- The attributes of a region word 0, as bits RD, WR, FETCH, ATOM, LOCK, DBG of R289. -/
def regionAttrs (w0 : Word) : BitVec 6 :=
  (w0.extractLsb' 61 1).zeroExtend 6 ||| ((w0.extractLsb' 60 1).zeroExtend 6 <<< 1) |||
  ((w0.extractLsb' 59 1).zeroExtend 6 <<< 2) ||| ((w0.extractLsb' 58 1).zeroExtend 6 <<< 3) |||
  ((w0.extractLsb' 57 1).zeroExtend 6 <<< 4) ||| ((w0.extractLsb' 56 1).zeroExtend 6 <<< 5)

/-- The permission bit that a kind needs (R281). -/
def kindAttr : GKind → Nat
  | .read => 0 | .write => 1 | .fetch => 2 | .atomic => 3 | .lock => 4 | .mail => 1

/-- A region of the set in force as the check sees it: word 0, word 1, and whether the word is uncorrectable. An
uncorrectable region covers every page at both ends with no permission, and at slot 188 matches nothing (R305). -/
def regionMatches (n : Slot) (outb : Bool) (page : Nat) (w : (Word × Word) × Bool) : Bool :=
  if w.2 then n.val != 188
  else
    w.1.1.getLsbD 63 && w.1.1.getLsbD (if outb then 53 else 54) &&
    decide (field w.1.1 0 40 ≤ page) && decide (page ≤ field w.1.2 0 40)

/-- R306: what no set, map or state admits. -/
def fixedRefuses (n : Slot) (outb : Bool) (src dest : Nat) : Bool :=
  if outb then n.val == 191 && dest == 190 else n.val == 190 && src == 191

/-- The gate set in force at an NI, with each region's ECC state. -/
def gateSetOf (s : State) (n : Slot) : List ((Word × Word) × Bool) :=
  let x := nif s n
  (List.finRange 32).map (fun i =>
    (tget (tget x.gates x.gateActive).regions i, gRegionBad s n x.gateActive i))

/-- The decision of R288 for one line in a given page. `regs` is the set in force and `dflt` the default map. -/
def gateDecide (n : Slot) (outb : Bool) (regs : List ((Word × Word) × Bool)) (dflt : BitVec 6) (dbgAuth : Bool)
    (src dest : Nat) (priv debug : Bool) (kind : GKind) (page : Nat) : GAns :=
  if fixedRefuses n outb src dest then gNo .sealedRule 0
  else
    let m := (regs.zipIdx).filter (fun w => regionMatches n outb page w.1)
    let attrs (a : BitVec 6) (r : Nat) : GAns :=
      if !a.getLsbD (kindAttr kind) then gNo .attrs r
      else if debug && !a.getLsbD 5 then gNo .attrs r
      else gOk
    match m with
    | [] => if !priv then gNo .noMatch 0 else attrs dflt 0
    | [(w, i)] =>
      if w.2 then gNo .attrs i
      else if src == 191 && w.1.1.getLsbD 62 && !((kind == .read || kind == .fetch) && dbgAuth) then gNo .locked i
      else if decide (src < field w.1.2 48 8) || decide (field w.1.2 56 8 < src) then gNo .master i
      else if w.1.1.getLsbD 55 && !priv then gNo .master i
      else attrs (regionAttrs w.1.1) i
    | (_, i) :: _ :: _ => { code := .overlap, cause := .overlap, region := i }

/-- The check of line `addr` of an access with header `h` at one end (R287, R288). At the target the kind of a fetch
is a read (R281). -/
def gateLine (s : State) (n : Slot) (outb : Bool) (h : Flit) (dest : Nat) (kind : GKind) (addr : Nat) : GAns :=
  gateDecide n outb (gateSetOf s n)
    (if wordBad s (.ni n) .defaultMap then 0 else BitVec.ofNat 6 (cfgN s n itDefaultMap (if outb then 0 else 1)))
    (nif s n).dbgAuth (fSrc h) dest (fPriv h) (fDebug h) kind (addr / 64)

/-- R290: mail is decided by the control word. -/
def gateMail (s : State) (n : Slot) (outb : Bool) (h : Flit) (dest : Nat) : GAns :=
  let x := nif s n
  let w := (tget x.gates x.gateActive).ctl
  if fixedRefuses n outb (fSrc h) dest then gNo .sealedRule 0
  else if wordBad s (.ni n) (.gateCtl (x.gateActive == 1)) && n.val != 188 then gNo .noMatch 0
  else if fPriv h then gOk
  else if outb then (if w.getLsbD 47 then gOk else gNo .attrs 0)
  else if !w.getLsbD 46 then gNo .attrs 0
  else if decide (field w 48 8 ≤ fSrc h) && decide (fSrc h ≤ field w 56 8) then gOk
  else gNo .master 0

/-- The violation record of R309 for the refused lines `refused` (positions and answers, lowest first). -/
def violation (epoch : Nat) (outb : Bool) (h : Flit) (dest addr : Nat) (kind : GKind) (a : GAns) (lines : Nat) :
    Nat :=
  let w : BitVec 128 := 0
  let w := setField w 80 48 epoch
  let w := setField w 34 46 addr
  let w := setField w 26 8 (fSrc h)
  let w := setField w 18 8 dest
  let w := setField w 17 1 (!outb).toNat
  let w := setField w 16 1 (fPriv h).toNat
  let w := setField w 15 1 (fDebug h).toNat
  let w := setField w 12 3 (gkCode kind)
  let w := setField w 9 3 (gcCode a.cause)
  let w := setField w 4 5 a.region
  (setField w 0 4 lines).toNat

/-- Record a packet's refusals at one end: the gate counter of R310 for every refused line, and one record per packet
for the lowest of them (R309). `ans` holds the position, line address and answer of every line checked. -/
def gateRecord (s : State) (n : Slot) (outb : Bool) (h : Flit) (dest : Nat) (kind : GKind)
    (ans : List (Nat × Nat × GAns)) : State :=
  let bad := ans.filter (fun a => a.2.2.code != .ok)
  match bad with
  | [] => s
  | (_, addr, a) :: _ =>
    let lines := bad.foldl (fun m b => m + 2 ^ (b.1 % 4)) 0
    let s := countNFix s n (if outb then 6 else 7) bad.length
    repNi s n .gateViolation 0
      (violation (epochN s n) outb h dest (if kind = .mail then addr % 1024 else addr) kind a lines)

/-- The lines that a request names, from its head: the count of its corrected word 0, or LEN (R57, R349). -/
def headLines (h : Flit) : Nat :=
  let op := fOp h
  if isRead op || op == opVatDrain then field (eccWord h 0) 0 2 + 1
  else if isFull op || op == opMsgMail || op == opVatSpill then fLen h + 1
  else if isPart op then fLen h
  else 1

/-- The inbound check of every line of a packet, made in its head's cycle e1 (R299). -/
def gateHead (s : State) (n : Slot) (h : Flit) : List GAns :=
  let kind := gateKind (fOp h) false
  (List.range (headLines h)).map (fun i =>
    if kind = .mail then gateMail s n false h n.val else gateLine s n false h n.val kind ((fAddr h + i) % 2 ^ 46))

/-- R305: the first check that meets an uncorrectable region of the set in force logs GATE_ECC. -/
def gateEccLog (s : State) (n : Slot) : State :=
  let x := nif s n
  (List.finRange 32).foldl (fun s i =>
    if gRegionBad s n x.gateActive i && !(nif s n).gateEcc.contains (x.gateActive, i) then
      repNi (updN s n (fun x => { x with gateEcc := x.gateEcc ++ [(x.gateActive, i)] })) n .gateEcc
        (x.gateActive.val * 256 + i.val)
    else s) s

end Sys2Proof.Machine
end

