-- ==== Sys2Proof/Machine/CurdMap.lean ====
section
/-! DEFINITION. Canonical regions, logical epoch numbers and the Curd check of a source NI (R176, R177, R181–R183,
R528). -/

namespace Sys2Proof.Machine

/-- A canonical region's group, first byte and size (R177). -/
structure CRegion where
  group : GroupId
  base : Nat
  size : Nat
deriving DecidableEq, Repr

def regionOf (w : Word) : Option CRegion :=
  if w.getLsbD 63 then
    let sl := min 51 (max 12 (field w 52 6))
    let base := (field w 12 40 * 4096) / 2 ^ sl * 2 ^ sl
    some { group := Fin.ofNat 32 (field w 58 5), base := base, size := 2 ^ sl }
  else none

/-- The valid regions of the table, which every NI holds alike (R176). -/
def cRegions (s : State) : List CRegion := s.herd.regions.toList.filterMap regionOf

/-- The group of a canonical line (R176). -/
def canonGroup (s : State) (line : Nat) : Option GroupId :=
  ((cRegions s).find? (fun r => decide (r.base ≤ line * 64) && decide (line * 64 < r.base + r.size))).map (·.group)

/-- Signed distance of a LEPOCH byte from a reference, in the window −127 to +128 (R181). -/
def lepDelta (ref low : Nat) : Int :=
  let d : Nat := (low % 256 + 256 - ref % 256) % 256
  if d ≤ 128 then (d : Int) else (d : Int) - 256

/-- The full logical epoch that a LEPOCH byte names (R181). -/
def lepFull (ref low : Nat) : Nat := (((ref : Int) + lepDelta ref low + (2 ^ 48 : Int)) % (2 ^ 48 : Int)).toNat

/-- Signed distance of two 48-bit logical epochs, compared modulo 2^48 (R181). -/
def lepDist (a b : Nat) : Int :=
  let d : Nat := (a + 2 ^ 48 - b % 2 ^ 48) % 2 ^ 48
  if d < 2 ^ 47 then (d : Int) else (d : Int) - 2 ^ 48
def lepLe (a b : Nat) : Bool := decide (lepDist a b ≤ 0)
def lepLt (a b : Nat) : Bool := decide (lepDist a b < 0)
def lepAdd (a n : Nat) : Nat := (a + n) % 2 ^ 48

/-- What the source's Curd check of R182 makes of one line. -/
inductive CurdOut where
  | ordinary
  | tagged (g : GroupId) (l : Nat)
  | refuse (ev : EventCode) (g : GroupId) (l : Nat)
deriving DecidableEq, Repr

/-- R182, with R528 for a FAILED group. Locks are never tagged; MSG_INTR is a write, as in R281. -/
def curdSource (s : State) (n : Slot) (op : BitVec 6) (ord : Bool) (low line : Nat) : CurdOut :=
  match canonGroup s line with
  | none => .ordinary
  | some g =>
    let q := tget (nif s n).groups g
    let l := lepFull q.k low
    let wr := isWrite op || isAtomic op || op == opMsgIntr
    if isLock op || op == opMsgMail then .ordinary
    else if !q.member then (if wr then .refuse .curdNonmember g l else .ordinary)
    else if q.state == .failed then .refuse .curdFailed g l
    else if wr && !ord then .refuse .curdUnordered g l
    else if lepLe l q.k then .refuse .curdLate g l
    else if wr && lepLt (lepAdd q.k 16) l then .refuse .curdWindow g l
    else if !wr && lepLt (lepAdd q.k 1) l then .refuse .curdWindow g l
    else .tagged g l

/-- R183: an access that waits at step 5. -/
def curdWaits (s : State) (n : Slot) (op : BitVec 6) : CurdOut → Bool
  | .tagged g l =>
    let q := tget (nif s n).groups g
    if isRead op then lepLt (lepAdd q.cm 1) l else lepLt (lepAdd q.cm 16) l
  | _ => false

/-- DETAIL and RECORD of the CURD events of R453. -/
def curdDetail (g : GroupId) (src : Nat) : Nat := g.val * 2 ^ 24 + src * 2 ^ 16
def repCurd (s : State) (n : Slot) (ev : EventCode) (g : GroupId) (src l : Nat) : State :=
  repNi s n ev (curdDetail g src) (l % 2 ^ 48)

end Sys2Proof.Machine
end

