-- ==== Sys2Proof/Machine/MemPort.lean ====
section
/-! DEFINITION. The Herdsman's way to memory (R30): the writes and messages that it has for NI 188, those that the NI has
taken, and what their answers do to the ring, the command, the drain or the gather that they belong to; and the Can's way
through NI 190 (R346, R364). -/

namespace Sys2Proof.Machine

/-- The Herdsman and the Can are fabric logic behind their NIs. -/
def ownPort (n : Slot) : Bool := n == herdSlot || n == canSlot

/-! ### Packets -/

/-- A control field of a packet that the block forms itself. -/
def mkCtl (dest src vc : Nat) (op : BitVec 6) : BitVec 128 :=
  setField (setField (setField (setField 0 120 8 dest) 112 8 src) 109 3 vc) 103 6 op.toNat

/-- A one-flit packet that the block forms itself, from its operand words. -/
def mkFlit (c : BitVec 128) (words : List Word) : Flit :=
  let d := words.zipIdx.foldl (fun d (w, i) => setField d (64 * i) 64 w.toNat) (0 : BitVec 512)
  { ctl := c, par := ctlParity c, dat := d, chk := lineChk d }

/-- DEST that slot 188 supplies for direct-target lines (R515). -/
def directDest (s : State) : Nat := field s.herd.ctl 0 8

/-- The header of an access of slot 188. -/
def herdCtl (dest : Nat) (op : BitVec 6) (addr : Nat) (priv : Bool) : BitVec 128 :=
  setField (setField (mkCtl dest 188 0 op) 34 46 (addr % 2 ^ 46)) 4 1 priv.toNat

/-- A write of whole lines from line address `line` on. -/
def linesAcc (s : State) (use : MemUse) (op : BitVec 6) (line : Nat) (ds : List (BitVec 512)) : MemAcc :=
  { use := use, pkt := mkPacket (herdCtl (directDest s) op line true) (ds.map goodLine), after := none }

def fullLine (s : State) (use : MemUse) (line : Nat) (d : BitVec 512) : MemAcc := linesAcc s use opWrFullNp line [d]

/-- A write of bytes [3:0] of a home word (R336, R343). -/
def homeWrite (s : State) (use : MemUse) (line : Nat) (v : BitVec 32) : MemAcc :=
  { use := use, after := none
    pkt := mkPacket (herdCtl (directDest s) opWrPartNp line true) [goodLine 0xF, goodLine (v.setWidth 512)] }

/-- A MSG_INTR (R57): its value and its word index. -/
def intrAcc (use : MemUse) (dest addr w : Nat) (v : Word) (priv : Bool) : MemAcc :=
  { use := use, pkt := [mkFlit (herdCtl dest opMsgIntr addr priv) [v, BitVec.ofNat 64 w]], after := none }

/-- A MSG_MAIL to a mailbox. -/
def mailAcc (use : MemUse) (dest box : Nat) (ls : List (BitVec 512)) (priv : Bool) : MemAcc :=
  { use := use, pkt := mkPacket (herdCtl dest opMsgMail box priv) (ls.map goodLine), after := none }

/-- FN_STORE_G, by which the Dipper knows its records to be in memory (R385). -/
def fenceAcc (use : MemUse) : MemAcc :=
  { use := use, pkt := [mkFlit (herdCtl 0 opFnStoreG 0 true) []], after := none }

/-! ### Handing accesses to NI 188 -/

/-- An access waits for NI 188 to take it. -/
def memWrite (s : State) (a : MemAcc) : State := updHerd s (fun h => { h with memOut := h.memOut ++ [a] })
def memWrites (s : State) (as : List MemAcc) : State := updHerd s (fun h => { h with memOut := h.memOut ++ as })

/-- Accesses of a use that NI 188 has taken are unanswered. -/
def useOpen (s : State) (u : MemUse) : Bool := s.herd.memBusy.any (fun b => b.use == u)

/-- Accesses of a use wait for NI 188, or are unanswered. -/
def useLeft (s : State) (u : MemUse) : Bool := s.herd.memOut.any (fun a => a.use == u) || useOpen s u

def memTaken (a : MemAcc) (t : Nat) : MemBusy := { use := a.use, tag := t, req := none, left := 1, st := .ok, lstat := 0 }

/-! ### Commands -/

def isCmd (ring : CmdRing) (index : Nat) (c : Cmd) : Bool := c.ring == ring && c.index == index

/-- End a command: those that have ended stand last, in the order of their ends (R324). -/
def endCmd (s : State) (ring : CmdRing) (index : Nat) (st : Status) (detail : BitVec 16) (res : BitVec 320 := 0) :
    State :=
  updHerd s (fun h => match h.started.find? (isCmd ring index) with
    | some c => { h with
        started := h.started.filter (fun d => !isCmd ring index d) ++ [{ c with result := some (st, detail, res) }] }
    | none => h)

/-- The row of a command has acted, and it ends so once memory has answered its accesses. -/
def ranCmdAs (s : State) (ring : CmdRing) (index : Nat) (e : Status × BitVec 16 × BitVec 320) : State :=
  updHerd s (fun h => { h with
    started := updFirst (isCmd ring index) (fun c => { c with ran := true, ending := e }) h.started })

def endingOf (s : State) (ring : CmdRing) (index : Nat) : Status × BitVec 16 × BitVec 320 :=
  ((s.herd.started.find? (isCmd ring index)).map (·.ending)).getD (.ok, 0, 0)

/-- Entries whose line is in host memory lose their valid bits (R474). -/
def crockClear (c : Crock) (is : List Nat) : Crock :=
  { c with valid := is.foldl (fun v i => sput (fun _ => false) i false v) c.valid }

/-- RESULT of a drain of `n` entries (R474). -/
def drainResult (c : Crock) (n : Nat) : BitVec 320 :=
  BitVec.ofNat 320 (n + c.lost * 2 ^ 16 + c.stopped.toNat * 2 ^ 32)

def isDrain (ring : CmdRing) (index : Nat) (u : MemUse) : Bool :=
  match u with
  | .drain r i _ => r == ring && i == index
  | _ => false

/-! ### Answers -/

/-- The answer to a line of a drain (R474): its entries lose their valid bits, or the drain ends. -/
def drainAnswered (s : State) (ring : CmdRing) (index : Nat) (is : List Nat) (st : Status) : State :=
  let n := (endingOf s ring index).2.2.toNat
  if st == .ok then
    let s := updCrock s (fun c => crockClear c is)
    let n := n + is.length
    if s.herd.memOut.any (fun a => isDrain ring index a.use) then ranCmdAs s ring index (.ok, 0, BitVec.ofNat 320 n)
    else endCmd s ring index .ok 0 (drainResult s.crock n)
  else
    let s := updHerd s (fun h => { h with memOut := h.memOut.filter (fun a => !isDrain ring index a.use) })
    endCmd s ring index .poison 0 (drainResult s.crock n)

/-- The answer to an access of a command: MSG_SEND ends with its status and per-line field (R327); the writes of CFG_READ,
DEDUCED: with POISON where one of them was not answered OK. -/
def cmdAnswered (s : State) (ring : CmdRing) (index : Nat) (st : Status) (lstat : BitVec 16) : State :=
  let e := endingOf s ring index
  let send := (s.herd.started.find? (isCmd ring index)).any (fun c => field c.desc 32 8 == 0x24)
  let e := if send then (st, 0, lstat.setWidth 320) else if st == .ok then e else (.poison, 0, 0)
  if useLeft s (.cmd ring index) then ranCmdAs s ring index e else endCmd s ring index e.1 e.2.1 e.2.2

/-- What an answer does, by what its access was for. -/
def answered (s : State) (u : MemUse) (st : Status) (lstat : BitVec 16) : State :=
  let ring (r : RingId) (f : HRing → HRing) : State := updHerd s (fun h => { h with rings := tupd h.rings r f })
  match u with
  | .home => s
  | .intr => s
  | .entry r i => ring r (fun x => { x with acks := x.acks.set i (some st) })
  | .index r => ring r (fun x => { x with indexAck := some st })
  | .cmd r i => cmdAnswered s r i st lstat
  | .drain r i es => drainAnswered s r i es st
  | .gatherHead _ => updDip s (fun d => { d with gatherFail := d.gatherFail || st != .ok })
  | .gather => updDip s (fun d => { d with gatherFail := d.gatherFail || st != .ok })
  | .gatherFence | .gatherClose => updDip s (fun d => { d with
      gatherAcks := if st == .ok then d.gatherAcks + 1 else d.gatherAcks, gatherFail := d.gatherFail || st != .ok })

/-- An access is no longer outstanding. -/
def memEnd (s : State) (b : MemBusy) (st : Status) (lstat : BitVec 16) : State :=
  answered (updHerd s (fun h => { h with memBusy := h.memBusy.filter (fun c => c.tag != b.tag) })) b.use
    (stWorse b.st st) (b.lstat ||| lstat)

/-- The response to an access, or what would have been one (R112, R327). -/
def memAnswer (s : State) (tag : Nat) (st : Status) (lstat : BitVec 16) : State :=
  match s.herd.memBusy.find? (fun b => b.tag == tag) with
  | some b => memEnd s b st lstat
  | none => s

/-- NI 188 accepts a posted access, in `pieces` packets; `codes`: what its outbound checks made of the lines. -/
def memAccepted (s : State) (tag req pieces : Nat) (codes : List Status) : State :=
  updHerd s (fun h => { h with
    memBusy := updFirst (fun b => b.tag == tag) (fun b => { b with
      req := some req, left := pieces, st := worst codes, lstat := BitVec.ofNat 16 (lstatBits codes) }) h.memBusy })

/-- The WR_ACK of one packet of a posted access, which NI 188 passes to the Herdsman (R327), or its loss. -/
def memPiece (s : State) (req : Nat) (st : Status) (lstat : BitVec 16) : State :=
  match s.herd.memBusy.find? (fun b => b.req == some req) with
  | some b =>
    if 1 < b.left then updHerd s (fun h => { h with
      memBusy := updFirst (fun b => b.req == some req) (fun b => { b with
        left := b.left - 1, st := stWorse b.st st, lstat := b.lstat ||| lstat }) h.memBusy })
    else memEnd s b st lstat
  | none => s

/-- Accesses that belong to no command and no gather. -/
def ofNoCommand (u : MemUse) : Bool :=
  match u with
  | .home | .intr | .entry _ _ | .index _ => true
  | _ => false

/-- NI 188 has lost what it held: every access that it had taken is answered LOST, and so are the entries and indices that
still wait, which are not written before the re-read of R38. -/
def memWiped (s : State) : State :=
  let isPub (u : MemUse) : Bool := match u with
    | .entry _ _ | .index _ => true
    | _ => false
  let gone := s.herd.memBusy.map (·.use) ++ (s.herd.memOut.filter (fun a => isPub a.use)).map (·.use)
  gone.foldl (fun s u => answered s u .lost 0)
    (updHerd s (fun h => { h with memBusy := [], memOut := h.memOut.filter (fun a => !isPub a.use) }))

/-! ### The Can (R346, R364, R367) -/

/-- MCLK reaches the Can: not in RETAIN nor while frozen (R367). -/
def canRuns (s : State) : Bool := s.aon.mode != .retain && s.aon.mode != .freeze

/-- The Can can deliver: its NI is there and it is not paused (R367). -/
def canDelivers (s : State) : Bool := canRuns s && !s.can.paused && niRuns s canSlot && !(nif s canSlot).closed

/-- A request of the Can: class B, TENANT 0 and no PRIV; DEST for a line that no entry of the spray map covers (R364). -/
def canCtl (s : State) (op : BitVec 6) (addr : Nat) : BitVec 128 :=
  setField (setField (mkCtl (field s.can.rptCtl 16 8) 190 0 op) 34 46 (addr % 2 ^ 46)) 6 2 3

/-- NI 190 has lost what it held. DESIGN CHOICE: a report under way is written again from its first line, delivery having
waited for the NI (R367). -/
def canWiped (s : State) : State :=
  updCan s (fun c => { c with memOut := [], tag := none, report := c.report.map (fun r => { r with lines := 0 }) })

end Sys2Proof.Machine
end

