-- ==== Sys2Proof/Machine/Meter.lean ====
section
/-! DEFINITION. Policing at the host links (R221–R228): the flow table, the two-rate three-colour marker, and the
effect of flow entries written by METER_PROG. -/

namespace Sys2Proof.Machine

/-- What step 4 of R111 makes of a request. -/
inductive MeterOut where
  | go (colour : BitVec 2) | hold | refuse
deriving DecidableEq, Repr

def meterWord (x : NI) (tenant : Nat) (hi : Bool) : Word := sget (fun _ => 0) x.meter (2 * tenant + hi.toNat)
def meterPut (x : NI) (tenant : Nat) (hi : Bool) (w : Word) : NI :=
  { x with meter := sput (fun _ => 0) (2 * tenant + hi.toNat) w x.meter }

/-- A profile as R222 reads it: CIR, PIR, CBS, PBS with their floors. -/
structure Profile where
  cir : Nat
  pir : Nat
  cbs : Nat
  pbs : Nat
deriving DecidableEq, Repr

def profileOf (v : Nat) : Profile :=
  let w0 : BitVec 128 := BitVec.ofNat 128 v
  let cir := field w0 0 21
  let pir := field w0 21 21
  let cbs := field w0 64 24
  let pbs := field w0 88 24
  { cir := cir, pir := max cir pir, cbs := max 4096 cbs, pbs := max 4096 pbs }

/-- The colours and tokens of R224: colour 1 green, 2 yellow, none red; then tc and tp after it. `refuse` is the forced
action of a zero peak rate. -/
structure Marked where
  colour : Option (BitVec 2)
  refuse : Bool
  tc : Nat
  tp : Nat
deriving DecidableEq, Repr

def marker (p : Profile) (tc tp d b : Nat) : Marked :=
  let d := min d (2 ^ 24)
  let tc := min (p.cbs * 16) (tc + d * p.cir)
  let tp := min (p.pbs * 16) (tp + d * p.pir)
  let c := b * 16
  if p.pir = 0 then { colour := none, refuse := true, tc := tc, tp := tp }
  else if tp < c then { colour := none, refuse := false, tc := tc, tp := tp }
  else if tc < c then { colour := some 2, refuse := false, tc := tc, tp := tp - c }
  else { colour := some 1, refuse := false, tc := tc - c, tp := tp - c }

/-- Flow word 0 with new tokens. -/
def withTokens (w0 : Word) (tc tp : Nat) : Word := setField (setField w0 28 28 tc) 0 28 tp

/-- R225: the COLOUR of a request that asked for class A or B, from the marker's colour (none: not policed). -/
def colourOf (askB : Bool) (policed : Option (BitVec 2)) : BitVec 2 :=
  match policed with
  | none => if askB then 3 else 0
  | some c => if askB then 3 else c

/-- Forget that a stored word is uncorrectable: it has been written again. -/
def clearBad (s : State) (u : TabUnit) (k : WordKind) : State :=
  updChurn s (fun c => { c with bad := c.bad.filter (fun b => !(decide (b.1 = u) && decide (b.2.2 = k))) })

/-- R228: an uncorrectable flow word is replaced by what the rule says, and METER_ECC is logged. -/
def meterEcc (s : State) (n : Slot) (tenant : Fin 4096) : State :=
  let lo := wordBad s (.ni n) (.meterWord tenant false)
  let hi := wordBad s (.ni n) (.meterWord tenant true)
  if lo || hi then
    let s := if lo then
        clearBad (updN s n (fun x => meterPut x tenant.val false (0x8000000000000000#64))) (.ni n)
          (.meterWord tenant false)
      else s
    let s := if hi then
        clearBad (updN s n (fun x => meterPut x tenant.val true (BitVec.ofNat 64 (epochN s n)))) (.ni n)
          (.meterWord tenant true)
      else s
    repNi s n .meterEcc tenant.val
  else s

/-- Meter a request of `b` bytes for a tenant (R221–R226): the outcome, and the flow entry afterwards. -/
def meterReq (s : State) (n : Slot) (tenant : Fin 4096) (askB : Bool) (b : Nat) : MeterOut × State :=
  let s := meterEcc s n tenant
  let x := nif s n
  let w0 := meterWord x tenant.val false
  if !w0.getLsbD 63 then (.go (colourOf askB none), s)
  else
    let p := profileOf (cfgN s n itMeterProfile (field w0 56 6))
    let e := epochN s n
    let m := marker p (field w0 28 28) (field w0 0 28) (e - field (meterWord x tenant.val true) 0 48) b
    let s := updN s n (fun x => meterPut (meterPut x tenant.val false (withTokens w0 m.tc m.tp)) tenant.val true
      (BitVec.ofNat 64 (e % 2 ^ 48)))
    match m.colour with
    | some c => (.go (colourOf askB (some c)), if c = 2 && !askB then countN s n 0x11 else s)
    | none => if m.refuse || w0.getLsbD 62 then (.refuse, s) else (.hold, s)

/-- R221: the charge in bytes of a request of a given opcode and line count. -/
def meterCharge (op : BitVec 6) (lines : Nat) : Nat :=
  if isRead op || isWrite op || op == opMsgMail then 64 * lines else 64

/-- R227: put in force the flow entries that reached the NI before its last tick. -/
def meterApply (s : State) (n : Slot) : State :=
  let x := nif s n
  let e := epochN s n
  (x.meterNext.filter (fun w => decide (w.epoch ≠ e))).foldl (fun s w =>
    let x := nif s n
    let old := meterWord x w.tenant.val false
    let p := profileOf (cfgN s n itMeterProfile (field w.w0 56 6))
    let head : Word := setField w.w0 0 56 0
    let w0 := if w.fill then withTokens head (p.cbs * 16) (p.pbs * 16)
      else withTokens head (field old 28 28) (field old 0 28)
    let s := updN s n (fun x =>
      let x := meterPut x w.tenant.val false w0
      if w.fill then meterPut x w.tenant.val true (BitVec.ofNat 64 (e % 2 ^ 48)) else x)
    let s := clearBad s (.ni n) (.meterWord w.tenant false)
    if w.fill then clearBad s (.ni n) (.meterWord w.tenant true) else s)
    (updN s n (fun x => { x with meterNext := x.meterNext.filter (fun w => decide (w.epoch = e)) }))

end Sys2Proof.Machine
end

