-- ==== Sys2Proof/Machine/Tally.lean ====
section
/-! DEFINITION. The tally lanes of the host-link NIs (R348–R353): what an NI writes into its two lane FIFOs. -/

namespace Sys2Proof.Machine

/-- A tally word (R351): even parity over all 24 bits. -/
def mkTally (tenant kind units : Nat) : BitVec 24 :=
  let w : BitVec 24 := setField (setField (setField 0 11 12 tenant) 8 3 kind) 0 7 units
  if parity w then setField w 23 1 1 else w

/-- A tick marker (R351, R353). -/
def mkMarker (epoch : Nat) : BitVec 24 := mkTally (epoch % 4096) 0 0

/-- The lane of a host-link NI: 2n outbound, 2n + 1 inbound (R346). -/
def laneOf (n : Slot) (inb : Bool) : LaneId := Fin.ofNat 32 (2 * n.val + inb.toNat)

/-- R352: the lane FIFO holds 32 words; an event waits for room for all its words, and for the markers before it. -/
def laneRoom (s : State) (n : Slot) (inb : Bool) (need : Nat) : Bool :=
  let l := tget s.can.lanes (laneOf n inb)
  !isHostLink n.val || need == 0 || (l.owed.isEmpty && decide (l.fifo.length + need ≤ 32))

/-- What a lane's NI has written and has still to write: the FIFO takes 32 words (R352). -/
def TallyLane.fill (l : TallyLane) : TallyLane :=
  { l with fifo := (l.fifo ++ l.owed).take 32, owed := (l.fifo ++ l.owed).drop 32 }

/-- The markers of a tick (R353). DEDUCED: a marker that finds its FIFO full is written as soon as there is room, before
any later tally. -/
def putMarkers (s : State) (n : Slot) (m : BitVec 24) : State :=
  if isHostLink n.val then
    updCan s (fun c => { c with lanes := [false, true].foldl (fun ls inb =>
      tupd ls (laneOf n inb) (fun l => { l with owed := l.owed ++ [m] }.fill)) c.lanes })
  else s

/-- An NI that loses its state has no marker left to write. -/
def noneOwed (s : State) (n : Slot) : State :=
  updCan s (fun c => { c with lanes := [false, true].foldl (fun ls inb =>
    tupd ls (laneOf n inb) (fun l => { l with owed := [] })) c.lanes })

def putTally (s : State) (n : Slot) (inb : Bool) (words : List (BitVec 24)) : State :=
  if isHostLink n.val then
    updCan s (fun c => { c with lanes := tupd c.lanes (laneOf n inb) (fun l => { l with fifo := l.fifo ++ words }) })
  else s

/-- OUT and IN kinds of a class (R348). -/
def kindOf (c : Cls) (inb : Bool) : Nat :=
  (match c with
   | .g => 0 | .a => 1 | .b => 2 | .s => 1) + (if inb then 3 else 0)

/-- The tallies of an event with `ok` units of one kind and `bad` units refused by a gate (R349). -/
def tallyPair (tenant kind ok bad : Nat) : List (BitVec 24) :=
  (if 0 < ok then [mkTally tenant kind ok] else []) ++ (if 0 < bad then [mkTally tenant 7 bad] else [])

end Sys2Proof.Machine
end

