-- ==== Sys2Proof/Machine/Requests.lean ====
section
/-! DEFINITION. The request side of an NI (chapter 04): what an endpoint presents, the spray map and splitting, the
five steps of R111, acceptance, fences and closes. -/

namespace Sys2Proof.Machine

/-! ### The endpoint port -/

/-- R490: an error record on the error sideband. -/
def errRec (s : State) (n : Slot) (kind : BitVec 3) (st : Status) (op : BitVec 6) : State :=
  updN s n (fun x => putOut x (.err kind st op false))

/-- R44: the fields of a head that the source NI overwrites whatever the request. -/
def normHead (n : Slot) (f : Flit) : Flit :=
  let f := setF f 112 8 n.val
  let f := if mayPriv n.val then f else setF f 4 1 0
  if n.val = 191 then f else setF f 3 1 0

/-- R207, R208: the class a request asks for: G, or B. -/
def asksG (op : BitVec 6) (h : Flit) : Bool := fVc h == 4 && gAllowed op
def asksB (h : Flit) : Bool := fVc h != 4 && h.ctl.getLsbD 7

/-- The header with which a request stands that the NI answers itself (R66): the endpoint's fields, and those that the
source NI owns (R44) as the map of its first line gives them, `canon` where that line is canonical. DEDUCED: OSEQ is
zero, since the request was never injected (R134). -/
def ownHead (n : Slot) (op : BitVec 6) (f : Flit) (m : Option LineMap) (canon : Option GroupId) : Flit :=
  let h := normHead n f
  let c := setField h.ctl 120 8 ((m.map (·.dest)).getD (fDest h))
  let c := setField c 109 3 (if asksG op h then 4 else 0)
  let c := setField c 21 10 0
  let c := setField c 13 8 (if canon.isSome then (fLepoch h).toNat else 0)
  let c := setField c 8 5 ((canon.map (·.val)).getD 0)
  let c := setField c 6 2 (if asksB h then 3 else 0)
  withCtl h (setField c 0 3 ((m.map (·.entry)).getD 0))

/-! ### The spray map (R119–R125) -/

def sprayEntry (s : State) (n : Slot) (e : Nat) : Word := BitVec.ofNat 64 (cfgN s n itSprayEntry e)

/-- The lowest-numbered valid entry whose range contains a line; 0 where none does (R119, R120). -/
def sprayFind (s : State) (n : Slot) (line : Nat) : Nat :=
  ((List.range 8).drop 1).find? (fun e =>
    let w := sprayEntry s n e
    let gib := line / 2 ^ 24
    w.getLsbD 63 && decide (field w 22 22 ≤ gib) && decide (gib ≤ field w 0 22)) |>.getD 0

/-- The fold of R122. -/
def hashFold (k : Nat) : Nat → Nat → Nat → Nat
  | 0, _, idx => idx
  | fuel + 1, rest, idx => if rest = 0 then idx else hashFold k fuel (rest / 2 ^ k) (idx ^^^ (rest % 2 ^ k))

/-- R122: the chunk and the target of a line in an entry. -/
def sprayPlace (s : State) (n : Slot) (w : Word) (line : Nat) : Nat × Nat :=
  let k := min (field w 55 3) 6
  let g := min (field w 58 4) 8 + 8
  let chunk := (line * 64 - field w 22 22 * 2 ^ 30) / 2 ^ g
  let idx := chunk % 2 ^ k
  let idx := if w.getLsbD 62 && decide (0 < k) then hashFold k 52 (chunk / 2 ^ k) idx else idx
  let at_ : Fin 128 := Fin.ofNat 128 (field w 48 7 + idx)
  (chunk, if wordBad s (.ni n) (.targetTable at_) then 255 else cfgN s n itTargetTable at_.val % 256)

/-- What the map makes of one line (R119, R123). An uncorrectable entry or target-table word names no slot (R437). -/
def mapLine (s : State) (n : Slot) (dest line : Nat) : LineMap :=
  let e := sprayFind s n line
  if e = 0 then { addr := line, entry := 0, dest := dest, chunk := 0 }
  else
    let (c, d) := sprayPlace s n (sprayEntry s n e) line
    { addr := line, entry := e, dest := if wordBad s (.ni n) (.sprayEntry (Fin.ofNat 8 e)) then 255 else d, chunk := c }

/-- Step 2 of R111 (R126): mail is direct-target, fences and closes are not mapped. -/
def planOf (s : State) (n : Slot) (op : BitVec 6) (pkt : Packet) : List LineMap :=
  let h := hd pkt
  if isFence op || op == opEpochClose then []
  else if op == opMsgMail then
    pkt.map (fun _ => { addr := fAddr h, entry := 0, dest := fDest h, chunk := 0 })
  else (List.range (reqLines op pkt)).map (fun i => mapLine s n (fDest h) ((fAddr h + i) % 2 ^ 46))

/-- R125: whether a line joins the packet whose last line is `a`. -/
def joins (a b : LineMap) : Bool :=
  decide (a.entry = b.entry) && decide (a.dest = b.dest) &&
  (decide (a.entry = 0) || (decide (a.chunk = b.chunk) && decide (a.addr / 64 = b.addr / 64)))

/-- R125: cut lines into packets of at most `lim`, in ascending order. `run` is the packet being built, reversed. -/
def cutLines {α : Type} (f : α → LineMap) (lim : Nat) : List α → List α → List (List α)
  | run, [] => if run.isEmpty then [] else [run.reverse]
  | run, x :: xs =>
    match run with
    | [] => cutLines f lim [x] xs
    | y :: _ =>
      if joins (f y) (f x) && decide (run.length < lim) then cutLines f lim (x :: run) xs
      else run.reverse :: cutLines f lim [x] xs

/-! ### Step 1 (R68) -/

def tagBusy (x : NI) (t : Nat) : Bool :=
  decide (384 ≤ t) || x.tags.any (fun e => decide (e.tag = t)) ||
  x.reqs.any (fun e => e.frees && decide (e.tag = t)) ||
  x.store.any (fun e => !isPosted e.op && !e.bad && decide (fTag (hd e.pkt) = t))

def step1Bad (x : NI) (op : BitVec 6) (pkt : Packet) : Bool :=
  let h := hd pkt
  !presentable op || !lenOk op (fLen h) ||
  (op == opRdSpray && decide (2 ^ 46 < fAddr h + reqLines op pkt)) ||
  (!isPosted op && tagBusy x (fTag h))

/-! ### Completing a request -/

/-- The ordering domain of an endpoint tag (R115). -/
def domainOf (t : Nat) : Option (Fin 3) := if t < 384 then some (Fin.ofNat 3 (t / 128)) else none

/-- Enter a request that owes a response, in its domain's order (R139). -/
def addReq (x : NI) (e : ReqEnt) : NI :=
  let x := { x with reqs := x.reqs ++ [e], nextReq := x.nextReq + 1 }
  match domainOf e.tag with
  | some d => { x with order := tupd x.order d (fun l => l ++ [e.num]) }
  | none => x

def noLine (c : Status) (w : Status) (src : Nat) : LineRes := { line := zeroLine, code := c, whole := w, src := src }

/-- A response that the NI forms itself (R66): per-line codes and a packet-wide condition. -/
def addLocal (x : NI) (op : BitVec 6) (h : Flit) (codes : List Status) (whole : Status) (aux : BitVec 16)
    (frees : Bool) : NI :=
  addReq x
    { num := x.nextReq, op := op, head := h, tag := fTag h, frees := frees,
      lines := codes.map (fun c => some (noLine c whole (fDest h))), whole := whole, aux := aux, done := 0,
      slot := false, data := isRead op || isAtomic op, discard := false }

/-- R68: the refusal of a malformed request. -/
def refuseMalformed (s : State) (n : Slot) (op : BitVec 6) (pkt : Packet) (tagOurs : Bool) : State :=
  let h := ownHead n op (hd pkt) none none
  let s := countN s n 0x15
  let s := repNi s n .malformed (op.toNat * 2 ^ 16 + fTag h)
  if isPosted op then errRec (updN s n (fun x => { x with refused := x.refused + 1 })) n 0 .poison op
  else
    let lines := if presentable op then max 1 (reqLines op pkt) else 1
    let rop := if presentable op then op else 0x00
    updN s n (fun x => { addLocal x rop h (List.replicate lines .poison) .poison 0xFFFF tagOurs with
      refused := x.refused + 1 })

/-! ### Step 3 -/

/-- What step 3 makes of one line: its position in the request, its mapping, and the three checks in their order
(R123, R297). -/
structure LineChk where
  pos : Nat
  m : LineMap
  gate : GAns
  spray : Bool
  curd : CurdOut
deriving DecidableEq, Repr

def lcCode (c : LineChk) : Status :=
  if c.gate.code != .ok then c.gate.code
  else if c.spray then .gateFault
  else match c.curd with
    | .refuse _ _ _ => .gateFault
    | _ => .ok

def lcOk (c : LineChk) : Bool := lcCode c == .ok

def checkLine (s : State) (n : Slot) (op : BitVec 6) (fetch : Bool) (h : Flit) (pos : Nat) (m : LineMap) : LineChk :=
  let kind := gateKind op fetch
  let gate := if kind = .mail then gateMail s n true h m.dest else gateLine s n true h m.dest kind m.addr
  { pos := pos, m := m, gate := gate, spray := decide (192 ≤ m.dest),
    curd := curdSource s n op (fOrd h) (fLepoch h).toNat m.addr }

/-- Log what step 3 refused, once, when the request leaves the store (R123, R182, R309). -/
def logStep3 (s : State) (n : Slot) (op : BitVec 6) (fetch : Bool) (h : Flit) (pieces : List (List LineChk)) :
    State :=
  pieces.foldl (fun s p =>
    let s := gateRecord s n true h ((p.head?.map (fun c => c.m.dest)).getD 0) (gateKind op fetch)
      (p.zipIdx.map (fun (c, i) => (i, c.m.addr, c.gate)))
    p.foldl (fun s c =>
      if c.gate.code != .ok then s
      else if c.spray then repNi (countN s n 0x14) n .sprayBad c.m.entry c.m.addr
      else match c.curd with
        | .refuse ev g l => repCurd s n ev g n.val l
        | _ => s) s) s

/-! ### Doorbells (R315–R317) -/

/-- The home lines of window `w`, as the NI holds them (R312, R315). -/
def isHomeLine (x : NI) (w line : Nat) : Bool :=
  let m := tget x.homes (Fin.ofNat 16 w)
  (decide (line < 8) && m.getLsbD line) || (decide (8 ≤ line) && decide (line ≤ 13) && m.getLsbD 8)

/-- The window and line that a line address is in, the lower-numbered window first (R517). -/
def windowOf (x : NI) (line : Nat) : Option (Nat × Nat) :=
  (List.finRange 16).findSome? (fun w =>
    let v := tget x.windows w
    if v.getLsbD 63 && decide (field v 12 40 = line / 64) then some (w.val, line % 64) else none)

/-- R317: the DB_FWD of a home line. -/
def dbFwdPkt (n : Slot) (w line : Nat) (v : BitVec 32) : Packet :=
  [mkFlit (mkCtl 188 n.val 6 opDbFwd) [BitVec.ofNat 64 (w + line * 16 + v.toNat * 2 ^ 32)]]

/-- What the lines of a write ring: the DB_FWD packets, and the number of partial home lines (R316). -/
def doorbells (s : State) (n : Slot) (op : BitVec 6) (pkt : Packet) (cs : List LineChk) : List Packet × Nat :=
  if !isWrite op || n.val == 188 then ([], 0)
  else
    let ls := writeLines op pkt
    cs.foldl (fun acc c =>
      match (if lcOk c then windowOf (nif s n) c.m.addr else none), ls[c.pos]? with
      | some (w, line), some (l, mask) =>
        if isHomeLine (nif s n) w line then
          if field mask 0 4 = 15 then (acc.1 ++ [dbFwdPkt n w line (l.data.extractLsb' 0 32)], acc.2)
          else (acc.1, acc.2 + 1)
        else acc
      | _, _ => acc) ([], 0)

/-! ### Pieces (R125, R132, R294) -/

def putWord (f : Flit) (i : Nat) (w : Word) (c : BitVec 8) : Flit :=
  { f with dat := setField f.dat (64 * i) 64 w.toNat, chk := setField f.chk (8 * i) 8 c.toNat }

/-- The groups and logical epochs of the canonical lines that are not refused (R182). -/
def canonOf (cs : List LineChk) : List (GroupId × Nat) :=
  ((cs.filter lcOk).filterMap (fun c => match c.curd with
    | .tagged g l => some (g, l)
    | _ => none)).dedup

/-- The packet of one piece: VC, COLOUR, page hint, its lines and their outcomes. TAG and OSEQ are set at
injection. A read carries its count of lines in word 0 alone (R57). -/
def piecePkt (op : BitVec 6) (pkt : Packet) (h : Flit) (vc : Nat) (colour : BitVec 2) (page : BitVec 2)
    (cs : List LineChk) : Packet :=
  match cs with
  | [] => []
  | c0 :: _ =>
    let canon := (canonOf cs).head?
    let base := match isRead op, cs.find? lcOk with
      | true, some c => c
      | _, _ => c0
    let ctl := h.ctl
    let ctl := setField ctl 120 8 c0.m.dest
    let ctl := setField ctl 109 3 vc
    let ctl := setField ctl 34 46 base.m.addr
    let ctl := setField ctl 32 2 page.toNat
    let ctl := setField ctl 21 10 0
    let ctl := setField ctl 13 8 (if canon.isSome then (fLepoch h).toNat else 0)
    let ctl := setField ctl 8 5 ((canon.map (fun q => q.1.val)).getD 0)
    let ctl := setField ctl 6 2 colour.toNat
    let ctl := setField ctl 0 3 c0.m.entry
    if isRead op then
      let f := withCtl { h with ctl := ctl } (setField ctl 92 2 0)
      let w := BitVec.ofNat 64 ((cs.filter lcOk).length - 1)
      [putWord f 0 w (secded w)]
    else if isFull op || op == opMsgMail then
      mkPacket ctl (cs.map (fun c => if lcOk c then lineOf (pkt.getD c.pos zeroFlit) else zeroLine))
    else if isPart op then
      let mask := cs.zipIdx.foldl (fun (f : Flit) (c, i) =>
          if lcOk c then putWord f i (word (hd pkt) c.pos) (chkByte (hd pkt) c.pos) else f)
        { zeroFlit with ctl := ctl }
      mkPacket ctl ({ data := mask.dat, chk := mask.chk, poison := false } ::
        cs.map (fun c => if lcOk c then lineOf (pkt.getD (c.pos + 1) zeroFlit) else zeroLine))
    else [withCtl h ctl]

/-- The flits of a piece that came with a control parity error (R71). -/
def pieceParity (op : BitVec 6) (parity : List Nat) (cs : List LineChk) : List Nat :=
  let k := if isPart op then 1 else 0
  (cs.zipIdx.filter (fun (c, _) => lcOk c && parity.contains (c.pos + k))).map (fun (_, i) => i + k)

/-- R132: the page hint of a piece: 0b01 for 0b10 on every piece but the last to its DEST. -/
def pageOf (h : Flit) (dest : Nat) (later : List (List LineChk)) : BitVec 2 :=
  if fPage h = 2 && later.any (fun p => p.any (fun c => lcOk c && decide (c.m.dest = dest))) then 1 else fPage h

/-- The pieces of an accepted request, in address order; a piece all of whose lines are refused is not sent. -/
def mkPieces (s : State) (n : Slot) (op : BitVec 6) (pkt : Packet) (parity : List Nat) (h : Flit) (vc : Nat)
    (colour : BitVec 2) (req : Nat) (split : Bool) : Nat → List (List LineChk) → List Piece
  | _, [] => []
  | pid, p :: rest =>
    if p.any lcOk then
      { pid := pid, req := req,
        pkt := piecePkt op pkt h vc colour (pageOf h ((p.head?.map (·.m.dest)).getD 0) rest) p,
        base := (p.head?.map (·.pos)).getD 0, nlines := p.length, codes := p.map lcCode, posted := isPosted op,
        split := split, doorbells := (doorbells s n op pkt p).1,
        canon := canonOf p, parity := pieceParity op parity p, own := false } ::
          mkPieces s n op pkt parity h vc colour req split (pid + 1) rest
    else mkPieces s n op pkt parity h vc colour req split pid rest

/-! ### Fences and closes -/

/-- R161: whether a packet belongs to a fence's wait set. -/
def fenceTakes (op : BitVec 6) (dest : Nat) (f : Flit) : Bool :=
  (if op == opFnStoreT || op == opFnStoreG then isStore (fOp f) else true) &&
  (if op == opFnStoreT || op == opFnFullT then decide (fDest f = dest) else true)

/-- Packets accepted and not complete in the sense of R162: waiting for injection, or outstanding, not quarantined
and not staged. -/
def openPkts (x : NI) : List (Nat × Flit × List (GroupId × Nat)) :=
  x.inj.map (fun p => (p.pid, hd p.pkt, p.canon)) ++
  (x.tags.filter (fun t => !t.quarantined && !t.staged && !t.own)).map (fun t => (t.pid, t.head, t.canon))

/-- The wait set of a fence (R161). DESIGN CHOICE: a global fence whose DEST names no slot waits for all targets, as the
table says; the empty wait set of the rule's last sentence is taken for the target-scoped fences alone. -/
def fenceSet (x : NI) (op : BitVec 6) (dest : Nat) : List Nat :=
  if 192 ≤ dest && (op == opFnStoreT || op == opFnFullT) then []
  else ((openPkts x).filter (fun p => fenceTakes op dest p.2.1)).map (·.1)

/-- What a close waits for (R188). -/
def closeSet (x : NI) (g : GroupId) (l : Nat) : List Nat :=
  ((openPkts x).filter (fun p => p.2.2.any (fun c => decide (c.1 = g) && lepLe c.2 l))).map (·.1)

/-- A close is held at step 5, and the store behind it (R188). -/
def closeHeld (x : NI) : Bool := x.groups.toList.any (fun q => q.close.isSome)

/-! ### The five steps (R111) -/

/-- What processing makes of the request at its turn. `wait` holds the requests behind it. -/
inductive Turn where
  | done (s : State) | wait (s : State) | hold (s : State)
  /-- held for the drain of DROWSE, and passed by other requests (R398) -/
  | pass (s : State)

/-- Response-owing entry of a request being accepted. -/
def newReq (x : NI) (op : BitVec 6) (h : Flit) (lines : List (Option LineRes)) (slot : Bool) : ReqEnt :=
  { num := x.nextReq, op := op, head := h, tag := fTag h, frees := true, lines := lines, whole := .ok, aux := 0,
    done := 0, slot := slot, data := isRead op || isAtomic op, discard := false }

/-- A fence at its turn (R161, R164). `first`: nothing presented before it is left in the store. -/
def turnFence (s : State) (n : Slot) (e : PendReq) (first : Bool) : Turn :=
  let x := nif s n
  let h := ownHead n e.op (hd e.pkt) none none
  if !first || x.holdAll || decide (16 ≤ x.fences.length) then .wait s
  else
    .done (updN (countN s n 0x03) n (fun x =>
      { addReq x (newReq x e.op h [none] false) with
        fences := x.fences ++ [{ req := x.nextReq, op := e.op, dest := fDest h,
                                 wait := fenceSet x e.op (fDest h) }] }))

/-- An EPOCH_CLOSE at its turn (R188, R528). -/
def turnClose (s : State) (n : Slot) (e : PendReq) (first : Bool) : Turn :=
  let x := nif s n
  let h := ownHead n e.op (hd e.pkt) none none
  let w := word h 0
  let g : GroupId := Fin.ofNat 32 (field w 0 5)
  let q := tget x.groups g
  let l := lepFull q.k (field w 8 8)
  if q.state == .failed && q.member then
    .done (refuseMalformed (repCurd s n .curdFailed g n.val l) n e.op e.pkt true)
  else if !q.member || q.state != .active || l != lepAdd q.k 1 then
    .done (refuseMalformed (repCurd s n .curdCloseOrder g n.val l) n e.op e.pkt true)
  else if !first || x.holdAll then .wait s
  else
    .done (updN (countN s n 0x03) n (fun x =>
      { addReq x (newReq x e.op h [none] false) with
        groups := tupd x.groups g (fun q => { q with
          close := some { req := x.nextReq, lep := l, wait := closeSet x g l,
                          inexact := q.inexact.any (fun i => lepLe i l) } }) }))

/-- R398: an ordered request stands behind a held ordered posted write to one of its targets. -/
def behindHeld (x : NI) (i : Nat) (h : Flit) (cs : List LineChk) : Bool :=
  fOrd h && (x.store.take i).any (fun e =>
    isPosted e.op && fOrd (hd e.pkt) && e.plan.any (fun m => cs.any (fun c => decide (c.m.dest = m.dest))))

/-- Step 5: what a request waits for (R111, R112, R118, R129, R183, R317, R352, R403): the holds of RETAIN entry, a Curd
window, one of 32 spray slots, one of 32 posted-write entries, doorbell room, and lane room for its `tallies`. -/
def step5Waits (s : State) (n : Slot) (op : BitVec 6) (pkt : Packet) (cs : List LineChk)
    (pieces : List (List LineChk)) (tallies : Nat) : Bool :=
  let x := nif s n
  let slot := (decide (1 < pieces.length) || op == opRdSpray) && !isPosted op
  let live := pieces.filter (fun p => p.any lcOk)
  let dbHeld := x.dbQ.length + (x.inj.foldl (fun a p => a + p.doorbells.length) 0)
  x.holdAll || cs.any (fun c => lcOk c && curdWaits s n op c.curd) ||
    (slot && decide (32 ≤ (x.reqs.filter (·.slot)).length)) ||
    (isPosted op && decide (32 < (x.inj.filter (·.posted)).length + live.length)) ||
    decide (4 < dbHeld + (doorbells s n op pkt cs).1.length) || !laneRoom s n false tallies

/-- Step 3 ended a request or its meter refused it: its endpoint learns that, by a response of these per-line codes or on
the error sideband (R66, R112). -/
def endRefused (s : State) (n : Slot) (op : BitVec 6) (h : Flit) (codes : List Status) (whole : Status) : State :=
  let s := updN s n (fun x => { x with refused := x.refused + 1 })
  if isPosted op then
    let st := stWorse whole (worst codes)
    errRec (if n = herdSlot then memAnswer s (fTag h) st (BitVec.ofNat 16 (lstatBits codes)) else s) n 0 st op
  else
    let lines := if whole == .ok then codes else codes.map (fun c => if c == .ok then .poison else c)
    updN s n (fun x => addLocal x op h lines whole 0 true)

/-- What the meter makes of a request at step 4 (R221): a verdict it has given before stands, but for red under HOLD,
and only requests of class A or B at a host link are metered. -/
def stepFour (s : State) (n : Slot) (op : BitVec 6) (h : Flit) (verdict : Metered) (lines : Nat) : MeterOut × State :=
  match verdict with
  | .colour c => (.go c, s)
  | .refused => (.refuse, s)
  | _ =>
    if isHostLink n.val && !asksG op h then
      meterReq s n (Fin.ofNat 4096 (fTenant h)) (asksB h) (meterCharge op lines)
    else (.go (if asksG op h then 0 else colourOf (asksB h) none), s)

/-- Note what the meter has made of the request at a position of the store. -/
def noteMeter (s : State) (n : Slot) (i : Nat) (m : Metered) : State :=
  updN s n (fun x => { x with store := x.store.modify i (fun e => { e with metered := m }) })

/-- Steps 3 to 5 for a request that names lines. -/
def turnLines (s : State) (n : Slot) (i : Nat) (e : PendReq) : Turn :=
  let s := gateEccLog s n
  let h := normHead n (hd e.pkt)
  let op := e.op
  let cs := (e.plan.zipIdx).map (fun (m, p) => checkLine s n op e.fetch h p m)
  let pieces := cutLines (fun c : LineChk => c.m) (if isPart op then 3 else 4) [] cs
  let total := cs.length
  let bad := (cs.filter (fun c => !lcOk c)).length
  let codes := cs.map lcCode
  let own := ownHead n op (hd e.pkt) e.plan.head? ((canonOf (cs.take 1)).head?.map (·.1))
  let finish (s : State) : State := logStep3 s n op e.fetch h pieces
  if bad = total then
    -- step 3: every line refused (R66, R112)
    if !laneRoom s n false 1 then .wait s
    else .done (endRefused (putTally (finish s) n false [mkTally (fTenant h) 7 total]) n op own codes .ok)
  else
    -- step 4
    match stepFour s n op h e.metered total with
    | (.hold, s) => .hold s
    | (.refuse, s) =>
      let words := tallyPair (fTenant h) 6 (total - bad) bad
      if !laneRoom s n false words.length then .wait (noteMeter s n i .refused)
      else .done (endRefused (countN (putTally (finish s) n false words) n 0x10) n op own codes .rateRefused)
    | (.go colour, s) =>
      -- the colour and the tokens taken for it stand until acceptance (R221)
      let s := noteMeter s n i (.colour colour)
      let x := nif s n
      let split := decide (1 < pieces.length) || op == opRdSpray
      let vc := if asksG op h then 4 else 0
      let slot := split && !isPosted op
      let words := tallyPair (fTenant h) (kindOf (clsOf vc colour) false) (total - bad) bad
      if x.holdPosted && !x.holdAll && (isPosted op || behindHeld x i h cs) then .pass s
      else if step5Waits s n op e.pkt cs pieces words.length then
        .wait (countN s n 0x05)
      else
        let s := putTally (finish s) n false words
        let s := countN s n 0x03
        let s := countN s n 0x0E none none (doorbells s n op e.pkt cs).2
        let x := nif s n
        let ps := mkPieces s n op e.pkt e.parity h vc colour x.nextReq split x.nextPid pieces
        let lines := cs.map (fun c => if lcOk c then none else some (noLine (lcCode c) .ok c.m.dest))
        let s := if n = herdSlot && isPosted op then memAccepted s (fTag h) x.nextReq ps.length codes else s
        .done (updN s n (fun x =>
          let x := { x with inj := x.inj ++ ps, nextPid := x.nextPid + ps.length }
          if isPosted op then { x with nextReq := x.nextReq + 1 }
          else addReq x (newReq x op own lines slot)))

/-- One request of the store at its turn. -/
def turnOf (s : State) (n : Slot) (i : Nat) (e : PendReq) : Turn :=
  if e.bad then .done (refuseMalformed s n e.op e.pkt false)
  else if isFence e.op then turnFence s n e (i == 0)
  else if e.op == opEpochClose then turnClose s n e (i == 0)
  else turnLines s n i e

/-- A request in the hold store (R226). -/
def PendReq.inHold (e : PendReq) : Bool := e.metered == .held

/-- R226: an earlier request of the same flow is held. -/
def flowHeld (x : NI) (i : Nat) (tenant : Nat) : Bool :=
  (x.store.take i).any (fun e => e.inHold && decide (fTenant (hd e.pkt) = tenant))

/-- R111 over the request store from position `i`: in order, stopping where a request waits, passing held flows. A red
HOLD request that finds the hold store full stops it, unmetered, until a held request leaves (R226). -/
def processFrom : Nat → State → Slot → Nat → State
  | 0, s, _, _ => s
  | fuel + 1, s, n, i =>
    let x := nif s n
    let full := decide (16 ≤ (x.store.filter PendReq.inHold).length)
    if closeHeld x then s
    else
      match x.store[i]? with
      | none => s
      | some e =>
        if e.metered == .blocked then
          (if full then s else processFrom fuel (noteMeter s n i .held) n (i + 1))
        else if !e.inHold && flowHeld x i (fTenant (hd e.pkt)) then processFrom fuel s n (i + 1)
        else
          match turnOf s n i e with
          | .wait s => s
          | .pass s => processFrom fuel s n (i + 1)
          | .done s =>
            processFrom fuel (updN s n (fun x => { x with store := x.store.eraseIdx i })) n i
          | .hold s =>
            if e.inHold then processFrom fuel s n (i + 1)
            else if full then noteMeter s n i .blocked
            else processFrom fuel (noteMeter s n i .held) n (i + 1)

/-- Process the request store once. -/
def processOnce (s : State) (n : Slot) : State := processFrom (2 * (nif s n).store.length + 2) s n 0

/-! ### The request FIFO and store (R109, R110) -/

/-- Flits of accepted pieces that the store still holds: each flit that came from the endpoint once, whatever the pieces
that were formed from it. `last` is the request of the piece before. -/
def pieceFlits : Option Nat → List Piece → Nat
  | _, [] => 0
  | last, p :: rest =>
    let op := fOp (hd p.pkt)
    -- a read's one flit, and a partial write's mask flit, count with the first piece
    let shared := if isRead op || isPart op then 1 else 0
    (if p.own then 0 else p.pkt.length - (if last = some p.req then shared else 0)) + pieceFlits (some p.req) rest

/-- Flits of requests in the request store: requests, a partial packet, accepted pieces not yet injected. -/
def storeFlits (x : NI) : Nat :=
  x.store.foldl (fun a e => a + e.pkt.length) 0 + pieceFlits none x.inj +
  (match x.partialReq with
   | some e => e.pkt.length
   | none => 0)

/-- Flits of answers that wait to be injected. -/
def answerFlits (x : NI) : Nat :=
  x.rspQ.foldl (fun a p => a + p.2.length) 0 + x.spillAcks.foldl (fun a p => a + p.2.length) 0

/-- R110, R486: the store of 128 flits has room for flits of a request, 16 of it being reserved for answers. -/
def storeRoom (x : NI) (flits : Nat) : Bool := decide (storeFlits x + max 16 (answerFlits x) + flits ≤ 128)

def fifoFlits (x : NI) : Nat := x.reqFifo.foldl (fun a c => a + c.flits.length) 0

/-- R142: abandon the partial packet. -/
def abandon (s : State) (n : Slot) : State :=
  match (nif s n).partialReq with
  | none => s
  | some e =>
    let h := ownHead n e.op (hd e.pkt) none none
    let s := countN s n 0x12
    let s := repNi s n .abandon (e.op.toNat * 2 ^ 16 + e.pkt.length * 2 ^ 12 + fTag h)
    let s := updN s n (fun x => { x with
      partialReq := none, partialTicks := 0, remainder := fLen h + 1 - e.pkt.length, remainderOp := e.op })
    if isPosted e.op then errRec s n 1 .abandoned e.op
    else
      let lines := if presentable e.op then max 1 (if isRead e.op then reqLines e.op e.pkt
        else if isPart e.op then fLen h else if isFull e.op || e.op == opMsgMail then fLen h + 1 else 1) else 1
      updN s n (fun x => addLocal x (if presentable e.op then e.op else 0) h (List.replicate lines .poison)
        .abandoned 0 e.tagFree)

/-- R42 where the NI itself uses an operand word of a presented request, a read's count or a close's word: the word
corrected, or its flit poisoned. -/
def checkOperand (s : State) (n : Slot) (op : BitVec 6) (pkt : Packet) : State × Packet :=
  match pkt with
  | [] => (s, pkt)
  | h :: rest =>
    let w := if op == opRdSpray then 1 else 0
    if isRead op || op == opEpochClose then
      match eccDecode (word h w) (chkByte h w) with
      | .clean => (s, pkt)
      | .corrected v c =>
        (countNFix (updN s n (fun x => { x with corrected := x.corrected + 1 })) n 5 1, putWord h w v c :: rest)
      | .bad =>
        (repNi (countN s n 0x06) n .dataUncorrectable (w * 2 ^ 16 + fTag h), setPoison h true :: rest)
    else (s, pkt)

/-- A whole request enters the store; a packet that lacks flits stays partial (R110, R142). `tagFree` and `parity` as
its flits so far give them. -/
def enterStore (s : State) (n : Slot) (op : BitVec 6) (fetch : Bool) (pkt : Packet) (tagFree : Bool)
    (parity : List Nat) : State :=
  let x := nif s n
  let need := fLen (hd pkt) + 1
  let e : PendReq :=
    { op := op, fetch := fetch, pkt := pkt, metered := .no, parity := parity, tagFree := tagFree, bad := false,
      plan := [] }
  if pkt.length < need then updN s n (fun x => { x with partialReq := some e, partialTicks := 0 })
  else
    let (s, pkt) := checkOperand s n op (pkt.take need)
    let bad := step1Bad x op pkt
    let e := { e with pkt := pkt, bad := bad, plan := planOf s n op pkt }
    -- R208: a request that asks for class G and may not have it
    let s := if !bad && fVc (hd pkt) = 4 && !gAllowed op then countN s n 0x0D else s
    updN s n (fun x => { x with store := x.store ++ [e], partialReq := none })

/-- Body flit `i` of a packet of `len` more flits fails its control parity, or its INDEX or TAIL its count (R50, R70). -/
def bodyBad (len i : Nat) (f : Flit) : Bool :=
  badGroups f != 0 || fIndex f != i || fTail f != decide (i = len)

/-- The control parity check of a packet's flits from position `i` on: a body flit that fails it, and every later flit,
is poisoned (R70). `bad` holds the positions that have failed so far. -/
def parityPoison (len : Nat) : Nat → List Flit → List Nat → List Flit × List Nat
  | _, [], bad => ([], bad)
  | i, f :: rest, bad =>
    let bad := if decide (0 < i) && decide (i ≤ len) && bodyBad len i f then bad ++ [i] else bad
    let r := parityPoison len (i + 1) rest bad
    ((if bad.isEmpty then f else setPoison f true) :: r.1, r.2)

/-- R69 and R70 at the local port: CTRL_PARITY names the NI's router, the local port and the VC of the packet. -/
def logLocalParity (s : State) (n : Slot) (f : Flit) : State :=
  repRouter s (routerOf n) .ctrlParity ((localPort n).val * 2 ^ 16 + fVc f)
def logLocalParities (s : State) (n : Slot) (h : Flit) (bad : List Nat) : State :=
  bad.foldl (fun s _ => logLocalParity s n h) s

/-- The NI draws body flits out of its request FIFO: the rest of a discarded request (R69), of an abandoned packet
(R143), or of the partial packet. -/
def drawBody (s : State) (n : Slot) (flits : Packet) : State :=
  let x := nif s n
  if 0 < x.reqDrop then
    let ended := x.reqDropTail && flits.any fTail
    updN s n (fun x => { x with reqDrop := if ended then 0 else x.reqDrop - flits.length })
  else if 0 < x.remainder then
    (flits.take x.remainder).foldl (fun s _ =>
      errRec (updN s n (fun x => { x with remainder := x.remainder - 1 })) n 2 .abandoned x.remainderOp) s
  else match x.partialReq with
    | none => s
    | some e =>
      let len := fLen (hd e.pkt)
      let (fs, bad) := parityPoison len e.pkt.length flits e.parity
      enterStore (logLocalParities s n (hd e.pkt) (bad.drop e.parity.length)) n e.op e.fetch (e.pkt ++ fs) e.tagFree bad

/-- The NI draws a head, and the body flits with it, out of its request FIFO. A head that finds a partial packet abandons
it (R483); a head ends a remainder discard (R143); a head that fails its control parity is discarded with its packet
(R69: up to its LEN, or, where group 5 fails, up to a TAIL or four flits). -/
def drawHead (s : State) (n : Slot) (op : BitVec 6) (fetch : Bool) (pkt : Packet) : State :=
  let h := hd pkt
  let s := abandon s n
  let s := updN s n (fun x => { x with remainder := 0, shortfall := x.shortfall + x.remainder })
  if badGroups h != 0 then
    let unknown := (badGroups h).getLsbD 5
    let left := (if unknown then 4 else fLen h + 1) - pkt.length
    logLocalParity (updN s n (fun x => { x with
      reqDrop := if unknown && (pkt.drop 1).any fTail then 0 else left, reqDropTail := unknown })) n h
  else
    let (fs, bad) := parityPoison (fLen h) 0 pkt []
    let s := updN s n (fun x => { x with reqDrop := 0 })
    enterStore (logLocalParities s n h bad) n op fetch fs (!tagBusy (nif s n) (fTag h)) bad

/-- The packet drawn last still lacks flits. -/
def drawsBody (x : NI) : Bool := x.partialReq.isSome || decide (0 < x.remainder) || decide (0 < x.reqDrop)

def drawFlits (s : State) (n : Slot) (c : FifoFlits) : State :=
  if c.flits.all (fun f => !isHead f) && (c.op != opBody || drawsBody (nif s n)) then drawBody s n c.flits
  else drawHead s n c.op c.fetch c.flits

/-- Draw flits while the store has room for them, processing the store after each (R109, R110). -/
def drawFifo : Nat → State → Slot → State
  | 0, s, _ => s
  | fuel + 1, s, n =>
    let x := nif s n
    match x.reqFifo with
    | [] => s
    | c :: rest =>
      if storeRoom x c.flits.length then
        drawFifo fuel (processOnce (drawFlits (updN s n (fun x => { x with reqFifo := rest })) n c) n) n
      else s

/-- The lowest endpoint tag that no access of the Herdsman uses. -/
def herdTag (s : State) : Option Nat :=
  (List.range 384).find? (fun t => !tagBusy (nif s herdSlot) t && !s.herd.memBusy.any (fun b => b.tag == t))

/-- NI 188 takes the accesses that the Herdsman has for it, in order (R30), while its request FIFO has room. -/
def feedHerd : Nat → State → State
  | 0, s => s
  | fuel + 1, s =>
    match s.herd.memOut, herdTag s with
    | a :: rest, some t =>
      let x := nif s herdSlot
      if x.closed || !niRuns s herdSlot || decide (16 < fifoFlits x + a.pkt.length) || a.after.any (useOpen s) then s
      else
        let s := updHerd s (fun h => { h with memOut := rest, memBusy := h.memBusy ++ [memTaken a t] })
        let s := updN s herdSlot (fun x => { x with
          reqFifo := x.reqFifo ++ [{ op := fOp (hd a.pkt), fetch := false, flits := setTag t a.pkt }] })
        feedHerd fuel (drawFifo (nif s herdSlot).reqFifo.length s herdSlot)
    | _, _ => s

/-- NI 190 takes the requests that the Can has for it (R364), in the same way. -/
def feedCan : Nat → State → State
  | 0, s => s
  | fuel + 1, s =>
    match s.can.memOut, (List.range 384).find? (fun t => !tagBusy (nif s canSlot) t) with
    | p :: rest, some t =>
      if !canDelivers s || decide (16 < fifoFlits (nif s canSlot) + p.length) then s
      else
        let op := fOp (hd p)
        let s := updCan s (fun c => { c with memOut := rest, tag := if isPosted op then c.tag else some t })
        let s := updN s canSlot (fun x => { x with
          reqFifo := x.reqFifo ++ [{ op := op, fetch := false, flits := setTag t p }] })
        feedCan fuel (drawFifo (nif s canSlot).reqFifo.length s canSlot)
    | _, _ => s

/-- Process the request store, and take in what waits in the request FIFO; at NIs 188 and 190, what the Herdsman and
the Can have for them too. A closed NI accepts nothing (R457, R466). -/
def processStore (s : State) (n : Slot) : State :=
  if (nif s n).closed then s
  else
    let s := processOnce s n
    let s := drawFifo (nif s n).reqFifo.length s n
    if n = herdSlot then feedHerd s.herd.memOut.length s
    else if n = canSlot then feedCan s.can.memOut.length s
    else s

/-! ### What the endpoint presents -/

/-- An endpoint's request channel takes flits (R109, R481, R488, R457): not in reset, not closed, request-ready high,
room for them in the request FIFO of 16 flits. -/
def takesRequest (s : State) (n : Slot) (flits : Nat) : Bool :=
  let x := nif s n
  niRuns s n && !ownPort n && !x.reset && !x.closed && x.reqReady && !x.readyHold && decide (fifoFlits x + flits ≤ 16)

/-- The opcode of the packet presented last, while its flits may still be to come. -/
def openOp (x : NI) : Option (BitVec 6) :=
  match x.reqFifo.getLast? with
  | some c => some c.op
  | none => x.partialReq.map (·.op)

/-- An endpoint presents flits of a request: a head with its body flits, or body flits. They pass through the request
FIFO; the NI draws them as soon as its store has room (R109, R110). -/
def pushFlits (s : State) (n : Slot) (c : FifoFlits) : State :=
  let s := updN s n (fun x => { x with reqFifo := x.reqFifo ++ [c] })
  drawFifo (nif s n).reqFifo.length s n

/-- A row that presents a request acts on the opcode of its head; body flits are those of the row that began the packet,
and a packet whose opcode no endpoint presents is taken under any row (R68). -/
def present (s : State) (n : Slot) (op : BitVec 6) (fetch : Bool) (pkt : Packet) : State :=
  let x := nif s n
  if pkt.isEmpty || !takesRequest s n pkt.length then s
  else if pkt.all (fun f => !isHead f) then
    (if openOp x == some op || (openOp x).isNone && decide (0 < x.reqDrop) then
      pushFlits s n { op := op, fetch := fetch, flits := pkt }
     else s)
  else if badGroups (hd pkt) == 0 && fOp (hd pkt) != op then s
  else pushFlits s n { op := op, fetch := fetch, flits := pkt }

end Sys2Proof.Machine
end

