-- ==== Sys2Proof/Machine/Routers.lean ====
section
/-! DEFINITION. The routers (chapter 03, and of chapter 07 the slot tables, time gates and governor): arrival at an
input, the requests of a waiting flit, output arbitration, grants, lost grants and turn hints. -/

namespace Sys2Proof.Machine

/-! ### Phases and lookaheads -/

def phaseCode : RPhase → Nat
  | .mesh => 0 | .toHub => 1 | .postSpine => 2 | .detour => 3
def phaseOf (n : Nat) : RPhase :=
  match n % 4 with
  | 0 => .mesh
  | 1 => .toHub
  | 2 => .postSpine
  | _ => .detour

/-- The 14 wires of a lookahead, LA_V first (R74). -/
def laBits (la : Lookahead) : BitVec 14 :=
  let w : BitVec 14 := 0
  let w := setField w 13 1 la.valid.toNat
  let w := setField w 9 4 la.out.toNat
  let w := setField w 6 3 la.vc.toNat
  let w := setField w 4 2 la.len.toNat
  let w := setField w 3 1 la.body.toNat
  let w := setField w 1 2 la.phase.toNat
  setField w 0 1 la.par.toNat
def laOfBits (w : BitVec 14) : Lookahead :=
  { valid := w.getLsbD 13, out := bits w 9 4, vc := bits w 6 3, len := bits w 4 2, body := w.getLsbD 3,
    phase := bits w 1 2, par := w.getLsbD 0 }
/-- A lookahead with its parity (R74). -/
def mkLa (out vc len : Nat) (body : Bool) (ph : RPhase) : Lookahead :=
  let la : Lookahead :=
    { valid := true, out := BitVec.ofNat 4 out, vc := BitVec.ofNat 3 vc, len := BitVec.ofNat 2 len, body := body,
      phase := BitVec.ofNat 2 (phaseCode ph), par := false }
  { la with par := parity (laBits la) }

/-! ### Routes -/

/-- One request of a head: the output, the VC it will occupy there, the phase it leaves with, and on a spine output
the half (R81). -/
structure Want where
  port : PortId
  vc : VcId
  phase : RPhase
  half : Nat
deriving DecidableEq, Repr

/-- Where an output keeps a VC's owner: the VC, or at a spine output the spine VC (R81). -/
def outVcIx (r : RouterId) (w : Want) : BufVc :=
  if (portEnd r w.port).isSome then Fin.ofNat 16 (2 * w.vc.val + w.half) else Fin.ofNat 16 w.vc.val

def destRouter (f : Flit) : RouterId := routerOf (Fin.ofNat 192 (fDest f))
def destPort (f : Flit) : PortId := localPort (Fin.ofNat 192 (fDest f))

/-- R83, R88: the phase that a packet's first router gives it. -/
def firstPhase (s : State) (r : RouterId) (vc : Nat) (t : RouterId) : RPhase :=
  if quadOf r = quadOf t then .mesh
  else if vc = 0 ∨ vc = 2 then
    (if cfgR s r itSpineChoice 0 t.val = 1 then .toHub else .mesh)
  else .toHub

/-- The spine outputs that a packet at the hub `r` may take towards quadrant `q` with a SPINE_UP vector (R83, R89):
the direct link, or the first link of a detour, which an adaptive packet takes only with DETOUR_EN. DESIGN CHOICE: R89
gives phase DETOUR to the second hop and none to the first, UP hop of a detour; that hop carries DETOUR here too, by
which the intermediate hub knows the packet. -/
def hubStep (r : RouterId) (up : BitVec 6) (q : Nat) (detourOk : Bool) : Option (PortId × RPhase) :=
  match spineRoute up (quadOf r).val q with
  | some [l] => (spinePort (quadOf r) l).map (fun p => (p, .postSpine))
  | some (l :: _ :: _) => if detourOk then (spinePort (quadOf r) l).map (fun p => (p, .detour)) else none
  | _ => none

/-- The direct link only: the second hop of a detour (R89, R91). -/
def hubDirect (r : RouterId) (up : BitVec 6) (q : Nat) : Option PortId :=
  match linkBetween (quadOf r).val q with
  | some l => if up.getLsbD l then spinePort (quadOf r) l else none
  | none => none

def outOf (s : State) (r : RouterId) (p : PortId) : RouterOut := tget (rtr s r).outs p

/-- R84, R85: the adaptive choices of a packet of `n` flits towards a target router, best first: the outputs with room
for the whole packet come before the others. Down links are not chosen (R106). -/
def adaptiveChoices (s : State) (r t : RouterId) (vc : VcId) (ph : RPhase) (n : Nat) : List Want :=
  let free (p : PortId) : Nat := tget (outOf s r p).credit vc
  let hint (p : PortId) : Nat := (tget (outOf s r p).hint vc).toNat
  let ps := (expressChoices r t ++ meshChoices r t free hint).filter (fun p => !(outOf s r p).down)
  (ps.filter (fun p => decide (n ≤ free p)) ++ ps.filter (fun p => !decide (n ≤ free p))).map
    (fun p => { port := p, vc := vc, phase := ph, half := 0 })

/-- R86, R87: the escape request of a packet on VC 0–3. -/
def escapeWant (r : RouterId) (f : Flit) (vc : Nat) : List Want :=
  let ev : VcId := Fin.ofNat 8 (if vc % 2 = 0 then vc + 1 else vc)
  let t := destRouter f
  if r = t then [{ port := destPort f, vc := ev, phase := .mesh, half := 0 }]
  else match escapeStep r t with
    | some p => [{ port := p, vc := ev, phase := .mesh, half := 0 }]
    | none => []

/-- The phase at this router: a detour ends at the destination quadrant's hub (R89). -/
def arrivePhase (r t : RouterId) (ph : RPhase) : RPhase :=
  if ph = .detour ∧ quadOf r = quadOf t then .postSpine else ph

/-- Every output that the head flit of a packet of `n` flits may ask for at router `r` on VC `vc`: its adaptive choices,
best first, and its escape output (R83–R91). -/
def routes (s : State) (r : RouterId) (b : BufFlit) (vc n : Nat) : List Want × List Want :=
  let f := b.flit
  let t := destRouter f
  let v : VcId := Fin.ofNat 8 vc
  let ph := arrivePhase r t b.phase
  let up := (rtr s r).spineUp
  let local_ (p : RPhase) : List Want := [{ port := destPort f, vc := v, phase := p, half := 0 }]
  if vc = 1 ∨ vc = 3 then ([], escapeWant r f vc)
  else if vc = 0 ∨ vc = 2 then
    let esc := if b.esc || b.escOnly then escapeWant r f vc else []
    let mesh (p : RPhase) : List Want := if r = t then local_ p else adaptiveChoices s r t v p n
    let adaptive : List Want :=
      if b.escOnly then []
      else match ph with
        | .mesh => mesh .mesh
        | .postSpine => mesh .postSpine
        | .toHub =>
          if r = hubOf (quadOf r) then
            match hubStep r up (quadOf t).val (cfgR s r itDetourEn 0 (quadOf t).val == 1) with
            | some (p, p2) => [{ port := p, vc := v, phase := p2, half := 0 }]
            | none => mesh .mesh
          else adaptiveChoices s r (hubOf (quadOf r)) v .toHub n
        | .detour =>
          match hubDirect r up (quadOf t).val with
          | some p => [{ port := p, vc := v, phase := .detour, half := 1 }]
          | none => mesh .mesh
    (adaptive, esc)
  else
    (match ph with
    | .detour =>
      match hubDirect r up (quadOf t).val with
      | some p => [{ port := p, vc := v, phase := .detour, half := 1 }]
      | none => []
    | _ =>
      if r = t then local_ ph
      else if quadOf r = quadOf t then
        (match quadStep r t with
         | some p => [{ port := p, vc := v, phase := ph, half := 0 }]
         | none => [])
      else if r = hubOf (quadOf r) then
        (match hubStep r up (quadOf t).val true with
         | some (p, p2) => [{ port := p, vc := v, phase := p2, half := 0 }]
         | none => [])
      else match quadStep r (hubOf (quadOf r)) with
        | some p => [{ port := p, vc := v, phase := .toHub, half := 0 }]
        | none => [], [])

/-- The requests of a head flit of a packet of `n` flits, at most two at once (R85): its first and second choice, or its
adaptive choice and its escape output. -/
def wants (s : State) (r : RouterId) (b : BufFlit) (vc n : Nat) : List Want :=
  let c := routes s r b vc n
  if c.2.isEmpty then c.1.take 2 else c.1.take 1 ++ c.2

/-- The requests of the head at the front of a buffer: of the output that its lookahead named while that has not decided
(R77), then of those that it chooses itself. -/
def headWants (s : State) (r : RouterId) (b : BufFlit) (vc : Nat) : List Want :=
  let n := fLen b.flit + 1
  let named := match b.la with
    | some p => ((routes s r b vc n).1 ++ (routes s r b vc n).2).filter (fun (w : Want) => decide (w.port = p))
    | none => []
  if named.isEmpty then wants s r b vc n else named.take 1

/-- The output VC that the packet at the front of a buffer holds, at output `p`. -/
def ownerOf (o : RouterOut) (inP : PortId) (bvc : BufVc) : Option (BufVc × VcOwner) :=
  (List.finRange 16).findSome? (fun v => match tget o.owner v with
    | some w => if w.inPort = inP ∧ w.inVc = bvc then some (v, w) else none
    | none => none)

/-- The lookahead that goes before a flit to input `p` of router `r`, where it will stand in buffer `bvc` on VC `vc`: a
head's first request there, and for a body flit the output that its packet holds there, or will ask for (R74, R77). -/
def nextLa (s : State) (r : RouterId) (p : PortId) (bvc : BufVc) (f : Flit) (vc : Nat) (ph : RPhase) (len : Nat) :
    Lookahead :=
  let b : BufFlit := { flit := f, phase := ph, la := none, since := 0, esc := false, escOnly := false, pool := none }
  let held := if isHead f then none
    else (List.finRange 11).find? (fun o => (ownerOf (outOf s r o) p bvc).isSome)
  let out := (held.or ((wants s r b vc (len + 1)).head?.map (·.port))).getD 0
  mkLa out.val vc len (!isHead f) ph

/-! ### Arrival (R50, R69–R71, R74–R77) -/

/-- The agent upstream of an input. -/
def upstreamOf (r : RouterId) (p : PortId) : Option Upstream :=
  if p = 8 then some (.ni (slotAt r 0))
  else if p = 9 then some (.ni (slotAt r 1))
  else (neighbour r p).map (fun r' => .out r' (opposite p))

/-- Count the cycles since the last count in which an end's pool has been OFF (R279). -/
def accruePool (s : State) (e : LinkEnd) (now : Nat) : State :=
  let x := spn s e
  if x.poolOff then updE (countE s e 7 (now - x.poolSince)) e (fun x => { x with poolSince := now }) else s

/-- Send a flit credit back on the reverse sideband (R74, R78); from a spine input, free the record's cell or pool
units (R259, R261). -/
def freeCell (s : State) (r : RouterId) (p : PortId) (bvc : BufVc) (pool : Option Nat) (now : Nat) : State :=
  match portEnd r p with
  | some e =>
    let on := match pool with
      | some u => (spn s e).poolOff && decide ((if diagonal e then 2048 else 1024) ≤ (spn s e).poolFree + u)
      | none => false
    let s := if on then accruePool s e now else s
    updE s e (fun x => match pool with
      | some u => { x with
          poolFree := x.poolFree + u, poolOff := x.poolOff && !on, poolNote := x.poolNote || on }
      | none => { x with
          dedicated := tupd x.dedicated bvc (fun k => k - 1),
          freed := tupd x.freed bvc (· + 1),
          freedInc := tupd x.freedInc bvc (· + 1) })
  | none =>
    let v : VcId := Fin.ofNat 8 bvc.val
    match upstreamOf r p with
    | some (.out r' p') => updR s r' (fun x => updOut x p' (fun o => { o with returning := tupd o.returning v (· + 1) }))
    | some (.ni n) => updN s n (fun x => { x with returning := tupd x.returning v (· + 1) })
    | none => s

/-- Mesh VC of an input buffer. -/
def meshVc (r : RouterId) (p : PortId) (bvc : BufVc) : Nat :=
  if (portEnd r p).isSome then bvc.val / 2 else bvc.val % 8

/-- R69: log a control parity error at a router input. -/
def logParity (s : State) (r : RouterId) (p : PortId) (vc : Nat) : State :=
  repRouter (countR s r 0x0C (some p) none none) r .ctrlParity (p.val * 2 ^ 16 + vc)

/-- Put a flit into its buffer, and start to consume the rest of its packet where R69 or R70 says so. -/
def acceptFlit (s : State) (r : RouterId) (p : PortId) (bvc : BufVc) (now : Nat) (w : WireFlit) (laOk : Bool) :
    State :=
  let i := tget (rtr s r).ins p
  let vc := meshVc r p bvc
  let f := w.flit
  let putIn (s : State) (g : RouterIn → RouterIn) : State := updR s r (fun x => updIn x p g)
  let drops := tget i.drop bvc
  if 0 < drops then
    -- the rest of a discarded packet
    let ends := tget i.dropTail bvc && fOp f == opBody && fTail f
    putIn (freeCell s r p bvc w.pool now) (fun i => { i with
      drop := tupd i.drop bvc (fun d => if ends then 0 else d - 1)
      dropTail := tupd i.dropTail bvc (fun b => b && !ends && decide (1 < drops)) })
  else
    let body := decide (0 < tget i.left bvc)
    let bad := badGroups f
    if body then
      let index := tget i.total bvc - tget i.left bvc
      let wrong := bad != 0 || fOp f != opBody || fIndex f != index ||
        fTail f != decide (tget i.left bvc = 1)
      let s := if wrong then logParity s r p vc else s
      let poison := wrong || tget i.poisonRest bvc
      -- the packet's length and position come from the count, not from the failing flit
      let c := setField (setField (setField f.ctl 103 6 0x3F) 92 2 index) 91 1
        (decide (tget i.left bvc = 1)).toNat
      let f := if poison then withCtl f (setField (if wrong then c else f.ctl) 90 1 1) else f
      putIn s (fun i => { i with
        left := tupd i.left bvc (· - 1)
        poisonRest := tupd i.poisonRest bvc (fun _ => poison && decide (1 < tget i.left bvc))
        buf := tupd i.buf bvc (fun l => l ++ [
          { flit := f, phase := phaseOf w.la.phase.toNat, la := none, since := now, esc := false, escOnly := false,
            pool := w.pool }]) })
    else if bad != 0 then
      -- R69: the head's packet is discarded; group 5 covers LEN
      let s := logParity (freeCell s r p bvc w.pool now) r p vc
      let unknown := bad.getLsbD 5
      putIn s (fun i => { i with
        drop := tupd i.drop bvc (fun _ => if unknown then 3 else fLen f)
        dropTail := tupd i.dropTail bvc (fun _ => unknown) })
    else
      let phase :=
        if laOk then phaseOf w.la.phase.toNat
        else if 4 ≤ vc then
          -- R76: from the router's own position and the input port
          (if (portEnd r p).isSome then
            (if quadOf r = quadOf (destRouter f) then .postSpine else .detour)
           else if quadOf r = quadOf (destRouter f) then .mesh else .toHub)
        else .mesh
      -- the output named decides at once for a flit that finds its buffer empty; any other requests later (R77)
      let named : Option PortId :=
        if h : laOk = true ∧ tget i.buf bvc = [] ∧ w.la.out.toNat < 11 then some ⟨w.la.out.toNat, h.2.2⟩ else none
      putIn s (fun i => { i with
        left := tupd i.left bvc (fun _ => fLen f)
        total := tupd i.total bvc (fun _ => fLen f + 1)
        head := tupd i.head bvc (fun _ => f.ctl)
        buf := tupd i.buf bvc (fun l => l ++ [
          { flit := f, phase := phase, la := named, since := now, esc := false,
            escOnly := !laOk && decide (vc = 0 ∨ vc = 2), pool := w.pool }]) })

/-- A flit and its lookahead arrive at a router input (R75–R77), disturbed on the wires by `dist` and `laDist`. -/
def flitArrives (s : State) (r : RouterId) (p : PortId) (k : Nat) (dist : Flit) (laDist : BitVec 14) : State :=
  match (tget (rtr s r).ins p).wire with
  | [] => s
  | w :: rest =>
    let f : Flit := { par := w.flit.par ^^^ dist.par, ctl := w.flit.ctl ^^^ dist.ctl, chk := w.flit.chk ^^^ dist.chk,
                      dat := w.flit.dat ^^^ dist.dat }
    let laW := laBits w.la ^^^ laDist
    let laOk := !parity laW
    let la := laOfBits laW
    let bvc : BufVc :=
      if (portEnd r p).isSome then w.bvc else if laOk then Fin.ofNat 16 la.vc.toNat else Fin.ofNat 16 (fVc f)
    let s := updR s r (fun x => bwInc x (updIn · p (fun i => { i with wire := rest })))
    let s := if laOk then s else countR s r 0x05 (some p) none none
    let colour := if isHead f then fColour f else bits (tget (tget (rtr s r).ins p).head bvc) 6 2
    let s := countR s r 0x03 (some p) (some (meshVc r p bvc)) (some (clsOf (meshVc r p bvc) colour))
    acceptFlit s r p bvc (timeR s r k) { w with la := la, flit := f } laOk
where
  bwInc (x : Router) (g : Router → Router) : Router :=
    let x := g x
    let x := bwInInc x p
    if isLocal p then { x with eLocIn := x.eLocIn + 1 } else x

/-! ### Eligibility -/

/-- The entries of a gate list that are valid, as (START, index, OPEN) (R229). -/
def gateList (s : State) (r : RouterId) (p : PortId) (cls : Nat) : List (Nat × Nat × Bool) :=
  (List.range 16).filterMap (fun i =>
    let w : BitVec 16 := BitVec.ofNat 16 (cfgR s r itGateList p.val (cls * 16 + i))
    if w.getLsbD 15 then some (field w 0 10, i, w.getLsbD 14) else none)

/-- The entry with the largest START, the higher index first among equals. -/
def lastEntry (l : List (Nat × Nat × Bool)) : Option (Nat × Nat × Bool) :=
  l.foldl (fun acc e => match acc with
    | none => some e
    | some a => if a.1 < e.1 ∨ (a.1 = e.1 ∧ a.2.1 ≤ e.2.1) then some e else some a) none

/-- The cycle whose gate state cycle `k` has: past 1,023, where a freeze has drawn the epoch out, that of cycle 1,023
(R430). -/
def gateCycle (k : Nat) : Nat := min k 1023

/-- A class-G head is admitted only in a cycle that belongs to a slot (R430). -/
def slotAdmits (cls : Cls) (k : Nat) : Bool := cls != .g || decide (k < 1024)

/-- R229: the state of a gate in cycle `k` of the epoch. -/
def gateOpenIn (l : List (Nat × Nat × Bool)) (k : Nat) : Bool :=
  match lastEntry (l.filter (fun e => decide (e.1 ≤ k))) with
  | some e => e.2.2
  | none =>
    match lastEntry l with
    | some e => e.2.2
    | none => true

/-- The class whose list governs a VC and colour: class B also governs VC 7 (R206). -/
def gateClass (vc : Nat) (colour : BitVec 2) : Nat := clsIndex (clsOf vc colour)

def gateOpen (s : State) (r : RouterId) (p : PortId) (cls k : Nat) : Bool :=
  gateOpenIn (gateList s r p cls) (gateCycle k)

/-- R230: a head of `n` flits needs its gate open in every cycle from `k` to `k + n + 4`. -/
def gateRun (s : State) (r : RouterId) (p : PortId) (cls k n : Nat) : Bool :=
  let l := gateList s r p cls
  (List.range (n + 5)).all (fun i => gateOpenIn l ((gateCycle k + i) % 1024))

/-- R236: whether request heads of a class from local inputs are eligible at a level in cycle `k`. -/
def govOk (level : Nat) (cls : Cls) (k : Nat) : Bool :=
  match cls with
  | .b =>
    if level = 0 then true
    else if level ≤ 7 then decide (k % 8 < 8 - level)
    else decide (k % 64 = 0)
  | .a => if level ≤ 8 then true else decide (k % 8 < 16 - level)
  | _ => true

/-- R236 and R399: the more restrictive of the governor's row and the class-B row of level 4 in DROWSE. -/
def throttleOk (s : State) (r : RouterId) (cls : Cls) (k : Nat) : Bool :=
  govOk (rtr s r).govLevel cls k &&
  (!s.aon.drowseWhey.getLsbD (clusterOf r).val || govOk 4 cls k || cls != .b)

/-- Flits of one record queue (R242). -/
def queueCap (e : LinkEnd) : Nat := if diagonal e then 2 else 1

/-- Whether a head of `n` flits finds room downstream (R79, R260), and on a spine output whether it takes the pool. -/
def roomFor (s : State) (r : RouterId) (w : Want) (n : Nat) : Bool × Bool :=
  match portEnd r w.port with
  | some e =>
    let x := spn s e
    if n ≤ tget x.credit (outVcIx r w) then (true, false) else (!x.farPoolOff, true)
  | none => (decide (n ≤ tget (outOf s r w.port).credit w.vc), false)

/-- A spine output's record queue has room (R242). -/
def queueRoom (s : State) (r : RouterId) (p : PortId) : Bool :=
  match portEnd r p with
  | some e => decide ((spn s e).queue.length < queueCap e) || (spn s e).returning
  | none => true

/-- The router behind a mesh or express output is clocked (R401); a dead one takes what is granted to it (R464). -/
def beyondDead (s : State) (r : RouterId) (p : PortId) : Bool :=
  match neighbour r p with
  | some r' => s.recov.dead.getLsbD (clusterOf r').val
  | none => false
def beyondRuns (s : State) (r : RouterId) (p : PortId) : Bool :=
  match neighbour r p with
  | some r' => beyondDead s r p || (routerRuns s r' && !(outOf s r p).down)
  | none => true

/-- A spine link end grants heads only while it is neither down nor stopping (R272, R276). -/
def spineOpen (s : State) (r : RouterId) (p : PortId) : Bool :=
  match portEnd r p with
  | some e => ((spn s e).state == .up || (spn s e).state == .retrain) && !(spn s e).stopping
  | none => true

/-- R217: class-G flits left in the aligned pair of slots of cycle `k`. -/
def creamLeft (s : State) (r : RouterId) (p : PortId) (k : Nat) : Bool :=
  let o := outOf s r p
  decide (o.creamPair ≠ timeR s r k / 16) || decide (o.creamCount < 12)

/-- A request at an output: the input and buffer it stands in, what it wants, whether it is a head, and what stands
in its way. -/
structure Req where
  inPort : PortId
  bvc : BufVc
  b : BufFlit
  want : Want
  head : Bool
  /-- its rank among the head's own choices (R85) -/
  choice : Nat
  n : Nat
  cls : Cls
  pool : Bool
  /-- no packet holds the output VC (R79) -/
  free : Bool
  /-- credit for the whole packet (R79) -/
  room : Bool
  /-- governor or DROWSE (R236) -/
  throttled : Bool
  /-- time gate open (R230, R231) -/
  gate : Bool
  /-- held back by R217 -/
  capped : Bool
  eligible : Bool
deriving DecidableEq, Repr

/-- The input ports with VC buffers: the router's own ports 0–9, and as port 10 the hub's return port (R274). -/
def inputPorts : List PortId := List.finRange 11

def bufVcs : List BufVc := List.finRange 16

/-- Whether a governor or DROWSE restriction applies: request heads of class A or B from local inputs (R236). -/
def throttles (inP : PortId) (vc : Nat) : Bool := isLocal inP && decide (vc = 0 ∨ vc = 1)

def headReqs (s : State) (r : RouterId) (p : PortId) (k : Nat) (inP : PortId) (bvc : BufVc) (b : BufFlit) :
    List Req :=
  let vc := meshVc r inP bvc
  let n := fLen b.flit + 1
  ((headWants s r b vc).zipIdx.filter (fun w => decide (w.1.port = p))).map (fun (w, c) =>
    let cls := clsOf w.vc.val (fColour b.flit)
    let ix := outVcIx r w
    let (room, pool) := roomFor s r w n
    let free := (tget (outOf s r p).owner ix).isNone
    let throttled := throttles inP vc && !throttleOk s r cls k
    let gate := gateRun s r p (gateClass w.vc.val (fColour b.flit)) k n
    let capped := cls == .g && !creamLeft s r p k
    { inPort := inP, bvc := bvc, b := b, want := w, head := true, choice := c, n := n, cls := cls, pool := pool,
      free := free, room := room, throttled := throttled, gate := gate, capped := capped,
      eligible := free && room && !throttled && gate && !capped && slotAdmits cls k && queueRoom s r p && beyondRuns s r p &&
        spineOpen s r p })

def bodyReq (s : State) (r : RouterId) (p : PortId) (k : Nat) (inP : PortId) (bvc : BufVc) (b : BufFlit) :
    List Req :=
  match ownerOf (outOf s r p) inP bvc with
  | none => []
  | some (_, o) =>
    let w : Want := { port := p, vc := o.outVc, phase := o.phase, half := 0 }
    let cls := o.cls
    let gate := gateOpen s r p (clsIndex cls) k
    let capped := cls == .g && !creamLeft s r p k
    [{ inPort := inP, bvc := bvc, b := b, want := w, head := false, choice := 0, n := 1, cls := cls, pool := o.pool,
       free := true, room := true, throttled := false, gate := gate, capped := capped,
       eligible := gate && !capped && queueRoom s r p && beyondRuns s r p }]

/-- Every request present at an output in the decision for cycle `k`. COLOUR stands in the head alone; a body flit
takes the class from its VC and the head's colour, which its owner entry keeps. -/
def requestsAt (s : State) (r : RouterId) (p : PortId) (k : Nat) : List Req :=
  inputPorts.flatMap (fun inP => bufVcs.flatMap (fun bvc =>
    match tget (tget (rtr s r).ins inP).buf bvc with
    | [] => []
    | b :: _ => if isHead b.flit then headReqs s r p k inP bvc b else bodyReq s r p k inP bvc b))

/-! ### Ranking (R95, R216, R219) -/

def rankOf (c : Cls) : Nat := clsIndex c

/-- R216: the owner input of the slot of cycle `k`; a cycle past 1,023 belongs to no slot (R430). -/
def slotOwner (s : State) (r : RouterId) (p : PortId) (k : Nat) : Option PortId :=
  let w : BitVec 8 := BitVec.ofNat 8 (cfgR s r itOutSlots p.val (k / 8))
  let o := field w 0 4
  if h : o < 11 then
    (if decide (k < 1024) && w.getLsbD 7 && o != 10 && hasPort r ⟨o, h⟩ then some ⟨o, h⟩ else none)
  else none

/-- Whether a class-G request ranks first among class-G requests: by the entry of the slot (R216), or, for a body flit
whose head was granted under a set that is active no more, by the entry that its head was granted under (R219). -/
def gFirst (s : State) (r : RouterId) (p : PortId) (k : Nat) (q : Req) : Bool :=
  let owns := decide (slotOwner s r p k = some q.inPort)
  q.cls == .g &&
  (if q.head then owns
   else match ownerOf (outOf s r p) q.inPort q.bvc with
     | some (_, o) => if o.under == (rtr s r).active then owns else o.first
     | none => false)

/-- Position of an input and VC in round-robin order after the last one served. -/
def rrKey (last : Nat) (q : Req) : Nat := (q.inPort.val * 16 + q.bvc.val + 176 - last) % 177

/-- Order of two eligible requests: rank, the slot's owner, then round robin. -/
def before_ (s : State) (r : RouterId) (p : PortId) (k : Nat) (a b : Req) : Bool :=
  let o := outOf s r p
  let ra := rankOf a.cls
  let rb := rankOf b.cls
  if ra ≠ rb then decide (ra < rb)
  else
    let fa := gFirst s r p k a
    let fb := gFirst s r p k b
    if fa ≠ fb then fa
    else
      let last := tget o.rr (Fin.ofNat 4 ra)
      decide (rrKey last a < rrKey last b)

def bestOf (s : State) (r : RouterId) (p : PortId) (k : Nat) (l : List Req) : Option Req :=
  l.foldl (fun acc q => match acc with
    | none => some q
    | some a => if before_ s r p k q a then some q else some a) none

/-- The eligible non-G head that has waited longest, ties to the lower port, then the lower VC (R95). -/
def oldestOf (l : List Req) : Option Req :=
  l.foldl (fun acc q => match acc with
    | none => some q
    | some a =>
      if q.b.since < a.b.since then some q
      else if a.b.since < q.b.since then some a
      else if q.inPort.val * 16 + q.bvc.val < a.inPort.val * 16 + a.bvc.val then some q else some a) none

/-- What an output decides for cycle `k`: the winner, and whether it is an ageing grant (R95). `skip`: an input port
already served by this output in this decision (R242). -/
def decidePort (s : State) (r : RouterId) (p : PortId) (k : Nat) (skip : Option PortId) : Option (Req × Bool) :=
  let el := (requestsAt s r p k).filter (fun q => q.eligible && decide (some q.inPort ≠ skip))
  match bestOf s r p k el with
  | none => none
  | some w =>
    let nonG (q : Req) : Bool := q.head && q.cls != .g
    if nonG w && decide (cfgR s r itAgeN p.val 0 ≤ (outOf s r p).age + 1) then
      (oldestOf (el.filter nonG)).map (fun q => (q, true))
    else some (w, false)

/-! ### Grants -/

/-- The last packet in an ejection buffer still lacks flits. -/
def ejWants : Nat → List Flit → Bool
  | 0, _ => false
  | _, [] => false
  | fuel + 1, h :: rest => if fLen h ≤ rest.length then ejWants fuel (rest.drop (fLen h)) else true

/-- Deliver a granted flit to the far end of its output. -/
def sendOut (s : State) (r : RouterId) (p : PortId) (w : Want) (f : Flit) (len : Nat) (pool : Bool) (cls : Cls) : State :=
  match portEnd r p with
  | some e =>
    let far := hubOf (endQuad (farEnd e))
    let la := nextLa s far (endPort (farEnd e)) (outVcIx r w) f w.vc.val w.phase len
    if (spn s e).returning then
      updR s r (fun x => { x with returned := appendReturn x.returned f })
    else
      updE s e (fun x => { x with
        queue := x.queue ++ [{ svc := outVcIx r w, phase := w.phase, out := la.out, pool := pool, flit := f }] })
  | none =>
    if isLocal p then
      let n := slotAt r (p.val - 8)
      let ej := tget (nif s n).ej w.vc
      if (nif s n).closed || (!isHead f && !ejWants ej.length ej) then
        -- R460: the router discards what arrives for a closed NI, and the rest of a packet so begun, and returns the
        -- credit
        let s := updN s n (fun x => { x with
          recovering := x.recovering.map (fun y => { y with discarded := y.discarded + (isHead f).toNat }) })
        updR s r (fun x => updOut x p (fun o => { o with returning := tupd o.returning w.vc (· + 1) }))
      else
        -- a request packet is checked when its head is at the ejection latch (R299)
        let checked := isHead f && badGroups f == 0 && (w.vc == 0 || w.vc == 1 || w.vc == 4)
        let s := updN s n (fun x => { x with
          ej := tupd x.ej w.vc (fun l => l ++ [f])
          ejGate := if checked then tupd x.ejGate w.vc (fun l => l ++ [gateHead s n f]) else x.ejGate })
        countN (if checked then gateEccLog s n else s) n 0x02 (some w.vc.val) (some cls)
    else
      match neighbour r p with
      | none => s
      | some r' =>
        if beyondDead s r p then
          updR s r (fun x => updOut x p (fun o => { o with returning := tupd o.returning w.vc (· + 1) }))
        else
          let la := nextLa s r' (opposite p) (Fin.ofNat 16 w.vc.val) f w.vc.val w.phase len
          updR s r' (fun x => updIn x (opposite p) (fun i => { i with
            wire := i.wire ++ [{ la := la, flit := f, bvc := Fin.ofNat 16 w.vc.val, pool := none }] }))
where
  /-- A body flit joins the returned packet that still lacks it; one of a packet that is not returned is discarded
  (R273). -/
  appendReturn (l : List Packet) (f : Flit) : List Packet :=
    updFirst (fun q => decide (q.length < pktLen q) && decide (fDest (hd q) = fDest f) && decide (fSrc (hd q) = fSrc f) &&
      decide (fTag (hd q) = fTag f) && decide (fVc (hd q) = fVc f)) (fun q => q ++ [f]) l

/-- R234: the flits that a router agent counts for the governor. -/
def energyOut (r : RouterId) (p : PortId) (x : Router) : Router :=
  let x := { x with eOut := x.eOut + 1 }
  if isMesh p then { x with eMesh := x.eMesh + 1 }
  else if isExpress r p then { x with eExpr := x.eExpr + 1 }
  else if isLocal p then { x with eLocOut := x.eLocOut + 1 }
  else x

/-- Carry out a grant of output `p` for cycle `k` (R79, R95, R217). DESIGN CHOICE, where R95 is silent: an ageing grant
moves its rank's round-robin position as any other grant does, and a flit's waiting time runs from when it reaches the
front of its buffer. -/
def grant (s : State) (r : RouterId) (p : PortId) (k : Nat) (q : Req) (aged : Bool) : State :=
  let w := q.want
  let first := gFirst s r p k q
  let ix := match q.head, ownerOf (outOf s r p) q.inPort q.bvc with
    | false, some (v, _) => v
    | _, _ => outVcIx r w
  let len := match q.head, ownerOf (outOf s r p) q.inPort q.bvc with
    | false, some (_, y) => y.len
    | _, _ => q.n - 1
  let f := setVc w.vc.val q.b.flit
  let now := timeR s r k
  let nonG := q.head && q.cls != .g
  -- the flit leaves its buffer, and the credit goes back
  let s := updR s r (fun x => updIn x q.inPort (fun i => { i with
    buf := tupd i.buf q.bvc (fun l => match l.drop 1 with
      | [] => []
      | b :: rest => { b with since := max b.since now } :: rest) }))
  let s := freeCell s r q.inPort q.bvc q.b.pool now
  -- output VC, credits, arbiter state
  let s := updR s r (fun x => updOut (energyOut r p (bwOutInc x p)) p (fun o =>
    let o := { o with rr := tupd o.rr (Fin.ofNat 4 (rankOf q.cls)) (fun _ => q.inPort.val * 16 + q.bvc.val) }
    let o := if nonG then { o with age := if aged then 0 else o.age + 1 } else o
    let pair := now / 16
    let o := if q.cls == .g then
        { o with creamPair := pair, creamCount := (if o.creamPair = pair then o.creamCount else 0) + 1 }
      else o
    if q.head then
      let o := if (portEnd r p).isNone then { o with credit := tupd o.credit w.vc (· - q.n) } else o
      { o with owner := tupd o.owner ix (fun _ => if len = 0 then none else
          some { inPort := q.inPort, inVc := q.bvc, left := len, pool := q.pool, held := false, phase := w.phase,
                 outVc := w.vc, cls := q.cls, first := first, under := x.active, len := len }) }
    else
      { o with owner := tupd o.owner ix (fun v => match v with
          | some y => if y.left ≤ 1 then none else some { y with left := y.left - 1, held := false }
          | none => none) }))
  let s := match portEnd r p, q.head && !q.pool with
    | some e, true => updE s e (fun x => { x with credit := tupd x.credit ix (· - q.n) })
    | _, _ => s
  -- counters
  let s := countR s r 0x01 (some p) (some w.vc.val) (some q.cls)
  let s := if q.head then countR s r 0x02 (some p) (some w.vc.val) (some q.cls) else s
  let s := if aged then countR s r 0x09 (some p) none none else s
  let s := if q.head && (w.vc.val == 1 || w.vc.val == 3) && meshVc r q.inPort q.bvc % 2 == 0 then
      countR s r 0x06 (some q.inPort) none (some q.cls) else s
  let s := if q.head && q.inPort = 10 then countR s r 0x0D none none (some q.cls) else s
  -- a spine record keeps the half of its packet
  let w := { w with half := if (portEnd r p).isSome then ix.val % 2 else 0 }
  sendOut s r p w f len q.pool q.cls

/-! ### Turn hints and the counts of a decision (R97, R217, R231, R236) -/

/-- Two requests of one packet. -/
def samePkt (a b : Req) : Bool := decide (a.inPort = b.inPort) && decide (a.bvc = b.bvc)

/-- One request for each packet. -/
def oncePerPkt (l : List Req) : List Req :=
  l.foldl (fun acc a => if acc.any (samePkt a) then acc else acc ++ [a]) []

/-- The flits that a packet still has to send at an output. -/
def restOf (o : RouterOut) (a : Req) : Nat :=
  if a.head then a.n
  else match ownerOf o a.inPort a.bvc with
    | some (_, y) => y.left
    | none => 0

/-- R97: W for a losing head, in the state before the grants: the packet that holds the output VC it wants, the packets
whose heads won, and every other eligible request that ranks ahead, each packet once. -/
def hintW (s : State) (r : RouterId) (p : PortId) (k : Nat) (wins : List Req) (q : Req) : Nat :=
  let o := outOf s r p
  let holder := tget o.owner (outVcIx r q.want)
  let holds (a : Req) : Bool := holder.any (fun y => decide (y.inPort = a.inPort) && decide (y.inVc = a.bvc))
  let heads := wins.filter (·.head)
  let ahead := (requestsAt s r p k).filter (fun a =>
    a.eligible && !samePkt a q && !holds a && !heads.any (samePkt a) && before_ s r p k a q)
  (match holder with
   | some y => y.left
   | none => 0) +
  (heads.filter (fun a => !samePkt a q && !holds a) ++ oncePerPkt ahead).foldl (fun n a => n + restOf o a) 0

/-- Present a hint on the reverse sideband of an input; the agent there keeps the last one. -/
def giveHint (s : State) (r : RouterId) (inP : PortId) (vc : VcId) (h : Nat) : State :=
  let s := if h = 7 then countR s r 0x0B (some inP) none none else s
  match (if (portEnd r inP).isSome then none else upstreamOf r inP) with
  | some (.out r' p') => updR s r' (fun x => updOut x p' (fun o => { o with
      hint := tupd o.hint vc (fun _ => BitVec.ofNat 3 h) }))
  | some (.ni n) => updN s n (fun x => { x with hint := tupd x.hint vc (fun _ => BitVec.ofNat 3 h) })
  | none => s

/-- What a decision leaves besides its grants: hints to losing heads, and the per-decision counts. `s0` is the state
before the grants; `capped` tells that the decision withheld a class-G request (R217). -/
def afterDecision (s0 s : State) (r : RouterId) (p : PortId) (k : Nat) (wins : List Req) (capped : Bool) : State :=
  let reqs := requestsAt s0 r p k
  let losers := reqs.filter (fun q => q.head && !wins.any (samePkt q))
  let s := losers.foldl (fun s q =>
    let h := if q.room then min 7 (hintW s0 r p k wins q / 8) else 7
    -- the output that its lookahead named has decided (R77)
    let s := updR s r (fun x => updIn x q.inPort (fun i => { i with
      buf := tupd i.buf q.bvc (fun l => match l with
        | b :: rest => (if b.la = some p then { b with la := none } else b) :: rest
        | [] => []) }))
    giveHint s r q.inPort (Fin.ofNat 8 (meshVc r q.inPort q.bvc)) h) s
  let s := if capped then countR s r 0x07 (some p) none none else s
  let s := match losers.find? (fun q => q.free && !q.room && !q.throttled && q.gate && !q.capped) with
    | some q =>
      let s := countR s r 0x0A (some p) (some q.want.vc.val) none
      (match portEnd r p with
       | some e => countE s e 8
       | none => s)
    | none => s
  let s := match losers.find? (·.throttled) with
    | some q => countR s r 0x0E none none (some q.cls)
    | none => s
  -- R231: a packet met by a closing is counted once and keeps its output VC
  bufVcs.foldl (fun s v => match tget (outOf s r p).owner v with
    | some y =>
      if y.held || gateOpen s0 r p (clsIndex y.cls) k then s
      else updR (countR s r 0x08 (some p) none (some y.cls)) r (fun x => updOut x p (fun o => { o with
        owner := tupd o.owner v (fun _ => some { y with held := true }) }))
    | none => s) s

/-- A grant that an output decides: the winner, and whether it is an ageing grant. -/
structure Win where
  port : PortId
  req : Req
  aged : Bool
deriving DecidableEq, Repr

/-- The grants of an output for cycle `k`, and whether a class-G request was withheld: one grant, and at a diagonal
spine output a second one, to a flit from another input, decided with the first in force (R242). -/
def winnersOf (s : State) (r : RouterId) (k : Nat) (p : PortId) : List Win × Bool :=
  let capped (s : State) : Bool := (requestsAt s r p k).any (·.capped)
  match decidePort s r p k none with
  | none => ([], capped s)
  | some (a, g) =>
    if (portEnd r p).any diagonal then
      let s1 := grant s r p k a g
      match decidePort s1 r p k (some a.inPort) with
      | some (b, h) => ([{ port := p, req := a, aged := g }, { port := p, req := b, aged := h }], capped s || capped s1)
      | none => ([{ port := p, req := a, aged := g }], capped s || capped s1)
    else ([{ port := p, req := a, aged := g }], capped s)

/-- The grants of a cycle that stand, of those won (R85, R96, R242): where one flit wins at two outputs it takes the one
that ranks first among its choices; and a spine input sends one flit a cycle, or two at a diagonal link. DESIGN CHOICE:
of more winners from one spine input the higher ranks stand, then those of the outputs named first. -/
def standing (r : RouterId) (wins : List Win) : List (Win × Bool) :=
  let ok (w : Win) : Bool := !wins.any (fun v => samePkt v.req w.req && decide (v.req.choice < w.req.choice))
  let cap (p : PortId) : Nat := match portEnd r p with
    | some e => queueCap e
    | none => wins.length
  wins.zipIdx.map (fun (w, i) =>
    let ahead := wins.zipIdx.filter (fun (v, j) => ok v && decide (v.req.inPort = w.req.inPort) &&
      (decide (rankOf v.req.cls < rankOf w.req.cls) || (decide (rankOf v.req.cls = rankOf w.req.cls) && decide (j < i))))
    (w, ok w && decide (ahead.length < cap w.req.inPort)))

/-- A router's outputs decide for cycle `k` (R77, R95–R97), and the grants that do not stand are lost (R96). -/
def allocate (s0 : State) (r : RouterId) (ports : List PortId) (k : Nat) : State :=
  let decided := (ports.dedup.filter (fun p => hasPort r p && p != 10)).map (fun p => (p, winnersOf s0 r k p))
  let wins := decided.flatMap (fun d => d.2.1)
  let s := (standing r wins).foldl (fun s w =>
    if w.2 then grant s r w.1.port k w.1.req w.1.aged else countR s r 0x04 (some w.1.port) none none) s0
  decided.foldl (fun s d => afterDecision s0 s r d.1 k (d.2.1.map (·.req)) d.2.2) s

/-! ### The rows of the routers -/

/-- HEAD_FLIT_ARRIVAL (R77). -/
def execHeadFlitArrival (r : RouterId) (p : PortId) (k : Nat) (dist : Flit) (laDist : BitVec 14) (s : State) :
    Host.Outcome State Fault Refusal :=
  .next (if routerRuns s r then flitArrives s r p k dist laDist else s)

/-- SWITCH_ALLOCATION (R95): the outputs `ports` of a router decide for cycle `k`. -/
def execSwitchAllocation (r : RouterId) (ports : List PortId) (k : Nat) (s : State) :
    Host.Outcome State Fault Refusal :=
  .next (if routerRuns s r then allocate s r ports k else s)

/-- CREDIT_RETURN (R78): one credit on the reverse sideband is counted. -/
def execCreditReturn (u : Upstream) (vc : VcId) (s : State) : Host.Outcome State Fault Refusal :=
  .next (match u with
    | .out r p =>
      if 0 < tget (outOf s r p).returning vc then
        updR s r (fun x => updOut x p (fun o => { o with
          returning := tupd o.returning vc (· - 1)
          credit := tupd o.credit vc (fun c => min (tget (outDepth r p) vc) (c + 1)) }))
      else s
    | .ni n =>
      if 0 < tget (nif s n).returning vc then
        updN s n (fun x => { x with returning := tupd x.returning vc (· - 1), credit := tupd x.credit vc (· + 1) })
      else s)

/-- ESC_ENTRY (R86): a head on VC 0 or 2 that has waited ESC_WAIT cycles may also take its escape output. -/
def execEscEntry (r : RouterId) (p : PortId) (vc : VcId) (k : Nat) (s : State) :
    Host.Outcome State Fault Refusal :=
  let now := timeR s r k
  let wait := cfgR s r itEscWait 0 0
  let mark (l : List BufFlit) : List BufFlit := match l with
    | b :: rest => if isHead b.flit && decide (b.since + wait ≤ now) then { b with esc := true } :: rest else l
    | [] => []
  let here (bvc : BufVc) : Bool := decide (meshVc r p bvc = vc.val) &&
    ((portEnd r p).isSome || decide (bvc.val < 8))
  .next (if routerRuns s r && (vc == 0 || vc == 2) then
      updR s r (fun x => updIn x p (fun i => { i with
        buf := tmap i.buf (fun bvc l => if here bvc then mark l else l) }))
    else s)

/-- RETURN_PORT_REINJECT (R274): the hub's return port offers the next returned packet as an input of the hub. -/
def execReturnPortReinject (q : QuadId) (k : Nat) (s : State) : Host.Outcome State Fault Refusal :=
  let r := hubOf q
  match (rtr s r).returned with
  | [] => .next s
  | pkt :: rest =>
    if !routerRuns s r || pkt.length < pktLen pkt then .next s
    else
      let f := hd pkt
      let vc := fVc f
      let ph : RPhase := if 4 ≤ vc then .toHub else .mesh
      let now := timeR s r k
      .next (updR s r (fun x => updIn { x with returned := rest } 10 (fun i => { i with
        buf := tupd i.buf (Fin.ofNat 16 vc) (fun l => l ++ pkt.map (fun g =>
          { flit := g, phase := ph, la := none, since := now, esc := false, escOnly := false, pool := none })) })))

end Sys2Proof.Machine
end

