-- ==== Sys2Proof/Machine/Inject.lean ====
section
/-! DEFINITION. The injection arbiter of an NI (R117, R118, R134, R209, R215): which packet goes onto the local port,
the reservation of its answer, and the last changes to its flits. -/

namespace Sys2Proof.Machine

/-- Response-store lines reserved (R118): by tags, and by lines received and not yet delivered. -/
def respLines (x : NI) : Nat :=
  x.tags.foldl (fun a t => a + t.lines) 0 +
  x.reqs.foldl (fun a r => a + if isRead r.op && !r.discard then ((r.lines.drop r.done).filter (·.isSome)).length else 0) 0

/-- The lowest free network tag in `[lo, lo + n)` (R115, R117). -/
def freeTag (x : NI) (lo n : Nat) : Option Nat :=
  ((List.range n).map (· + lo)).find? (fun t => x.tags.all (fun e => e.tag != t))

/-- The lines of the response store that a packet needs (R118). -/
def needLines (f : Flit) : Nat :=
  if isRead (fOp f) || fOp f == opVatDrain then field (word f 0) 0 2 + 1 else 0

/-- The network tag of a piece: the endpoint's own, a posted tag or a piece tag (R115–R117, R129). -/
def pieceTag (x : NI) (p : Piece) : Option Nat :=
  if p.posted then freeTag x 384 64
  else if p.split then freeTag x 448 64
  else some (fTag (hd p.pkt))

/-- A queue of the injection arbiter, in the order of its round robin. -/
inductive InjQ where
  | req | rsp | skm | vat
deriving DecidableEq, Repr

def injQCode : InjQ → Nat
  | .req => 0 | .rsp => 1 | .skm => 2 | .vat => 3

/-- A flit that the arbiter may inject: the head of a packet of a queue, with the packet's stamp, or the next body flit
of the packet under way on a VC. -/
structure InjCand where
  q : InjQ
  stamp : Nat
  pkt : Packet
  cls : Cls
  body : Option VcId
deriving DecidableEq, Repr

/-- R458: ordered packets are held for eight ticks after a recovery. -/
def orderHeld (s : State) (n : Slot) (f : Flit) : Bool := fOrd f && decide (epochN s n < (nif s n).orderedFrom)

/-- R215: whether a class-G head of a kind may be injected in cycle `k`: not in one past 1,023 (R430). -/
def slotAllows (s : State) (n : Slot) (k : Nat) (rsp : Bool) : Bool :=
  let bit (i : Nat) : Bool := (cfgN s n itNiSlots i).testBit (if rsp then 6 else 7)
  let x := nif s n
  let here := epochN s n * 128 + k / 8
  decide (k < 1024) && (bit (k / 8) || !(List.range 128).any bit) &&
  (decide (x.slotNow ≠ here) || !(if rsp then x.slotRsp else x.slotReq))

/-- R79, R80: the router's local input has room for the whole packet. -/
def injCredit (x : NI) (pkt : Packet) : Bool := decide (pkt.length ≤ tget x.credit (Fin.ofNat 8 (fVc (hd pkt))))

/-- R151, R152: an ordered piece takes its sequence after every earlier ordered piece to its target. -/
def orderFree (x : NI) (p : Piece) : Bool :=
  !fOrd (hd p.pkt) || (x.inj.takeWhile (fun q => q.pid != p.pid)).all (fun q =>
    !fOrd (hd q.pkt) || decide (fDest (hd q.pkt) ≠ fDest (hd p.pkt)))

/-- No packet is under way on a VC of the local port. -/
def vcFree (x : NI) (pkt : Packet) : Bool := (tget x.sending (Fin.ofNat 8 (fVc (hd pkt)))).isNone

/-- The first piece of a VC's queue that ordering does not hold, when it can reserve its answer (R118). -/
def reqCand (s : State) (n : Slot) (k vc : Nat) : List InjCand :=
  let x := nif s n
  match (x.inj.filter (fun p => decide (fVc (hd p.pkt) = vc) && !orderHeld s n (hd p.pkt) && orderFree x p)).head? with
  | none => []
  | some p =>
    let f := hd p.pkt
    if (pieceTag x p).isSome && decide (respLines x + needLines f ≤ 512) && injCredit x p.pkt &&
       vcFree x p.pkt && (vc != 4 || slotAllows s n k false) then
      [{ q := .req, stamp := p.pid, pkt := p.pkt, cls := fCls f, body := none }]
    else []

def queueCand (x : NI) (q : InjQ) (l : List (Nat × Packet)) : List InjCand :=
  match l with
  | [] => []
  | (t, pkt) :: _ =>
    if injCredit x pkt && vcFree x pkt then [{ q := q, stamp := t, pkt := pkt, cls := fCls (hd pkt), body := none }]
    else []

/-- The queue whose packets travel on a VC of the local port. -/
def vcQueue (v : VcId) : InjQ :=
  if v = 0 ∨ v = 4 then .req else if v = 6 then .skm else if v = 7 then .vat else .rsp

/-- The next body flits of the packets under way: they rank with their class and need no further credit (R79, R95). -/
def bodyCands (x : NI) : List InjCand :=
  (List.finRange 8).filterMap (fun v => (tget x.sending v).map (fun y =>
    { q := vcQueue v, stamp := y.stamp, pkt := y.left, cls := fCls y.head, body := some v }))

/-- Every flit that could be injected in cycle `k`: at a closed NI, those of packets under way alone (R457, R466). -/
def injCands (s : State) (n : Slot) (k : Nat) : List InjCand :=
  let x := nif s n
  let rsps (vc : Nat) := x.rspQ.filter (fun p => decide (fVc (hd p.2) = vc))
  if x.closed then bodyCands x
  else reqCand s n k 0 ++ reqCand s n k 4 ++ queueCand x .rsp (rsps 2) ++
  (if slotAllows s n k true then queueCand x .rsp (rsps 5) else []) ++
  queueCand x .skm (x.skmQ ++ x.dbQ) ++ queueCand x .vat x.vatQ ++ bodyCands x

/-- R95 at the injection port: by rank, round robin over the queues within a rank, with ageing by the router's
AGE_N, which an ageing grant gives to the head that has waited longest. DESIGN CHOICE: AGE_N is held per output, and R209
does not say which output's an NI uses; it is that of the output on the NI's own local port. -/
def pickInj (s : State) (n : Slot) (k : Nat) : Option (InjCand × Bool) :=
  let x := nif s n
  let cs := injCands s n k
  let key (c : InjCand) : Nat := rankOf c.cls * 8 + (injQCode c.q + 7 - tget x.rrInj (Fin.ofNat 4 (rankOf c.cls))) % 4
  let best := cs.foldl (fun acc c => match acc with
    | none => some c
    | some a => if key c < key a then some c else some a) (none : Option InjCand)
  match best with
  | none => none
  | some b =>
    if b.body.isNone && b.cls != .g && decide (cfgR s (routerOf n) itAgeN (localPort n).val 0 ≤ x.age + 1) then
      let old := (cs.filter (fun c => c.body.isNone && c.cls != .g)).foldl (fun acc c => match acc with
        | none => some c
        | some a => if c.stamp < a.stamp then some c else some a) (none : Option InjCand)
      old.map (fun c => (c, true))
    else some (b, false)

/-- R42, R43 at an NI: clear unused words, correct and poison used ones; what was corrected is counted and what was not
is logged, but on the flits at the positions `quiet`, which had a control parity error (R71). -/
def checkOut (s : State) (n : Slot) (pkt : Packet) (quiet : List Nat) : State × Packet :=
  let op := fOp (hd pkt)
  let len := pkt.length - 1
  pkt.zipIdx.foldl (fun (acc : State × Packet) (f, i) =>
    let (g, fixed, bad) := checkData op len i (clearUnused op len i f)
    let s := countNFix (updN acc.1 n (fun x => { x with corrected := x.corrected + fixed })) n 5 fixed
    let s := (if quiet.contains i then [] else bad).foldl (fun s w =>
      repNi (countN s n 0x06) n .dataUncorrectable (w * 2 ^ 16 + fTag f)) s
    (s, acc.2 ++ [g])) (s, [])

/-- Drive a flit of the packet with head `h` onto the local port behind its lookahead (R74, R75, R83). -/
def driveFlit (s : State) (n : Slot) (h f : Flit) : State :=
  let r := routerOf n
  let vc := fVc h
  let ph := firstPhase s r vc (destRouter h)
  let la := nextLa s r (localPort n) (Fin.ofNat 16 vc) f vc ph (fLen h)
  let s := updR s r (fun x => updIn x (localPort n) (fun i => { i with
    wire := i.wire ++ [{ la := la, flit := f, bvc := Fin.ofNat 16 vc, pool := none }] }))
  countN s n 0x01 (some vc) (some (fCls h))

/-- Drive a packet's head onto the local port, taking the packet's credits (R79); its body flits follow as they are
granted (R209). -/
def ontoLocal (s : State) (n : Slot) (stamp : Nat) (pkt : Packet) : State :=
  let h := hd pkt
  let v : VcId := Fin.ofNat 8 (fVc h)
  let s := updN s n (fun x => { x with
    credit := tupd x.credit v (· - pkt.length)
    sending := tupd x.sending v (fun _ =>
      if pkt.length ≤ 1 then none else some { head := h, left := pkt.drop 1, stamp := stamp }) })
  driveFlit s n h h

/-- R134: the ordering sequence of an ordered packet. -/
def takeOseq (x : NI) (f : Flit) : BitVec 10 × NI :=
  if fOrd f then
    let d : Slot := Fin.ofNat 192 (fDest f)
    (tget x.oseq d, { x with oseq := tupd x.oseq d (· + 1) })
  else (0, x)

/-- The Herdsman's NI cannot be reached while cluster 8 is out (R38). -/
def herdReachable (s : State) : Bool := (tget s.recov.clusters 8).isNone && !s.recov.dead.getLsbD 8

/-- Inject an accepted piece: its tag and reservation, its sequence, and the doorbells that follow it (R118, R134,
R317). Doorbells to an unreachable slot 188 are discarded (R38). -/
def injectPiece (s : State) (n : Slot) (p : Piece) : State :=
  let x := nif s n
  match pieceTag x p with
  | none => s
  | some t =>
    let (q, x1) := takeOseq x (hd p.pkt)
    let pkt := match setTag t p.pkt with
      | [] => []
      | h :: b => setF h 21 10 q.toNat :: b
    let s := updN s n (fun _ => { x1 with inj := x1.inj.filter (fun y => y.pid != p.pid) })
    let (s, pkt) := checkOut s n pkt p.parity
    let h := hd pkt
    let ent : TagEnt :=
      { tag := t, pid := p.pid, req := p.req, quarantined := false, orphan := x.reset || x.readyHold, injected := true,
        epoch := epochN s n, head := h, base := p.base, nlines := p.nlines, codes := p.codes, posted := p.posted,
        split := p.split, lines := needLines h, canon := p.canon, staged := false, own := p.own }
    let dbs := if herdReachable s then p.doorbells else []
    let s := updN s n (fun x => { x with
      tags := x.tags ++ [ent]
      reqs := x.reqs.map (fun r => if r.num = p.req && (r.done == 0) && (p.base == 0 || !p.split) then
        { r with head := setF h 94 9 r.tag } else r)
      dbQ := x.dbQ ++ dbs.zipIdx.map (fun (d, i) => (x.nextPid + i, d))
      nextPid := x.nextPid + dbs.length })
    ontoLocal s n p.pid pkt

/-- Add a packet that the NI forms itself to one of its injection queues, with its stamp. -/
def queueRsp (x : NI) (p : Packet) : NI :=
  { x with rspQ := x.rspQ ++ [(x.nextPid, p)], nextPid := x.nextPid + 1 }
def queueSkm (x : NI) (p : Packet) : NI :=
  { x with skmQ := x.skmQ ++ [(x.nextPid, p)], nextPid := x.nextPid + 1 }
def queueVat (x : NI) (p : Packet) : NI :=
  { x with vatQ := x.vatQ ++ [(x.nextPid, p)], nextPid := x.nextPid + 1 }

/-- R186: an answer leaves when the last spill packet that it waits for has been injected. -/
def spillGone (s : State) (n : Slot) (stamp : Nat) : State :=
  updN s n (fun x =>
    let l := x.spillAcks.map (fun a => (a.1.filter (· != stamp), a.2))
    (l.filter (fun a => a.1.isEmpty)).foldl (fun x a => queueRsp x a.2)
      { x with spillAcks := l.filter (fun a => !a.1.isEmpty) })

/-- Take the packet of a queue other than the requests' off its queue and inject it. -/
def injectOther (s : State) (n : Slot) (c : InjCand) : State :=
  let drop (l : List (Nat × Packet)) := l.filter (fun p => p.1 != c.stamp)
  let s := updN s n (fun x => { x with
    rspQ := drop x.rspQ, skmQ := drop x.skmQ, dbQ := drop x.dbQ, vatQ := drop x.vatQ })
  let (s, pkt) := checkOut s n c.pkt []
  if fOp (hd pkt) == opDbFwd && !herdReachable s then s
  else
    let s := ontoLocal s n c.stamp pkt
    if c.q == .vat && decide (pkt.length ≤ 1) then spillGone s n c.stamp else s

/-- Drive the next body flit of the packet under way on a VC. -/
def injectBody (s : State) (n : Slot) (v : VcId) : State :=
  match tget (nif s n).sending v with
  | none => s
  | some y =>
    let rest := y.left.drop 1
    let s := updN s n (fun x => { x with
      sending := tupd x.sending v (fun _ => if rest.isEmpty then none else some { y with left := rest }) })
    let s := driveFlit s n y.head (hd y.left)
    if rest.isEmpty && v == 7 then spillGone s n y.stamp else s

/-- What a grant leaves at the arbiter: its round robin, the class-G slot (R215), the ageing count (R95). -/
def injArbiter (x : NI) (here : Nat) (c : InjCand) (aged : Bool) : NI :=
  let x := { x with rrInj := tupd x.rrInj (Fin.ofNat 4 (rankOf c.cls)) (fun _ => injQCode c.q) }
  if c.body.isSome then x
  else if c.cls == .g then
    let fresh := decide (x.slotNow ≠ here)
    let isReq := c.q == .req
    { x with
      slotNow := here
      slotReq := isReq || (!fresh && x.slotReq)
      slotRsp := !isReq || (!fresh && x.slotRsp) }
  else { x with age := if aged then 0 else x.age + 1 }

/-- One decision of the injection arbiter: one flit (R209). -/
def injectNext (s : State) (n : Slot) (k : Nat) : State :=
  match pickInj s n k with
  | none => s
  | some (c, aged) =>
    let here := epochN s n * 128 + k / 8
    let s := updN s n (fun x => injArbiter x here c aged)
    match c.body, c.q with
    | some v, _ => processStore (injectBody s n v) n
    | none, .req => match (nif s n).inj.find? (fun p => p.pid == c.stamp) with
      | some p => processStore (injectPiece s n p) n
      | none => s
    | none, _ => processStore (injectOther s n c) n

/-- PIECE_INJECT (R118, R209): the injection arbiter of an NI drives its next packet in cycle `k`. -/
def execPieceInject (n : Slot) (k : Nat) (s : State) : Host.Outcome State Fault Refusal :=
  .next (if niRuns s n then injectNext s n k else s)

end Sys2Proof.Machine
end

