-- ==== Sys2Proof/Machine/Target.lean ====
section
/-! DEFINITION. The target side of an NI up to its inbound queues (chapters 03–05): the ejection buffer, the inbound
gate, ordered delivery, inbound discard, and the answers that the NI sends back. -/

namespace Sys2Proof.Machine

/-! ### The ejection buffer (R526) -/

/-- The whole packet at the front of a VC's ejection buffer, where its head passes control parity. -/
def ejFront (x : NI) (vc : VcId) : Option Packet :=
  match tget x.ej vc with
  | [] => none
  | h :: rest => if badGroups h = 0 ∧ fLen h ≤ rest.length then some (h :: rest.take (fLen h)) else none

/-- The flits to discard at the front of an ejection buffer whose head fails its control parity, when they are there
(R69): up to its LEN, or, where group 5 fails, up to a TAIL or four flits. -/
def ejBad (x : NI) (vc : VcId) : Option Nat :=
  match tget x.ej vc with
  | [] => none
  | h :: rest =>
    if badGroups h = 0 then none
    else if (badGroups h).getLsbD 5 then
      let i := (rest.take 3).findIdx (fun f => !isHead f && fTail f)
      if i < (rest.take 3).length then some (i + 2) else if 3 ≤ rest.length then some 4 else none
    else if fLen h ≤ rest.length then some (fLen h + 1) else none

/-- Move flits at the front out, returning their credits (R526). -/
def ejPop (s : State) (n : Slot) (vc : VcId) (len : Nat) : State :=
  let s := updN s n (fun x => { x with
    ej := tupd x.ej vc (fun l => l.drop len)
    ejGate := tupd x.ejGate vc (fun l => if (ejBad x vc).isSome then l else l.drop 1) })
  updR s (routerOf n) (fun r => updOut r (localPort n) (fun o => { o with
    returning := tupd o.returning vc (· + len) }))

/-- What an NI does with the front of an ejection buffer: a packet whose head fails its control parity is discarded and
logged (R69); any other goes to `f`. -/
def withFront (s : State) (n : Slot) (vc : VcId) (f : Packet → State) : State :=
  match ejBad (nif s n) vc with
  | some k => logLocalParity (ejPop s n vc k) n (hd (tget (nif s n).ej vc))
  | none => match ejFront (nif s n) vc with
    | some pkt => f pkt
    | none => s

/-- The checks of R40, R50, R70 and R42 at ejection. -/
def checkIn (s : State) (n : Slot) (pkt : Packet) : State × Packet :=
  let (fs, bad) := parityPoison (fLen (hd pkt)) 0 pkt []
  checkOut (logLocalParities s n (hd pkt) bad) n fs bad

/-! ### Answers -/

/-- R64: the lines of a response, position by position. -/
def rspOf (h : Flit) (codes : List Status) (whole : Status) (aux : BitVec 16) (lines : List Line) : Packet :=
  let op := fOp h
  let st := stWorse whole (worst codes)
  if isRead op || isAtomic op || op == opVatDrain then rspLines h (responseOf op) st codes aux lines
  else rspBare h (responseOf op) st codes aux

def sendRsp (s : State) (n : Slot) (p : Packet) : State := updN s n (fun x => queueRsp x p)

/-- The lines of an inbound request (R349). -/
def inLines (p : Packet) : Nat := headLines (hd p)

/-- R146, R64: an answer in which no line was performed: the gate's code where it refused, POISON elsewhere. -/
def refuseAll (p : InPkt) (whole : Status) : Packet :=
  let codes := p.codes.map (fun c => if c == .ok then .poison else c)
  rspOf (hd p.pkt) codes whole 0 (codes.map (fun _ => zeroLine))

/-! ### Order at the target (R134–R138) -/

def seqDist (q e : BitVec 10) : Nat := (q - e).toNat

/-- Make deliverable, in sequence, the packets held from `src`, passing over those that were discarded (R135, R138). -/
def releaseEarly : Nat → NI → Slot → NI
  | 0, x, _ => x
  | fuel + 1, x, src =>
    match tget x.exp src with
    | none => x
    | some e =>
      if x.inq.any (fun p => p.early && decide (fSrc (hd p.pkt) = src.val) && decide (fOseq (hd p.pkt) = e)) then
        releaseEarly fuel
          { x with
            inq := updFirst
              (fun p => p.early && decide (fSrc (hd p.pkt) = src.val) && decide (fOseq (hd p.pkt) = e))
              (fun p => { p with early := false, stamp := x.nextPid }) x.inq
            nextPid := x.nextPid + 1
            exp := tupd x.exp src (fun _ => some (e + 1)) } src
      else if (tget x.gone src).contains e then
        releaseEarly fuel
          { x with
            gone := tupd x.gone src (fun l => l.filter (· != e))
            exp := tupd x.exp src (fun _ => some (e + 1)) } src
      else x

/-- The steps that `releaseEarly` may take. -/
def earlyFuel (x : NI) (src : Slot) : Nat := x.inq.length + (tget x.gone src).length + 1

def advanceExp (x : NI) (src : Slot) (e : BitVec 10) : NI :=
  releaseEarly (earlyFuel x src) { x with exp := tupd x.exp src (fun _ => some (e + 1)) } src

/-- What R135 makes of an arriving packet: distance 0 where it is deliverable; unsynchronised entries take the
packet's own sequence (R458). -/
inductive OrdOut where
  | deliver (next : Option (BitVec 10)) | early | late
deriving DecidableEq, Repr

def ordCheck (x : NI) (h : Flit) : OrdOut :=
  if !fOrd h then .deliver none
  else match tget x.exp (Fin.ofNat 192 (fSrc h)) with
    | none => .deliver (some (fOseq h))
    | some e =>
      let d := seqDist (fOseq h) e
      if d = 0 then .deliver (some e) else if d < 512 then .early else .late

/-- R136: room in the queue of a packet's kind; early packets leave the last 8, or the last 4, flits. -/
def inqRoom (x : NI) (cream early : Bool) (len : Nat) : Bool :=
  let used := (x.inq.filter (fun p => p.cream == cream)).foldl (fun a p => a + p.pkt.length) 0
  let held := (x.inq.filter (fun p => p.cream == cream && p.early)).foldl (fun a p => a + p.pkt.length) 0
  if early then
    decide (used + len ≤ (if cream then 16 else 64)) && decide (held + len ≤ (if cream then 12 else 56))
  else decide (used + len ≤ (if cream then 16 else 64))

/-! ### The inbound gate (R288, R295, R296, R299) -/

/-- The positions whose line is a write line that arrived poisoned (R295). -/
def poisonedLines (p : Packet) : List Bool :=
  let op := fOp (hd p)
  if isWrite op || op == opMsgIntr then (writeLines op p).map (fun l => l.1.poison)
  else (List.range (inLines p)).map (fun _ => false)

/-- Every line's answer at the inbound end: decided when the head arrived (R299), or now for a packet that has none; a
poisoned write line is not checked (R295). -/
def gateInbound (s : State) (n : Slot) (vc : VcId) (p : Packet) : List (Nat × Nat × GAns) :=
  let h := hd p
  let bad := poisonedLines p
  let ans := ((tget (nif s n).ejGate vc).head?).getD (gateHead s n h)
  (List.range (inLines p)).map (fun i =>
    (i, (fAddr h + i) % 2 ^ 46, if bad.getD i false then gOk else ans.getD i gOk))

/-- A request packet in inbound discard (R103): an ordered one advances E, or will when E reaches it (R138). -/
def discardArrival (s : State) (n : Slot) (vc : VcId) (pkt : Packet) : State :=
  let h := hd pkt
  let src : Slot := Fin.ofNat 192 (fSrc h)
  let s := countN (ejPop s n vc pkt.length) n 0x13
  updN s n (fun x =>
    let x := { x with discarded := x.discarded + 1 }
    match ordCheck x h with
    | .deliver (some e) => advanceExp x src e
    | .early => { x with gone := tupd x.gone src (fun l => l ++ [fOseq h]) }
    | _ => x)

/-- An arriving request packet at e1 and e2 (R103, R114, R135, R136): its gate check comes first (R138), then the order
of its source; it is queued, discarded, or left in the ejection buffer for lack of room. DESIGN CHOICE, where R349
counts L − g lines and R350 none that is answered POISON: a write line that arrived poisoned is not counted. -/
def inboundArrive (s : State) (n : Slot) (vc : VcId) (pkt : Packet) : State :=
  if (nif s n).discarding then discardArrival s n vc pkt
  else
    let (t, pkt) := checkIn s n pkt
    let h := hd pkt
    let src : Slot := Fin.ofNat 192 (fSrc h)
    let len := pkt.length
    let ans := gateInbound s n vc pkt
    let record (s : State) : State :=
      gateRecord (gateEccLog (ejPop s n vc len) n) n false h n.val (gateKind (fOp h) false) ans
    match ordCheck (nif s n) h with
    | .late =>
      repNi (countN (record t) n 0x09) n .ordLate (fSrc h * 2 ^ 16 + (fOseq h).toNat)
    | o =>
      let early := o == .early
      let cream := vc == 4
      let g := (ans.filter (fun a => a.2.2.code != .ok)).length
      let poisoned := ((poisonedLines pkt).filter id).length
      let words := tallyPair (fTenant h) (kindOf (fCls h) true) (ans.length - g - poisoned) g
      let counted := inLines pkt ≠ 0 && !isVat (fOp h)
      if !inqRoom (nif s n) cream early len || (counted && !laneRoom s n true words.length) then s
      else
        let s := record t
        let s := if counted then putTally s n true words else s
        let s := if early then countN s n 0x0A else s
        updN s n (fun x =>
          let p : InPkt :=
            { pkt := pkt, cream := cream, early := early, epoch := epochN s n, codes := ans.map (fun a => a.2.2.code),
              bad := poisonedLines pkt, stamp := x.nextPid, arrived := x.nextPid }
          let x := { x with inq := x.inq ++ [p], nextPid := x.nextPid + 1 }
          match o with
          | .deliver (some e) => advanceExp x src e
          | _ => x)

/-- INBOUND_REQUEST (R114): the request packet at the ejection latch of VC 0, 1 or 4. -/
def execInboundRequest (n : Slot) (vc : VcId) (s : State) : Host.Outcome State Fault Refusal :=
  .next (if niRuns s n && (vc == 0 || vc == 1 || vc == 4) then
      withFront s n vc (inboundArrive s n vc)
    else s)

/-- The early packet from `src` whose sequence is nearest after E. -/
def nextEarly (x : NI) (src : Slot) (e : BitVec 10) : Option InPkt :=
  (x.inq.filter (fun p => p.early && decide (fSrc (hd p.pkt) = src.val))).foldl (fun acc p => match acc with
    | none => some p
    | some a => if seqDist (fOseq (hd p.pkt)) e < seqDist (fOseq (hd a.pkt)) e then some p else some a) none

/-- ORD_GAP (R137): a held early packet has waited ORD_GAP ticks; the gap is skipped. -/
def execOrdGap (n : Slot) (src : Slot) (s : State) : Host.Outcome State Fault Refusal :=
  let x := nif s n
  let due := x.inq.any (fun p => p.early && decide (fSrc (hd p.pkt) = src.val) &&
    decide (p.epoch + cfgN s n itOrdGap 0 ≤ epochN s n))
  .next (match tget x.exp src, (if niRuns s n && due then some () else none) with
    | some e, some () =>
      (match nextEarly x src e with
       | some p =>
         let q := fOseq (hd p.pkt)
         let s := countN s n 0x0C
         let s := repNi s n .ordGap (src.val * 2 ^ 24 + e.toNat * 2 ^ 10 + (q - 1).toNat)
         updN s n (fun x => releaseEarly (earlyFuel x src) { x with
           exp := tupd x.exp src (fun _ => some q)
           gone := tupd x.gone src (fun l => l.filter (fun g => decide (seqDist g q < 512))) } src)
       | none => s)
    | _, _ => s)

/-- R103: the request packet at the head of a request ejection buffer cannot enter its queue. -/
def queueFull (x : NI) : Bool :=
  ([0, 1, 4] : List VcId).any (fun vc => match ejFront x vc with
    | some p =>
      (match ordCheck x (hd p) with
       | .late => false
       | o => !inqRoom x (vc == 4) (o == .early) p.length)
    | none => false)

/-- INBOUND_DISCARD (R103): a full queue and an endpoint that has taken no request flit for 16 epochs. -/
def execInboundDiscard (n : Slot) (s : State) : Host.Outcome State Fault Refusal :=
  let x := nif s n
  .next (if niRuns s n && !x.discarding && decide (16 ≤ x.idle) && queueFull x then
      repNi (updN s n (fun x => { x with discarding := true })) n .inboundDiscard 0
    else s)

/-- INBOUND_DISCARD_END (R103): the endpoint accepts a request flit. -/
def execInboundDiscardEnd (n : Slot) (s : State) : Host.Outcome State Fault Refusal :=
  .next (if niRuns s n then updN s n (fun x => { x with discarding := false, idle := 0 }) else s)

end Sys2Proof.Machine
end

