-- ==== Sys2Proof/Machine/Master.lean ====
section
/-! DEFINITION. The master side of an NI (chapters 04 and 05): the rows that present requests, response arrival and
merging, delivery, fences, the response timeout and quarantine. -/

namespace Sys2Proof.Machine

/-! ### What arrives for a request -/

/-- A packet has completed in the sense of R162: fences and closes no longer wait for it. -/
def pidDone (x : NI) (pid : Nat) : NI :=
  { x with
    fences := x.fences.map (fun f => { f with wait := f.wait.filter (· != pid) })
    groups := tmap x.groups (fun _ q => { q with
      close := q.close.map (fun c => { c with wait := c.wait.filter (· != pid) }) }) }

/-- R188: a canonical write or atomic with these groups and logical epochs was lost or answered NOT_READY. -/
def markInexact (x : NI) (canon : List (GroupId × Nat)) : NI :=
  canon.foldl (fun x c => { x with groups := tupd x.groups c.1 (fun q => { q with
      inexact := if q.inexact.contains c.2 then q.inexact else q.inexact ++ [c.2]
      close := q.close.map (fun w => if lepLe c.2 w.lep then { w with inexact := true } else w) }) }) x

/-- A condition that applied to a whole packet (R63): any status that no per-line field can carry. -/
def wholeOf (st : Status) : Status :=
  match st with
  | .ok | .poison | .gateFault | .overlap => .ok
  | _ => st

/-- The result of line `j` of a piece, from a response: outbound codes first (R67), then the response's own. A read
returns lines for the admitted positions alone (R294). -/
def pieceLine (t : TagEnt) (rsp : Packet) (j : Nat) : Option LineRes :=
  let h := hd rsp
  if (t.codes.getD j .ok) != .ok then none
  else
    let read := isRead (fOp t.head)
    let k := if read then ((t.codes.take j).filter (· == .ok)).length else j
    let code := (stOfCode (field h.ctl (60 + 4 * (k % 4)) 4)).getD .poison
    let line := if read || isAtomic (fOp t.head) then lineOf (rsp.getD k zeroFlit) else zeroLine
    some { line := line, code := code, whole := wholeOf (fStatus h), src := fSrc h }

/-- R133, R140: the result of a line of a packet declared lost. -/
def lostLine (t : TagEnt) (j : Nat) : Option LineRes :=
  if (t.codes.getD j .ok) != .ok then none else some (noLine .poison .lost (fDest t.head))

/-- Fill the lines of request `t.req` that a piece brings. -/
def fillReq (x : NI) (t : TagEnt) (aux : BitVec 16) (f : Nat → Option LineRes) : NI :=
  { x with reqs := x.reqs.map (fun r =>
      if r.num = t.req then
        { r with
          aux := r.aux ||| aux
          lines := r.lines.zipIdx.map (fun (l, i) =>
            if t.base ≤ i && decide (i < t.base + t.nlines) then (f (i - t.base)).or l else l) }
      else r) }

def dropTag (x : NI) (tag : Nat) : NI := { x with tags := x.tags.filter (fun e => e.tag != tag) }

/-- R172: the release that the NI issues for a granted acquire of an orphaned tag. DESIGN CHOICE: R172 gives it the
acquire's lock and a piece tag; every other header field, which it leaves open, is the acquire's. -/
def ownRelease (x : NI) (t : TagEnt) : NI :=
  { x with
    nextPid := x.nextPid + 1
    inj := x.inj ++ [
      { pid := x.nextPid, req := 0, pkt := [setF t.head 103 6 opLkRel.toNat], base := 0, nlines := 1, codes := [.ok],
        posted := false, split := true, doorbells := [], canon := [], parity := [], own := true }] }

/-- R172: a granted LK_RESP for an acquire whose tag a reset has orphaned. -/
def orphanGrant (t : TagEnt) (rsp : Packet) : Bool :=
  t.orphan && !t.own && fOp (hd rsp) == opLkResp && fOp t.head == opLkAcq && (fAux (hd rsp)).getLsbD 0

/-- A response meets its tag (R114, R67, R184, R172). -/
def takeResponse (s : State) (n : Slot) (t : TagEnt) (rsp : Packet) : State :=
  let h := hd rsp
  let stg := !t.canon.isEmpty && isAtomic (fOp t.head) && fOp h == opWrAck
  let s := if fStatus h == .notReady && !isRead (fOp t.head) then updN s n (fun x => markInexact x t.canon) else s
  let s := if n = herdSlot && t.posted then memPiece s t.req (fStatus h) (bits h.ctl 60 16) else s
  if stg && fStatus h == .ok then
    -- the staging WR_ACK of a canonical atomic is consumed
    updN s n (fun x => pidDone { x with
      tags := x.tags.map (fun e => if e.tag = t.tag then { e with staged := true, epoch := epochN s n } else e) } t.pid)
  else
    updN s n (fun x =>
      let x := pidDone (dropTag x t.tag) t.pid
      let x := if orphanGrant t rsp then ownRelease x t else x
      if t.posted || t.own then x
      else fillReq x t (if isLock (fOp t.head) then fAux h else 0) (pieceLine t rsp))

/-- R349: the lines of a response that a host link counts as IN. -/
def inTally (n : Slot) (rsp : Packet) : List (BitVec 24) :=
  let h := hd rsp
  let op := fOp h
  if isHostLink n.val && (op == opRdData || op == opAtResult) then
    let ok := ((lstats h rsp.length).filter (· == .ok)).length
    if 0 < ok then [mkTally (fTenant h) (kindOf (fCls h) true) ok] else []
  else []

/-- RSP_ORDER of a domain as the active set holds it (R127). -/
def cfgOoo (s : State) (n : Slot) (d : Fin 3) : Bool := cfgN s n itRspOrder d.val == 1

/-- R128: a domain that holds no undelivered response takes the mode of the active set. -/
def refreshOrder (s : State) (n : Slot) : State :=
  updN s n (fun x => { x with
    rspOoo := tmap x.rspOoo (fun d b => if (tget x.order d).isEmpty then cfgOoo s n d else b) })

/-- The request numbers of responses that an endpoint reset has discarded and whose lines have all come (R144). -/
def discardedNow (x : NI) : List Nat := (x.reqs.filter (fun r => r.discard && r.lines.all (·.isSome))).map (·.num)

/-- Responses that an endpoint reset has discarded leave once all their lines have come, whatever their order, and their
slots and tags with them (R144). -/
def dropDiscarded (s : State) (n : Slot) : State :=
  let gone := discardedNow (nif s n)
  if gone.isEmpty then s
  else refreshOrder (updN s n (fun x => { x with
    reqs := x.reqs.filter (fun r => !gone.contains r.num)
    order := tmap x.order (fun _ l => l.filter (fun q => !gone.contains q)) })) n

/-- RESPONSE_ARRIVAL (R114, R141): the response at the ejection latch of VC 2, 3 or 5. -/
def execResponseArrival (n : Slot) (vc : VcId) (s : State) : Host.Outcome State Fault Refusal :=
  .next (if niRuns s n && (vc == 2 || vc == 3 || vc == 5) then
      withFront s n vc (fun rsp =>
        let t := (nif s n).tags.find? (fun e => decide (e.tag = fTag (hd rsp)) && e.injected)
        let late (s : State) : State :=
          updN (countN (ejPop s n vc rsp.length) n 0x08) n (fun x => { x with lateRsp := x.lateRsp + 1 })
        match t with
        | none => late s
        | some t =>
          if t.quarantined then
            processStore (updN (late s) n (fun x =>
              let x := dropTag x t.tag
              if orphanGrant t rsp then ownRelease x t else x)) n
          else
            let words := inTally n rsp
            if !laneRoom s n true words.length then s
            else
              let s := putTally (ejPop s n vc rsp.length) n true words
              let (s, rsp) := checkIn s n rsp
              processStore (dropDiscarded (takeResponse s n t rsp) n) n)
    else s)

/-! ### Delivery (R131, R139) -/

/-- The number of lines in the next packet of a request's response. -/
def nextCount (r : ReqEnt) : Nat := if isRead r.op then min 4 (r.lines.length - r.done) else r.lines.length

/-- The lines of the next packet, when all have come. -/
def nextLines (r : ReqEnt) : Option (List LineRes) :=
  ((r.lines.drop r.done).take (nextCount r)).foldl (fun acc l => match acc, l with
    | some a, some x => some (a ++ [x])
    | _, _ => none) (some [])

/-- The response packet for some lines of a request (R61, R63, R64, R131). -/
def deliverPkt (r : ReqEnt) (ls : List LineRes) : Packet :=
  let codes := ls.map (·.code)
  let st := worst ([r.whole] ++ codes ++ ls.map (·.whole))
  let h := setF (setF r.head 94 9 r.tag) 120 8 ((ls.head?.map (·.src)).getD (fDest r.head))
  if r.data then rspLines h (responseOf r.op) st codes r.aux (ls.map (·.line))
  else rspBare h (responseOf r.op) st codes r.aux

/-- Whether order lets a request's response go now (R139). -/
def mayDeliver (x : NI) (r : ReqEnt) : Bool :=
  match domainOf r.tag with
  | none => true
  | some d => tget x.rspOoo d || (tget x.order d).head? == some r.num

/-- A request whose response has been written leaves the NI, freeing its slot and endpoint tag. -/
def retireReq (s : State) (n : Slot) (r : ReqEnt) : State :=
  let s := updN s n (fun x => { x with
    reqs := x.reqs.filter (fun q => q.num != r.num)
    order := tmap x.order (fun _ l => l.filter (· != r.num)) })
  processStore (refreshOrder s n) n

/-- RESPONSE_DELIVERY (R131, R139): the oldest request whose next response packet is complete and in order. -/
def execResponseDelivery (n : Slot) (s : State) : Host.Outcome State Fault Refusal :=
  let x := nif s n
  .next (match (if niRuns s n && !x.closed then
      x.reqs.find? (fun r => !r.discard && mayDeliver x r && (nextLines r).isSome) else none) with
    | none => s
    | some r =>
      let p := deliverPkt r ((nextLines r).getD [])
      let s := if x.reset then s else updN (countN s n 0x04) n (fun x => putOut x (.rsp p))
      let s := if n = herdSlot then memAnswer s r.tag (fStatus (hd p)) (bits (hd p).ctl 60 16) else s
      if r.done + nextCount r < r.lines.length then
        processStore (updN s n (fun x => { x with
          reqs := x.reqs.map (fun q => if q.num = r.num then { q with done := q.done + nextCount q } else q) })) n
      else retireReq s n r)

/-! ### Fences (R161–R164) -/

/-- R163 step 1: AUX of a fence, and the counters afterwards. -/
def takeLost (x : NI) (f : Fence) : Nat × NI :=
  if f.op == opFnStoreT || f.op == opFnFullT then
    if h : f.dest < 192 then
      (tget x.lostStores ⟨f.dest, h⟩, { x with lostStores := tupd x.lostStores ⟨f.dest, h⟩ (fun _ => 0) })
    else (0, x)
  else (min 65535 (x.lostStores.toList.foldl (· + ·) 0), { x with lostStores := tabAll 192 0 })

/-- FENCE_COMPLETE (R163): the first fence whose wait set is empty. -/
def execFenceComplete (n : Slot) (s : State) : Host.Outcome State Fault Refusal :=
  let x := nif s n
  .next (match (if niRuns s n && !x.closed then x.fences.find? (fun f => f.wait.isEmpty) else none) with
    | none => s
    | some f =>
      let (aux, x) := takeLost x f
      let st : Status := if aux = 0 then .ok else .lost
      let x := { x with
        fences := x.fences.filter (fun g => g.req != f.req)
        reqs := x.reqs.map (fun r => if r.num = f.req then
          { r with aux := BitVec.ofNat 16 aux, whole := st, lines := [some (noLine .ok .ok (fDest r.head))] } else r) }
      let s := dropDiscarded (updN s n (fun _ => x)) n
      processStore (if aux = 0 then s else countN s n 0x0B) n)

/-! ### The response timeout and quarantine (R140, R141, R163, R184) -/

/-- R184: the age of a staged canonical atomic is held at zero until the commit through its logical epoch, while its
group is ACTIVE. -/
def ageHeld (x : NI) (t : TagEnt) : Bool :=
  t.staged &&
  t.canon.any (fun c =>
    let q := tget x.groups c.1
    q.state == .active && !(lepLe c.2 q.cm || q.cmNext.any (fun m => lepLe c.2 m.1)))

/-- R163: count a lost store packet against its DEST. -/
def countLost (x : NI) (t : TagEnt) : NI :=
  if isStore (fOp t.head) then
    { x with lostStores := tupd x.lostStores (Fin.ofNat 192 (fDest t.head)) (satAdd 65535 · 1) }
  else x

/-- What the declaration of a loss does to an NI (R140): the tag is quarantined and its request's lines completed. -/
def declareLost (x : NI) (t : TagEnt) : NI :=
  let x := pidDone x t.pid
  let x := countLost x t
  let x := if isRead (fOp t.head) || t.staged then x else markInexact x t.canon
  let x := { x with tags := x.tags.map (fun e => if e.tag = t.tag then { e with quarantined := true } else e) }
  if t.posted || t.own then x else fillReq x t 0 (lostLine t)

/-- TAG_LOST (R140): a tag whose age has passed STORE_LOSS at a tick. -/
def execTagLost (n : Slot) (tag : TagId) (s : State) : Host.Outcome State Fault Refusal :=
  let x := nif s n
  .next (match (if niRuns s n && !x.closed then x.tags.find? (fun e => decide (e.tag = tag.val)) else none) with
    | none => s
    | some t =>
      if t.injected && !t.quarantined && !ageHeld x t &&
         decide (t.epoch + cfgN s n itStoreLoss 0 + 1 ≤ epochN s n) then
        let s := if n = herdSlot && t.posted then memPiece s t.req .lost 0 else s
        processStore (dropDiscarded (updN (countN s n 0x07) n (fun x => declareLost x t)) n) n
      else s)

/-- QUARANTINE_END (R141): a quarantined tag whose age has passed twice STORE_LOSS at a tick. -/
def execQuarantineEnd (n : Slot) (tag : TagId) (s : State) : Host.Outcome State Fault Refusal :=
  let x := nif s n
  .next (match (if niRuns s n then x.tags.find? (fun e => decide (e.tag = tag.val)) else none) with
    | none => s
    | some t =>
      if t.quarantined && decide (t.epoch + 2 * cfgN s n itStoreLoss 0 + 1 ≤ epochN s n) then
        processStore (updN s n (fun x => dropTag x t.tag)) n
      else s)

/-! ### The rows that present requests -/

def execRdLine (n : Slot) (_k : Nat) (fetch : Bool) (pkt : Packet) (s : State) : Host.Outcome State Fault Refusal :=
  .next (present s n opRdLine fetch pkt)
def execRdSpray (n : Slot) (_k : Nat) (fetch : Bool) (pkt : Packet) (s : State) : Host.Outcome State Fault Refusal :=
  .next (present s n opRdSpray fetch pkt)
def execWrFullP (n : Slot) (_k : Nat) (pkt : Packet) (s : State) : Host.Outcome State Fault Refusal :=
  .next (present s n opWrFullP false pkt)
def execWrFullNp (n : Slot) (_k : Nat) (pkt : Packet) (s : State) : Host.Outcome State Fault Refusal :=
  .next (present s n opWrFullNp false pkt)
def execWrPartP (n : Slot) (_k : Nat) (pkt : Packet) (s : State) : Host.Outcome State Fault Refusal :=
  .next (present s n opWrPartP false pkt)
def execWrPartNp (n : Slot) (_k : Nat) (pkt : Packet) (s : State) : Host.Outcome State Fault Refusal :=
  .next (present s n opWrPartNp false pkt)
def execAtAdd (n : Slot) (_k : Nat) (pkt : Packet) (s : State) : Host.Outcome State Fault Refusal :=
  .next (present s n opAtAdd false pkt)
def execAtMin (n : Slot) (_k : Nat) (pkt : Packet) (s : State) : Host.Outcome State Fault Refusal :=
  .next (present s n opAtMin false pkt)
def execAtMax (n : Slot) (_k : Nat) (pkt : Packet) (s : State) : Host.Outcome State Fault Refusal :=
  .next (present s n opAtMax false pkt)
def execAtSwap (n : Slot) (_k : Nat) (pkt : Packet) (s : State) : Host.Outcome State Fault Refusal :=
  .next (present s n opAtSwap false pkt)
def execAtCas (n : Slot) (_k : Nat) (pkt : Packet) (s : State) : Host.Outcome State Fault Refusal :=
  .next (present s n opAtCas false pkt)
def execLkAcq (n : Slot) (_k : Nat) (pkt : Packet) (s : State) : Host.Outcome State Fault Refusal :=
  .next (present s n opLkAcq false pkt)
def execLkRel (n : Slot) (_k : Nat) (pkt : Packet) (s : State) : Host.Outcome State Fault Refusal :=
  .next (present s n opLkRel false pkt)
def execFnStoreT (n : Slot) (_k : Nat) (pkt : Packet) (s : State) : Host.Outcome State Fault Refusal :=
  .next (present s n opFnStoreT false pkt)
def execFnStoreG (n : Slot) (_k : Nat) (pkt : Packet) (s : State) : Host.Outcome State Fault Refusal :=
  .next (present s n opFnStoreG false pkt)
def execFnFullT (n : Slot) (_k : Nat) (pkt : Packet) (s : State) : Host.Outcome State Fault Refusal :=
  .next (present s n opFnFullT false pkt)
def execFnFullG (n : Slot) (_k : Nat) (pkt : Packet) (s : State) : Host.Outcome State Fault Refusal :=
  .next (present s n opFnFullG false pkt)
def execMsgIntr (n : Slot) (_k : Nat) (pkt : Packet) (s : State) : Host.Outcome State Fault Refusal :=
  .next (present s n opMsgIntr false pkt)
def execMsgMail (n : Slot) (_k : Nat) (pkt : Packet) (s : State) : Host.Outcome State Fault Refusal :=
  .next (present s n opMsgMail false pkt)
def execEpochClose (n : Slot) (_k : Nat) (pkt : Packet) (s : State) : Host.Outcome State Fault Refusal :=
  .next (present s n opEpochClose false pkt)

/-- Flits of a request whose opcode may be one that no endpoint presents; the first flit of a packet with opcode 0x3F
looks like a body flit (R68). The rows of the opcodes that an endpoint presents take those themselves. -/
def presentAny (s : State) (n : Slot) (fetch : Bool) (pkt : Packet) : State :=
  let x := nif s n
  let h := hd pkt
  if pkt.isEmpty || isHead h then present s n (fOp h) fetch pkt
  else match openOp x with
    | some op => if presentable op then s else present s n op fetch pkt
    | none =>
      if decide (0 < x.remainder) || !takesRequest s n pkt.length then s
      else pushFlits s n { op := opBody, fetch := fetch, flits := pkt }

/-- MALFORMED (R68): a request that step 1 refuses. -/
def execMalformed (n : Slot) (_k : Nat) (pkt : Packet) (s : State) : Host.Outcome State Fault Refusal :=
  .next (presentAny s n false pkt)

/-- PREMATURE_HEAD (R483): a head that finds a packet short of flits. -/
def execPrematureHead (n : Slot) (_k : Nat) (fetch : Bool) (pkt : Packet) (s : State) :
    Host.Outcome State Fault Refusal :=
  .next (if isHead (hd pkt) then present s n (fOp (hd pkt)) fetch pkt else s)

/-- The NI works on its request store. -/
def resumeStore (s : State) (n : Slot) : State :=
  if niRuns s n && !(nif s n).closed then processStore s n else s

/-- METER_HOLD_RETRY (R226): one FCLK cycle in which a request stands in the hold store. -/
def execMeterHoldRetry (n : Slot) (_k : Nat) (s : State) : Host.Outcome State Fault Refusal :=
  .next (if (nif s n).store.any PendReq.inHold then resumeStore (countN s n 0x0F) n else s)

/-- REQUEST_STEP5_RESUME (R111): the request that waits at step 5 tries again. -/
def execRequestStep5Resume (n : Slot) (_k : Nat) (s : State) : Host.Outcome State Fault Refusal :=
  .next (resumeStore s n)

/-- ENDPOINT_ABANDON (R142): at the ABANDON_EPOCHS-th tick of a stall. -/
def execEndpointAbandon (n : Slot) (s : State) : Host.Outcome State Fault Refusal :=
  let x := nif s n
  .next (if niRuns s n && x.partialReq.isSome && decide (cfgN s n itAbandon 0 ≤ x.partialTicks) then
      drawFifo x.reqFifo.length (abandon s n) n
    else s)

/-- ABANDON_REMAINDER_DISCARD (R143): a body flit of an abandoned packet is consumed. -/
def execAbandonRemainderDiscard (n : Slot) (flit : Flit) (s : State) : Host.Outcome State Fault Refusal :=
  let x := nif s n
  .next (if 0 < x.remainder && !isHead flit && takesRequest s n 1 && x.reqFifo.isEmpty then
      errRec (updN s n (fun x => { x with remainder := x.remainder - 1 })) n 2 .abandoned x.remainderOp
    else s)

end Sys2Proof.Machine
end

