-- ==== Sys2Proof/Machine/Offer.lean ====
section
/-! DEFINITION. Work that a target NI offers its endpoint (R149, R296, R484), the atomic unit (R157–R159) and the lock
table (R170, R174). -/

namespace Sys2Proof.Machine

/-! ### Offering -/

/-- The NI delivers inbound work to its endpoint, and does not answer for it (R146, R487). The Herdsman and the Can
are fabric logic and always take it. -/
def delivers (x : NI) (n : Slot) : Bool := n == herdSlot || n == canSlot || (!x.reset && x.ready)

/-- Maximal runs of positions that hold, as (first, count), ascending (R296). -/
def runsOf : Nat → List Bool → List (Nat × Nat)
  | _, [] => []
  | i, b :: bs =>
    let r := runsOf (i + 1) bs
    if b then
      match r with
      | (j, c) :: rest => if j = i + 1 then (i, c + 1) :: rest else (i, 1) :: r
      | [] => [(i, 1)]
    else r

/-- The part of a request packet that covers lines `first` to `first + count - 1`, in the same opcode with the same
masks (R296). -/
def subPkt (p : Packet) (first count : Nat) : Packet :=
  let h := hd p
  let op := fOp h
  let c := setField h.ctl 34 46 (fAddr h + first)
  if isRead op then
    [putWord (withCtl { zeroFlit with dat := 0 } (setField c 92 2 0)) 0 (BitVec.ofNat 64 (count - 1))
      (secded (BitVec.ofNat 64 (count - 1)))]
  else if isFull op then mkPacket c (((p.drop first).take count).map lineOf)
  else if isPart op then
    let mask := (List.range count).foldl (fun f i =>
      putWord f i (word h (first + i)) (chkByte h (first + i))) zeroFlit
    mkPacket c ({ data := mask.dat, chk := mask.chk, poison := false } ::
      (((p.drop (first + 1)).take count).map lineOf))
  else p

/-- The endpoint takes an inbound packet: inbound discard ends (R103). -/
def offerPkt (s : State) (n : Slot) (t : Taken) (p : Packet) : State :=
  updN s n (fun x => putOut { x with
    taken := x.taken ++ [t], idle := 0, discarding := false } (.inb p))

/-- Send a response, once the spill packets it waits for have been injected (R186). -/
def sendAfter (s : State) (n : Slot) (stamps : List Nat) (p : Packet) : State :=
  updN s n (fun x =>
    let w := stamps.filter (fun t => x.vatQ.any (fun q => q.1 = t))
    if w.isEmpty then queueRsp x p else { x with spillAcks := x.spillAcks ++ [(w, p)] })

/-- The answer to a request whose lines have these results (R63, R64). -/
def answerOf (p : Packet) (rs : List LineRes) (whole : Status) : Packet :=
  rspOf (hd p) (rs.map (·.code)) whole 0 (rs.map (·.line))

/-- Offer the runs of a request one after another; with none left, answer it (R296). -/
def offerRuns (s : State) (n : Slot) (p : Packet) (rs : List LineRes) (whole : Status) (after : List Nat)
    (runs : List (Nat × Nat)) : State :=
  match runs with
  | [] => sendAfter s n after (answerOf p rs whole)
  | (i, c) :: rest =>
    offerPkt s n
      { kind := .request, pkt := p, tag := fTag (hd p), results := rs, first := i, count := c, rest := rest,
        whole := whole, after := after }
      (subPkt p i c)

/-- The result of a position that is not offered: the gate's code, POISON for a line that arrived poisoned, or OK for
one handled elsewhere. -/
def ownRes (code : Status) : LineRes := noLine code .ok 0

/-! ### The atomic unit (R157–R159) -/

/-- An atomic's operands (R57, R58): 16-byte size, signed comparison, index of its lower word, operand, compare
value. -/
structure AtomArgs where
  wide : Bool
  signed : Bool
  ix : Nat
  op : BitVec 128
  cmp : BitVec 128
deriving DecidableEq, Repr

def pairOf (lo hi : Word) : BitVec 128 := hi ++ lo

def atomArgs (h : Flit) : AtomArgs :=
  let w := word h 0
  let wide := w.getLsbD 3
  let i := field w 0 3
  { wide := wide, signed := w.getLsbD 4, ix := if wide then i / 2 * 2 else i,
    op := pairOf (word h 1) (if wide then word h 2 else 0),
    cmp := pairOf (word h 3) (if wide then word h 4 else 0) }

/-- The addressed word, or pair, of a line. -/
def oldOf (a : AtomArgs) (d : BitVec 512) : BitVec 128 :=
  pairOf (lineWord d a.ix) (if a.wide then lineWord d (a.ix + 1) else 0)

/-- Comparison at the atomic's size, signed or not (R158). -/
def atomLt (a : AtomArgs) (x y : BitVec 128) : Bool :=
  if a.wide then (if a.signed then x.slt y else x.ult y)
  else if a.signed then (x.setWidth 64).slt (y.setWidth 64) else (x.setWidth 64).ult (y.setWidth 64)

/-- R158: the value to write back, when there is a write-back. -/
def atomNew (op : BitVec 6) (a : AtomArgs) (old : BitVec 128) : Option (BitVec 128) :=
  if op == opAtAdd then
    some (if a.wide then old + a.op else (old.setWidth 64 + a.op.setWidth 64).setWidth 128)
  else if op == opAtMin then (if atomLt a a.op old then some a.op else none)
  else if op == opAtMax then (if atomLt a old a.op then some a.op else none)
  else if op == opAtSwap then some a.op
  else (if old = a.cmp then some a.op else none)

/-- A word written back over a line, and the byte mask of the words concerned. -/
def atomPut (a : AtomArgs) (v : BitVec 128) : BitVec 512 × BitVec 64 :=
  let d := setLineWord 0 a.ix (v.setWidth 64)
  if a.wide then (setLineWord d (a.ix + 1) (bits v 64 64), BitVec.ofNat 64 (65535 * 2 ^ (8 * a.ix)))
  else (d, BitVec.ofNat 64 (255 * 2 ^ (8 * a.ix)))

/-- The data of an AT_RESULT (R65): the old value in words 0 and 1. -/
def atomData (a : AtomArgs) (old : BitVec 128) : BitVec 512 :=
  let d := setLineWord 0 0 (old.setWidth 64)
  if a.wide then setLineWord d 1 (bits old 64 64) else d

/-- AT_RESULT (R65, R159). -/
def atResult (h : Flit) (st : Status) (l : Line) : Packet :=
  rspOf h [match st with
    | .ok => Status.ok
    | .gateFault => .gateFault
    | .overlap => .overlap
    | _ => .poison] (wholeOf st) 0 [l]

/-- The read that step 1 of R157 offers. -/
def atomRead (p : Packet) : Packet :=
  [withCtl { zeroFlit with dat := 0 } (setField (setField (hd p).ctl 103 6 opRdLine.toNat) 92 2 0)]

/-- Take an entry for an atomic and offer its read. -/
def atomStart (s : State) (n : Slot) (p : Packet) (staged : Option (GroupId × Nat)) : State :=
  let x := nif s n
  let e : AtomEnt :=
    { num := x.nextAtom, pkt := p, phase := 0, old := zeroLine, fresh := 0, stagedIdx := staged }
  offerPkt (updN s n (fun x => { x with atoms := x.atoms ++ [e], nextAtom := x.nextAtom + 1 })) n
    { kind := .atomicRead e.num, pkt := p, tag := fTag (hd p), results := [], first := 0, count := 1, rest := [],
      whole := .ok, after := [] } (atomRead p)

/-- The masked write that step 3 of R157 offers. -/
def atomWrite (p : Packet) (d : BitVec 512) (mask : BitVec 64) : Packet :=
  mkPacket (setField (hd p).ctl 103 6 opWrPartNp.toNat)
    [goodLine (mask.setWidth 512), goodLine d]

def dropAtom (x : NI) (num : Nat) : NI :=
  { x with
    atoms := x.atoms.filter (fun e => e.num != num)
    taken := x.taken.filter (fun t => t.kind != .atomicRead num && t.kind != .atomicWrite num) }

/-- How an atomic ended: still waiting for its write-back, ended with an AT_RESULT, or to be performed again from step 1
when release resumes (R159, R196). -/
inductive AtomEnd where
  | waits | ends (p : Packet) | again
deriving DecidableEq, Repr

/-- The addressed words as read, corrected where they can be (R42); none where one is uncorrectable. -/
def atomWords (a : AtomArgs) (l : Line) : Option (BitVec 512) :=
  (List.range (if a.wide then 2 else 1)).foldl (fun acc i => match acc with
    | none => none
    | some d =>
      match eccDecode (lineWord l.data (a.ix + i)) (l.chk.extractLsb' (8 * (a.ix + i)) 8) with
      | .clean => some d
      | .corrected w _ => some (setLineWord d (a.ix + i) w)
      | .bad => none) (some l.data)

/-- Step 2 of R157: the read has been answered. The write-back is offered only while the NI delivers: it is otherwise
answered NOT_READY for the endpoint (R146, R159, R487). -/
def atomReadDone (s : State) (n : Slot) (e : AtomEnt) (l : Line) (st : Status) : State × AtomEnd :=
  let h := hd e.pkt
  let a := atomArgs h
  let gone := updN s n (fun x => dropAtom x e.num)
  if st = .notReady then
    (gone, if e.stagedIdx.isSome then .again else .ends (atResult h .notReady zeroLine))
  else
    match (if l.poison || st != .ok then none else atomWords a l) with
    | none => (gone, .ends (atResult h .poison { goodLine (atomData a (oldOf a l.data)) with poison := true }))
    | some d =>
      let old := oldOf a d
      match atomNew (fOp h) a old with
      | none => (gone, .ends (atResult h .ok (goodLine (atomData a old))))
      | some v =>
        if !delivers (nif s n) n then
          (gone, if e.stagedIdx.isSome then .again else .ends (atResult h .notReady zeroLine))
        else
        let (w, mask) := atomPut a v
        let s := updN s n (fun x => { x with
          atoms := x.atoms.map (fun q => if q.num = e.num then { q with phase := 1, old := goodLine d, fresh := w }
            else q)
          taken := x.taken.filter (fun t => t.kind != .atomicRead e.num) })
        (offerPkt s n
          { kind := .atomicWrite e.num, pkt := e.pkt, tag := fTag h, results := [], first := 0, count := 1, rest := [],
            whole := .ok, after := [] } (atomWrite e.pkt w mask), .waits)

/-- Step 4 of R157: the write-back has been answered. -/
def atomWriteDone (s : State) (n : Slot) (e : AtomEnt) (st : Status) : State × AtomEnd :=
  let h := hd e.pkt
  let a := atomArgs h
  let l := goodLine (atomData a (oldOf a e.old.data))
  let s := updN s n (fun x => dropAtom x e.num)
  match st with
  | .ok => (s, .ends (atResult h .ok l))
  | .notReady => (s, if e.stagedIdx.isSome then .again else .ends (atResult h .notReady zeroLine))
  | _ => (s, .ends (atResult h .poison { l with poison := true }))

/-! ### The lock table (R170, R174) -/

def lockWordOf (h : Flit) : Nat := field (word h 0) 3 3
def lockAt (x : NI) (line w : Nat) : Option LockEnt := x.locks.find? (fun e => e.line == line && e.word == w)
def lockKey (line w : Nat) (e : LockEnt) : Bool := e.line == line && e.word == w

def lockRsp (h : Flit) (st : Status) (yes : Bool) : Packet :=
  rspBare h opLkResp st [if st = .ok || st = .broken then .ok else .poison] (if yes then 1 else 0)

def logLock (s : State) (n : Slot) (ev : EventCode) (who line w : Nat) : State :=
  repNi s n ev (who * 2 ^ 16 + w) line

/-- R170: an acquire at the table. -/
def lockAcquire (s : State) (n : Slot) (h : Flit) : State :=
  let x := nif s n
  let line := fAddr h
  let w := lockWordOf h
  let src : Slot := Fin.ofNat 192 (fSrc h)
  let e : LockEnt := { line := line, word := w, owner := some src, gen := tget x.gens src, epoch := epochN s n }
  let granted (st : Status) : Status := if x.lockReopen.isSome then .broken else st
  match lockAt x line w with
  | none =>
    if 64 ≤ x.locks.length then sendRsp s n (lockRsp h .notReady false)
    else sendRsp (updN s n (fun x => { x with locks := x.locks ++ [e] })) n (lockRsp h (granted .ok) true)
  | some q =>
    if q.owner.isSome then sendRsp s n (lockRsp h .ok false)
    else sendRsp (updN s n (fun x => { x with locks := updFirst (lockKey line w) (fun _ => e) x.locks })) n
      (lockRsp h .broken true)

/-- R170: a release at the table. -/
def lockRelease (s : State) (n : Slot) (h : Flit) : State :=
  let x := nif s n
  let line := fAddr h
  let w := lockWordOf h
  match (lockAt x line w).bind (·.owner) with
  | some o =>
    if o.val = fSrc h then
      sendRsp (updN s n (fun x => { x with locks := x.locks.filter (fun e => !lockKey line w e) })) n
        (lockRsp h .ok true)
    else logLock (sendRsp s n (lockRsp h .ok false)) n .lockNotOwner (fSrc h) line w
  | none => logLock (sendRsp s n (lockRsp h .ok false)) n .lockNotOwner (fSrc h) line w

/-- Break the locks that `p` picks: the owner is cleared and the event logged (R170). -/
def breakLocks (s : State) (n : Slot) (ev : EventCode) (p : LockEnt → Bool) : State :=
  let hit := (nif s n).locks.filter (fun e => e.owner.isSome && p e)
  hit.foldl (fun s e => logLock s n ev ((e.owner.map (·.val)).getD 0) e.line e.word)
    (updN s n (fun x => { x with
      locks := x.locks.map (fun e => if e.owner.isSome && p e then { e with owner := none } else e) }))

/-- LOCK_LEASE (R170): at a tick, every lock held LOCK_LEASE epochs. -/
def execLockLease (n : Slot) (s : State) : Host.Outcome State Fault Refusal :=
  let lease := cfgN s n itLockLease 0
  .next (if niRuns s n && lease != 0 then
      breakLocks s n .lockLease (fun e => decide (e.epoch + lease ≤ epochN s n))
    else s)

/-- An NI takes up the generation of slot `o` that the Herdsman relays (R169, R170, R458). -/
def takeGeneration (s : State) (n o : Slot) : State :=
  let g := tget s.herd.gens o
  if tget (nif s n).gens o != g then
    let s := updN s n (fun x => { x with
      gens := tupd x.gens o (fun _ => g)
      exp := if tget s.herd.resync o then tupd x.exp o (fun _ => none) else x.exp })
    breakLocks s n .lockBreak (fun e => e.owner == some o)
  else s

/-- OWNER_GENERATION_CHANGE (R169, R170, R458): the relayed generation of slot `o` reaches an NI. -/
def execOwnerGenerationChange (n : Slot) (o : Slot) (s : State) : Host.Outcome State Fault Refusal :=
  .next (if niRuns s n && niReached s n then takeGeneration s n o else s)

/-- LOCK_REOPEN_WINDOW_END (R174). -/
def execLockReopenWindowEnd (n : Slot) (s : State) : Host.Outcome State Fault Refusal :=
  .next (match (nif s n).lockReopen with
    | some e =>
      if niRuns s n && decide (e + cfgN s n itStoreLoss 0 + 1 ≤ epochN s n) then
        updN s n (fun x => { x with lockReopen := none })
      else s
    | none => s)

end Sys2Proof.Machine
end

