-- ==== Sys2Proof/Machine/Curd.lean ====
section
/-! DEFINITION. Curd mode (chapter 06): staging at a target, the Vat, closes, the commit coordinator, release in
canonical order. -/

namespace Sys2Proof.Machine

def grpOf (x : NI) (g : GroupId) : NiGroup := tget x.groups g
def updG (s : State) (n : Slot) (g : GroupId) (f : NiGroup → NiGroup) : State :=
  updN s n (fun x => { x with groups := tupd x.groups g f })

/-! ### Judging a line at the target (R186, R187, R528) -/

inductive Judge where
  | ordinary
  | stage (g : GroupId) (l : Nat)
  | serve
  | wait
  | refuse (code : Status) (ev : EventCode) (g : GroupId) (l : Nat)
deriving DecidableEq, Repr

/-- Release of logical epoch `l` has begun. -/
def begun (q : NiGroup) (l : Nat) : Bool :=
  match q.releasing with
  | some m => lepLe l m
  | none => false

def memberOf (s : State) (g : GroupId) (src : Nat) : Bool := (tget s.herd.groups g).members.getLsbD src

/-- A line of a write or atomic (R186, R528). -/
def judgeWrite (s : State) (n : Slot) (h : Flit) (line : Nat) : Judge :=
  match canonGroup s line with
  | none => .ordinary
  | some g =>
    let q := grpOf (nif s n) g
    let l := lepFull q.ct (fLepoch h).toNat
    if !memberOf s g (fSrc h) then .refuse .gateFault .curdNonmember g l
    else if q.state == .failed then .refuse .gateFault .curdFailed g l
    else if !q.target then .refuse .gateFault .curdNotTarget g l
    else if lepLe l q.ct || begun q l then .refuse .gateFault .curdLate g l
    else .stage g l

/-- A line of a read (R187, R528). -/
def judgeRead (s : State) (n : Slot) (h : Flit) (line : Nat) : Judge :=
  match canonGroup s line with
  | none => .ordinary
  | some g =>
    let q := grpOf (nif s n) g
    let l := lepFull q.ct (fLepoch h).toNat
    if !memberOf s g (fSrc h) then .ordinary
    else if q.state == .failed then .refuse .gateFault .curdFailed g l
    else if !q.target then .refuse .gateFault .curdNotTarget g l
    else if lepLe l q.ct || begun q l then .refuse .poison .curdLate g l
    else if lepAdd q.ct 1 = l then .serve else .wait

/-- Log what was refused (R186, R187). -/
def logJudges (s : State) (n : Slot) (src : Nat) (js : List Judge) : State :=
  js.foldl (fun s j => match j with
    | .refuse _ ev g l => repCurd s n ev g src l
    | _ => s) s

/-! ### The Vat (R197–R199) -/

/-- Line address of position `pos` of an NI's slice. -/
def vatLine (q : NiGroup) (pos : Nat) : Nat :=
  q.vatBase * 64 + q.rank * q.vatSlice * 2 + pos % (max 1 q.vatSlice) * 2

/-- The metadata line of R198. -/
def metaLine (e : StageEnt) : BitVec 512 :=
  let a := word e.head 0
  let at_ := isAtomic e.op
  let w0 : Word := setField (setField (setField (setField 0 63 1 1) 56 6 e.op.toNat) 48 8 e.src) 0 46 e.line
  let w2 : Word := setField (setField 0 0 32 e.idx) 47 12 (fTenant e.head)
  let w2 := if at_ then
      setField (setField (setField (setField w2 32 9 (fTag e.head)) 42 3 (field a 0 3)) 45 1 (a.getLsbD 3).toNat) 46 1
        (a.getLsbD 4).toNat
    else w2
  let d := setLineWord (setLineWord (setLineWord (setLineWord 0 0 w0) 1 (BitVec.ofNat 64 e.lep)) 2 w2) 3 e.mask
  if at_ then
    setLineWord (setLineWord (setLineWord (setLineWord d 4 (word e.head 1)) 5 (word e.head 2)) 6 (word e.head 3)) 7
      (word e.head 4)
  else d

/-- The head of a staged access, from its record (R198): source, opcode, TENANT and line; of an atomic also its tag and
operand words. `base` gives the fields that the record does not hold and R61 copies. -/
def recordHead (base : BitVec 128) (m : Line) : Flit :=
  let w0 := lineWord m.data 0
  let w2 := lineWord m.data 2
  let op := bits w0 56 6
  let c := setField (setField (setField (setField base 112 8 (field w0 48 8)) 103 6 op.toNat) 80 12 (field w2 47 12)) 34 46
    (field w0 0 46)
  if isAtomic op then
    mkFlit (setField c 94 9 (field w2 32 9))
      [BitVec.ofNat 64 (field w2 42 3 + field w2 45 1 * 8 + field w2 46 1 * 16), lineWord m.data 4, lineWord m.data 5,
       lineWord m.data 6, lineWord m.data 7]
  else withCtl zeroFlit c

/-- A record read back (R198); `heads` holds the heads of spilled atomics. -/
def entOfRecord (g : GroupId) (heads : List (Nat × Flit)) (m d : Line) : StageEnt :=
  let w0 := lineWord m.data 0
  let idx := field (lineWord m.data 2) 0 32
  { group := g, lep := field (lineWord m.data 1) 0 48, src := field w0 48 8, idx := idx, op := bits w0 56 6,
    line := field w0 0 46, mask := lineWord m.data 3, data := d,
    head := recordHead (((heads.find? (fun h => h.1 == idx)).map (·.2.ctl)).getD 0) m, sent := false, ue := false,
    ueMeta := false }

/-- Header of a packet to the group's Vat (R197): DEST VAT_SLOT, VC 7, SPRAY 0. -/
def vatCtl (n : Slot) (q : NiGroup) (op : BitVec 6) (pos : Nat) : BitVec 128 :=
  setField (mkCtl q.vatSlot n.val 7 op) 34 46 (vatLine q pos)

def recordOf (e : StageEnt) : List Line := [goodLine (metaLine e), e.data]

/-- Write records at consecutive positions, two to a packet where they are neighbours in the ring (R197); the stamps of
the packets. -/
def spillAt (n : Slot) (q : NiGroup) : NI → Nat → List StageEnt → NI × List Nat
  | x, _, [] => (x, [])
  | x, pos, [e] => (queueVat x (mkPacket (vatCtl n q opVatSpill pos) (recordOf e)), [x.nextPid])
  | x, pos, e :: f :: rest =>
    if (pos + 1) % (max 1 q.vatSlice) ≠ 0 then
      let r := spillAt n q (queueVat x (mkPacket (vatCtl n q opVatSpill pos) (recordOf e ++ recordOf f))) (pos + 2) rest
      (r.1, x.nextPid :: r.2)
    else
      let r := spillAt n q (queueVat x (mkPacket (vatCtl n q opVatSpill pos) (recordOf e))) (pos + 1) (f :: rest)
      (r.1, x.nextPid :: r.2)

/-- Spill entries of one group at the head of its slice. -/
def spill (s : State) (n : Slot) (g : GroupId) (es : List StageEnt) : State × List Nat :=
  let x := nif s n
  let q := grpOf x g
  let r := spillAt n q x q.vatHead es
  let leps := es.foldl (fun l e => if l.contains e.lep then l else l ++ [e.lep]) q.vatLeps
  let s := updN s n (fun _ => { r.1 with
    spilledHeads := r.1.spilledHeads ++ (es.filter (fun e => isAtomic e.op)).map (fun e => (e.idx, e.head))
    groups := tupd r.1.groups g (fun q => { q with
      vatHead := q.vatHead + es.length, vatLeps := leps
      vatRecs := q.vatRecs ++ es.zipIdx.map (fun (e, i) => (q.vatHead + i, e.lep)) }) })
  (countN s n 0x17 none none es.length, r.2)

def sliceRoom (q : NiGroup) : Nat := q.vatSlice - (q.vatHead - q.vatTail)

/-! ### Staging (R185, R186) -/

/-- Room for entries of these groups, in order: the stage's free entries first, then each group's slice. During a
selection pass a group's arrivals are spilled (R199). -/
def stageFits (x : NI) (gs : List GroupId) : Bool :=
  let free := 512 - x.stage.length
  let r := gs.foldl (fun (acc : Nat × List GroupId) g =>
    if 0 < acc.1 && (grpOf x g).pass.isNone then (acc.1 - 1, acc.2) else (acc.1, acc.2 ++ [g])) (free, [])
  r.2.all (fun g => decide ((r.2.filter (· == g)).length ≤ sliceRoom (grpOf x g)))

/-- Stage one entry, or leave it to be spilled. -/
def stageOne (s : State) (n : Slot) (e : StageEnt) : State × Option StageEnt :=
  let x := nif s n
  let e := { e with idx := x.arrival.toNat }
  let s := updN s n (fun x => { x with arrival := x.arrival + 1 })
  if x.stage.length < 512 && (grpOf x e.group).pass.isNone then
    (countN (updN s n (fun x => { x with stage := x.stage ++ [e] })) n 0x16, none)
  else (s, some e)

/-- Stage entries in arrival order and spill the rest; the stamps of the spill packets. -/
def stageAll (s : State) (n : Slot) (es : List StageEnt) : State × List Nat :=
  let r := es.foldl (fun (acc : State × List StageEnt) e =>
    let (s, o) := stageOne acc.1 n e
    (s, acc.2 ++ o.toList)) (s, [])
  let gs := (r.2.map (·.group)).dedup
  gs.foldl (fun (acc : State × List Nat) g =>
    let (s, l) := spill acc.1 n g (r.2.filter (fun e => e.group == g))
    (s, acc.2 ++ l)) (r.1, [])

/-- The write that an entry makes: MSG_INTR stores its word under a mask of its eight bytes. -/
def lineWrite (p : Packet) (i : Nat) : Line × BitVec 64 :=
  let h := hd p
  if fOp h == opMsgIntr then
    let w := field (word h 1) 0 3
    ({ data := setLineWord 0 w (word h 0), chk := setField 0 (8 * w) 8 (chkByte h 0).toNat, poison := fPoison h },
     BitVec.ofNat 64 (255 * 2 ^ (8 * w)))
  else (writeLines (fOp h) p).getD i (zeroLine, 0)

/-- A deliverable write or message leaves the inbound queue (R186, R296). -/
def takeWrite (s : State) (n : Slot) (p : InPkt) : State :=
  let h := hd p.pkt
  let op := fOp h
  let js : List Judge := (List.range p.codes.length).map (fun i =>
    if p.codes.getD i .ok != .ok || p.bad.getD i false || op == opMsgMail then .ordinary
    else judgeWrite s n h ((fAddr h + i) % 2 ^ 46))
  let s := logJudges s n (fSrc h) js
  let stg := js.zipIdx.filterMap (fun (j, i) => match j with
    | .stage g l => some (i, g, l)
    | _ => none)
  let code (i : Nat) : Status :=
    if p.codes.getD i .ok != .ok then p.codes.getD i .ok
    else if p.bad.getD i false then .poison
    else match js.getD i .ordinary with
      | .refuse c _ _ _ => c
      | _ => .ok
  let codes := (List.range p.codes.length).map code
  match stg with
  | (_, g0, l0) :: _ =>
    if !stageFits (nif s n) (stg.map (fun e => e.2.1)) then
      sendRsp (repCurd s n .curdOverflow g0 (fSrc h) l0) n (refuseAll { p with codes := codes } .notReady)
    else
      let es : List StageEnt := stg.map (fun (i, g, l) =>
        let (d, m) := lineWrite p.pkt i
        { group := g, lep := l, src := fSrc h, idx := 0, op := op, line := (fAddr h + i) % 2 ^ 46, mask := m, data := d,
          head := h, sent := false, ue := false, ueMeta := false })
      let (s, stamps) := stageAll s n es
      let offer := (List.range codes.length).map (fun i =>
        codes.getD i .ok == .ok && js.getD i .ordinary == .ordinary)
      offerRuns s n p.pkt (codes.map ownRes) .ok stamps (runsOf 0 offer)
  | [] =>
    offerRuns s n p.pkt (codes.map ownRes) .ok []
      (runsOf 0 (codes.map (· == .ok)))

/-- A deliverable atomic leaves the inbound queue (R157, R184, R186). -/
def takeAtomic (s : State) (n : Slot) (p : InPkt) : State :=
  let h := hd p.pkt
  let code := p.codes.headD .ok
  if code != .ok then sendRsp s n (atResult h code zeroLine)
  else
    let j := judgeWrite s n h (fAddr h)
    let s := logJudges s n (fSrc h) [j]
    match j with
    | .refuse c _ _ _ => sendRsp s n (atResult h c zeroLine)
    | .stage g l =>
      if !stageFits (nif s n) [g] then
        sendRsp (repCurd s n .curdOverflow g (fSrc h) l) n (atResult h .notReady zeroLine)
      else
        let (s, stamps) := stageAll s n [
          { group := g, lep := l, src := fSrc h, idx := 0, op := fOp h, line := fAddr h, mask := 0,
            data := { data := 0, chk := 0, poison := false }, head := h, sent := false, ue := false, ueMeta := false }]
        sendAfter s n stamps (rspBare h opWrAck .ok [.ok] 0)
    | _ => atomStart s n p.pkt none

/-- What a read's lines come to now: none while a line has to wait (R187). -/
def readReady (s : State) (n : Slot) (p : InPkt) : Option (List Judge) :=
  let h := hd p.pkt
  let js : List Judge := p.codes.zipIdx.map (fun (c, i) =>
    if c != .ok then .ordinary else judgeRead s n h ((fAddr h + i) % 2 ^ 46))
  if js.any (· == .wait) then none else some js

/-- Offer a read whose lines are all servable or refused (R187, R296). -/
def offerRead (s : State) (n : Slot) (p : InPkt) (js : List Judge) : State :=
  let s := logJudges s n (fSrc (hd p.pkt)) js
  let codes := p.codes.zipIdx.map (fun (c, i) =>
    if c != .ok then c
    else match js.getD i .ordinary with
      | .refuse c _ _ _ => c
      | _ => .ok)
  offerRuns s n p.pkt (codes.map ownRes) .ok [] (runsOf 0 (codes.map (· == .ok)))

/-- A deliverable read leaves the inbound queue (R187). -/
def takeRead (s : State) (n : Slot) (p : InPkt) : State :=
  match readReady s n p with
  | some js => offerRead s n p js
  | none =>
    if (nif s n).readWait.length < 32 then updN s n (fun x => { x with readWait := x.readWait ++ [p] })
    else sendRsp s n (refuseAll p .notReady)

/-- An atomic is in progress on a line (R157). -/
def atomOn (x : NI) (line : Nat) : Bool := x.atoms.any (fun e => decide (fAddr (hd e.pkt) = line))

/-- Reads of the read-wait store whose condition holds, in arrival order (R187, R528); none is offered while an atomic is
in progress on one of its lines (R157). -/
def serveWaiting (s : State) (n : Slot) : State :=
  (nif s n).readWait.foldl (fun s p =>
    match (if (List.range p.codes.length).any (fun i => atomOn (nif s n) ((fAddr (hd p.pkt) + i) % 2 ^ 46)) then none
      else readReady s n p) with
    | none => s
    | some js =>
      let s := updN s n (fun x => { x with readWait := x.readWait.filter (fun q => q.stamp != p.stamp) })
      if delivers (nif s n) n then offerRead s n p js else sendRsp s n (refuseAll p .notReady)) s

/-! ### Release (R194–R199) -/

/-- Canonical order: source slot, then arrival index (R185). -/
def entBefore (a b : StageEnt) : Bool :=
  decide (a.src < b.src) || (decide (a.src = b.src) && decide (a.idx ≤ b.idx))

/-- The entries of a logical epoch of a group, in canonical order. -/
def epochEnts (x : NI) (g : GroupId) (l : Nat) : List StageEnt :=
  sortBy entBefore (x.stage.filter (fun e => e.group == g && e.lep == l))

def isEnt (g : GroupId) (idx : Nat) (e : StageEnt) : Bool := e.group == g && e.idx == idx

/-- The write of a staged entry (R194), under a TAG that the manual leaves open. -/
def releasePkt (n : Slot) (e : StageEnt) (tag : BitVec 9) : Packet :=
  let c := setField (mkCtl n.val e.src 0 (if e.mask = BitVec.allOnes 64 then opWrFullNp else opWrPartNp)) 80 12
    (fTenant e.head)
  let c := setField (setField (setField c 34 46 e.line) 31 1 1) 94 9 tag.toNat
  let d := { e.data with poison := e.data.poison || e.ue }
  if e.mask = BitVec.allOnes 64 then mkPacket c [d]
  else mkPacket c [goodLine (e.mask.setWidth 512), d]

/-- Offer one entry of a release; `none` when it has to wait for an atomic-unit entry. -/
def releaseOne (s : State) (n : Slot) (g : GroupId) (e : StageEnt) : Option State :=
  let mark (s : State) : State := updN s n (fun x => { x with
    stage := x.stage.map (fun q => if isEnt g e.idx q then { q with sent := true } else q) })
  if e.ueMeta then
    -- R437: the entry is skipped
    some (repNi (updN s n (fun x => { x with stage := x.stage.filter (fun q => !isEnt g e.idx q) })) n .curdStageEcc
      (g.val * 2 ^ 24 + e.idx % 65536) e.lep)
  else if isAtomic e.op then
    if 16 ≤ (nif s n).atoms.length then none
    else some (atomStart (mark s) n [e.head] (some (g, e.idx)))
  else
    let tag := Config.workTag s.drawn
    let s := { mark s with drawn := s.drawn + 1 }
    some (offerPkt s n
      { kind := .release g e.idx, pkt := [e.head], tag := tag.toNat, results := [], first := 0, count := 1, rest := [],
        whole := .ok, after := [] } (releasePkt n e tag))

/-- Offer the entries of a logical epoch in canonical order: an entry waits for an earlier one to its line, and the
ones behind it with it (R194). -/
def offerEnts (s : State) (n : Slot) (g : GroupId) : List StageEnt → List Nat → State
  | [], _ => s
  | e :: rest, lines =>
    if e.sent then offerEnts s n g rest (e.line :: lines)
    else if lines.contains e.line then s
    else match releaseOne s n g e with
      | none => s
      | some s => offerEnts s n g rest (if e.ueMeta then lines else e.line :: lines)

/-- Ask for the next records of a selection pass (R199): one VAT_DRAIN outstanding to a Vat, with its answer reserved
(R101, R118); positions without a valid record are passed over. -/
def askRecords (s : State) (n : Slot) (g : GroupId) (q : NiGroup) (p : VatPass) : State :=
  let x := nif s n
  let busy := x.tags.any (fun t => fOp t.head == opVatDrain && !t.quarantined && fDest t.head == q.vatSlot)
  let two := decide (p.pos + 1 < p.stop) && (p.pos + 1) % (max 1 q.vatSlice) != 0 && !q.vatInvalid.contains (p.pos + 1)
  let nrec := if two then 2 else 1
  match (if busy || decide (512 < respLines x + 2 * nrec) then none else freeTag x 448 64) with
  | none => s
  | some t =>
    let c := setField (setField (vatCtl n q opVatDrain p.pos) 94 9 t) 92 2 0
    let pkt : Packet := [mkFlit c [BitVec.ofNat 64 (2 * nrec - 1)]]
    updN s n (fun x =>
      let e : TagEnt :=
        { tag := t, pid := x.nextPid, req := g.val, quarantined := false, orphan := false, injected := true,
          epoch := epochN s n, head := hd pkt, base := p.pos, nlines := nrec, codes := [], posted := false, split := true,
          lines := 2 * nrec, canon := [], staged := false, own := true }
      { queueVat x pkt with tags := x.tags ++ [e] })

/-- The end of a pass: taken positions lose their VALID bit and the tail moves past leading invalid records. -/
def endPass (s : State) (n : Slot) (g : GroupId) (l : Nat) (p : VatPass) : State :=
  let q0 := grpOf (nif s n) g
  let s := p.took.foldl (fun s pos =>
    updN s n (fun x => queueVat x (mkPacket (vatCtl n q0 opVatSpill pos) [goodLine 0]))) s
  updG s n g (fun q =>
    let inv := q.vatInvalid ++ p.took
    let lead := ((List.range (q.vatHead - q.vatTail)).takeWhile (fun i => inv.contains (q.vatTail + i))).length
    { q with
      pass := none
      vatLeps := if p.left = 0 then q.vatLeps.filter (· != l) else q.vatLeps
      vatRecs := q.vatRecs.filter (fun r => !p.took.contains r.1)
      vatTail := q.vatTail + lead
      vatInvalid := inv.filter (fun i => decide (q.vatTail + lead ≤ i)) })

/-- Carry a selection pass on: the next read, or its end. -/
def passStep : Nat → State → Slot → GroupId → Nat → State
  | 0, s, _, _, _ => s
  | fuel + 1, s, n, g, l =>
    let q := grpOf (nif s n) g
    match q.pass with
    | none => s
    | some p =>
      if p.stop ≤ p.pos then endPass s n g l p
      else if q.vatInvalid.contains p.pos then
        passStep fuel (updG s n g (fun q => { q with pass := some { p with pos := p.pos + 1 } })) n g l
      else askRecords s n g q p

def beginPass (q : NiGroup) : NiGroup :=
  { q with pass := some { pos := q.vatTail, stop := q.vatHead, left := 0, took := [], least := none } }

/-- Whatever release can do now (R194–R199). -/
def pump (s : State) (n : Slot) (g : GroupId) : State :=
  let x := nif s n
  let q := grpOf x g
  match (if q.state == .active && delivers x n then q.releasing else none) with
  | none => s
  | some l =>
    let s := if q.pass.isSome then passStep (q.vatHead - q.vatTail + 1) s n g l else s
    if (grpOf (nif s n) g).pass.isSome then s
    else
      let es := epochEnts (nif s n) g l
      let s := offerEnts s n g es []
      if (epochEnts (nif s n) g l).isEmpty && (grpOf (nif s n) g).vatLeps.contains l then
        let s := updG s n g beginPass
        passStep ((grpOf (nif s n) g).vatHead - (grpOf (nif s n) g).vatTail + 1) s n g l
      else s

/-- Begin the release of the next logical epoch, where the release runs through it (R194, R199). -/
def beginRelease (s : State) (n : Slot) (g : GroupId) : State :=
  let q := grpOf (nif s n) g
  if q.releasing.isNone && lepLt q.ct q.through then
    let l := lepAdd q.ct 1
    let s := updG s n g (fun q =>
      let q := { q with releasing := some l }
      if q.vatLeps.contains l then beginPass q else q)
    pump s n g
  else s

/-- A staged entry has been performed, or is to be offered again (R195, R196). -/
def entDone (s : State) (n : Slot) (g : GroupId) (idx : Nat) (again : Bool) : State :=
  let s := updN s n (fun x => { x with
    stage := if again then x.stage.map (fun e => if isEnt g idx e then { e with sent := false } else e)
             else x.stage.filter (fun e => !isEnt g idx e) })
  if again then s else pump s n g

/-- How an atomic's end is passed on: AT_RESULT, and for a staged one its entry (R157, R195). -/
def atomEnd (s : State) (n : Slot) (e : AtomEnt) (r : AtomEnd) : State :=
  match r with
  | .waits => s
  | .ends p =>
    let s := sendRsp s n p
    (match e.stagedIdx with
     | some (g, i) => entDone s n g i false
     | none => s)
  | .again => match e.stagedIdx with
    | some (g, i) => entDone s n g i true
    | none => s

/-- CURD_RELEASE (R193, R194): the first tick at or after Q that follows the receipt. -/
def execCurdRelease (n : Slot) (g : GroupId) (s : State) : Host.Outcome State Fault Refusal :=
  let q := grpOf (nif s n) g
  let due := q.relNext.filter (fun c => decide (c.2 ≤ epochN s n))
  .next (if niRuns s n && q.state == .active && q.target && !due.isEmpty then
      let thr := due.foldl (fun t c => if lepLt t c.1 then c.1 else t) (if lepLt q.ct q.through then q.through else q.ct)
      beginRelease (updG s n g (fun q => { q with
        through := thr, relNext := q.relNext.filter (fun c => !decide (c.2 ≤ epochN s n)) })) n g
    else s)

/-- CURD_EPOCH_RELEASED (R196): every entry of the logical epoch in release has been performed. -/
def execCurdEpochReleased (n : Slot) (g : GroupId) (s : State) : Host.Outcome State Fault Refusal :=
  let x := nif s n
  let q := grpOf x g
  .next (match (if niRuns s n && q.state == .active then q.releasing else none) with
    | none => s
    | some l =>
      if (epochEnts x g l).isEmpty && q.pass.isNone && !q.vatLeps.contains l then
        beginRelease (serveWaiting (updG s n g (fun q => { q with ct := l, releasing := none })) n) n g
      else s)

/-- CURD_RELEASE_RESUME (R196): the endpoint is out of reset and EP_READY is high. -/
def execCurdReleaseResume (n : Slot) (s : State) : Host.Outcome State Fault Refusal :=
  .next (if niRuns s n && delivers (nif s n) n then
      (List.finRange 32).foldl (fun s g => pump s n g) s
    else s)

/-- The smaller of two keys of canonical order, source slot and arrival index (R185). -/
def keyLt (a b : Nat × Nat) : Bool := decide (a.1 < b.1) || (decide (a.1 = b.1) && decide (a.2 < b.2))

/-- A pass leaves a record of its logical epoch in place. -/
def leaveRecord (p : VatPass) (key : Nat × Nat) : VatPass :=
  { p with left := p.left + 1, least := if p.least.any (fun k => !keyLt key k) then p.least else some key }

/-- One record of VAT_DATA (R199, R200): position `pos` of the slice of group `g`, in the pass for `l`. A record is taken
only while no smaller key has been left in place in the pass, so that the pass applies its entries in canonical
order. -/
def takeRecord (s : State) (n : Slot) (g : GroupId) (l pos : Nat) (m d : Line) : State :=
  let x := nif s n
  let q := grpOf x g
  let upd (f : VatPass → VatPass) (s : State) : State := updG s n g (fun q => { q with pass := q.pass.map f })
  let e := entOfRecord g x.spilledHeads m d
  let key : Nat × Nat := (e.src, e.idx)
  let invalid (s : State) : State := updG s n g (fun q => { q with
    vatInvalid := q.vatInvalid ++ [pos], vatRecs := q.vatRecs.filter (·.1 != pos) })
  if m.poison then
    invalid (repNi s n .curdVatPoison (g.val * 2 ^ 24 + pos % (max 1 q.vatSlice)) l)
  else if !(lineWord m.data 0).getLsbD 63 then invalid s
  else if e.lep != l then s
  else if q.pass.any (fun p => p.least.any (fun k => keyLt k key)) then upd (leaveRecord · key) s
  else if x.stage.length < 512 then
    upd (fun p => { p with took := p.took ++ [pos] }) (updN s n (fun x => { x with stage := x.stage ++ [e] }))
  else
    -- the largest key held by the group's entries
    let later (a b : StageEnt) : Bool := lepLt a.lep b.lep || (a.lep == b.lep && entBefore a b)
    match (x.stage.filter (fun a => a.group == g && !a.sent)).foldl (fun acc a => match acc with
        | none => some a
        | some b => if later b a then some a else some b) none with
    | none => upd (leaveRecord · key) s
    | some big =>
      if later e big && e.idx != big.idx then
        let s := updN s n (fun x => { (queueVat x (mkPacket (vatCtl n q opVatSpill pos) (recordOf big))) with
          stage := x.stage.filter (fun a => !isEnt g big.idx a) ++ [e]
          spilledHeads := x.spilledHeads ++ (if isAtomic big.op then [(big.idx, big.head)] else []) })
        let s := updG s n g (fun q => { q with
          vatRecs := q.vatRecs.map (fun r => if r.1 = pos then (pos, big.lep) else r)
          vatLeps := if q.vatLeps.contains big.lep then q.vatLeps else q.vatLeps ++ [big.lep] })
        if big.lep == l then upd (leaveRecord · (big.src, big.idx)) s else s
      else upd (leaveRecord · key) s

/-- VAT_DATA (R199): drained records reach the releasing NI. -/
def execVatData (n : Slot) (s : State) : Host.Outcome State Fault Refusal :=
  .next (if !niRuns s n then s
    else withFront s n 7 (fun pkt =>
      if fOp (hd pkt) != opVatData then s
      else
        let s := ejPop s n 7 pkt.length
        let (s, pkt) := checkIn s n pkt
        match (nif s n).tags.find? (fun t => t.tag == fTag (hd pkt) && fOp t.head == opVatDrain) with
        | none => updN (countN s n 0x08) n (fun x => { x with lateRsp := x.lateRsp + 1 })
        | some t =>
          let g : GroupId := Fin.ofNat 32 t.req
          let s := updN s n (fun x => dropTag x t.tag)
          let q := grpOf (nif s n) g
          match q.pass, q.releasing, t.quarantined with
          | some p, some l, false =>
            if p.pos = t.base then
              let s := (List.range t.nlines).foldl (fun s i =>
                takeRecord s n g l (p.pos + i) (lineOf (pkt.getD (2 * i) zeroFlit))
                  (lineOf (pkt.getD (2 * i + 1) zeroFlit))) s
              pump (updG s n g (fun q => { q with
                pass := q.pass.map (fun p => { p with pos := p.pos + t.nlines }) })) n g
            else s
          | _, _, true => updN (countN s n 0x08) n (fun x => { x with lateRsp := x.lateRsp + 1 })
          | _, _, _ => s))

/-! ### The Vat's own NI (R101, R200) -/

/-- Offer what stands in the VAT sink: each spilled line as one WR_FULL_NP, then the drains. -/
def drainSink (s : State) (n : Slot) : State :=
  if !delivers (nif s n) n then s
  else
    let spills := (nif s n).vatSpills
    let s := updN s n (fun x => { x with vatSpills := [] })
    let s := spills.foldl (fun s p =>
      p.zipIdx.foldl (fun s (f, i) =>
        let h := hd p
        let tag := Config.workTag s.drawn
        let c := setField (setField (setField h.ctl 103 6 opWrFullNp.toNat) 34 46 (fAddr h + i)) 94 9 tag.toNat
        let w := mkPacket c [lineOf f]
        offerPkt { s with drawn := s.drawn + 1 } n
          { kind := .vatSpill, pkt := w, tag := tag.toNat, results := [], first := 0, count := 1, rest := [],
            whole := .ok, after := [] } w) s) s
    let drains := (nif s n).vatDrains
    let s := updN s n (fun x => { x with vatDrains := [] })
    drains.foldl (fun s p =>
      let h := hd p
      let tag := Config.workTag s.drawn
      let lines := inLines p
      let w := [withCtl h (setField (setField h.ctl 103 6 opRdLine.toNat) 94 9 tag.toNat)]
      offerPkt { s with drawn := s.drawn + 1 } n
        { kind := .vatDrain, pkt := p, tag := tag.toNat, results := (List.replicate lines .ok).map ownRes, first := 0,
          count := lines, rest := [], whole := .ok, after := [] } w) s

/-- Consume a packet of VC 7 with opcode `op` into the VAT sink (R101). -/
def vatArrive (s : State) (n : Slot) (op : BitVec 6) : State :=
  withFront s n 7 (fun pkt =>
    if fOp (hd pkt) == op then
      let s := ejPop s n 7 pkt.length
      let (s, pkt) := checkIn s n pkt
      updN s n (fun x => if op == opVatSpill then { x with vatSpills := x.vatSpills ++ [pkt] }
        else { x with vatDrains := x.vatDrains ++ [pkt] })
    else s)

/-- VAT_SPILL (R101). -/
def execVatSpill (n : Slot) (s : State) : Host.Outcome State Fault Refusal :=
  .next (if niRuns s n then drainSink (vatArrive s n opVatSpill) n else s)

/-- VAT_DRAIN (R101). -/
def execVatDrain (n : Slot) (s : State) : Host.Outcome State Fault Refusal :=
  .next (if niRuns s n then drainSink (vatArrive s n opVatDrain) n else s)

/-! ### Closes (R188–R191) -/

/-- An EPOCH_CLOSE on the network (R190). -/
def closePkt (n : Slot) (g : GroupId) (inexact : Bool) (l : Nat) : Packet :=
  [mkFlit (mkCtl 188 n.val 6 opEpochClose) [BitVec.ofNat 64 (g.val + inexact.toNat * 32 + l * 2 ^ 16)]]

/-- The FN_DONE of a close (R189), or its refusal (R68). -/
def closeAnswer (x : NI) (req : Nat) (whole : Status) (aux : BitVec 16) : NI :=
  { x with reqs := x.reqs.map (fun r => if r.num = req then
      { r with aux := aux, whole := whole, lines := [some (noLine whole .ok (fDest r.head))] } else r) }

/-- EPOCH_CLOSE_INJECT (R188, R189). A loss of a logical epoch at most L stays known: R188 has every later close say so
too, and with it the repeats of R191 (R204). -/
def execEpochCloseInject (n : Slot) (g : GroupId) (s : State) : Host.Outcome State Fault Refusal :=
  let q := grpOf (nif s n) g
  .next (match (if niRuns s n && !(nif s n).closed && herdReachable s then q.close else none) with
    | none => s
    | some c =>
      if c.wait.isEmpty && lepLe c.lep (lepAdd q.cm 16) then
        let s := updN s n (fun x =>
          let x := queueSkm x (closePkt n g c.inexact c.lep)
          closeAnswer { x with groups := tupd x.groups g (fun q => { q with
            k := c.lep, close := none, lastInexact := c.inexact }) } c.req .ok (if c.inexact then 1 else 0))
        processStore (dropDiscarded s n) n
      else s)

/-- CLOSE_REPEAT (R191, R211): at a tick whose epoch modulo 64 is 32, once for each. -/
def execCloseRepeat (n : Slot) (s : State) : Host.Outcome State Fault Refusal :=
  .next (if niRuns s n && !(nif s n).closed && herdReachable s && (nif s n).repeatDue then
      (List.finRange 32).foldl (fun s g =>
        let q := grpOf (nif s n) g
        if q.member && q.state == .active && lepLt q.cm q.k then
          updN s n (fun x => queueSkm x (closePkt n g q.lastInexact q.k))
        else s) (updN s n (fun x => { x with repeatDue := false }))
    else s)

/-- Coordinator's view of a group. -/
def updCo (s : State) (g : GroupId) (f : CoGroup → CoGroup) : State :=
  updHerd s (fun h => { h with groups := tupd h.groups g f })

/-- EPOCH_CLOSE_ARRIVAL (R191): slot 188's NI consumes the close at its ejection latch. -/
def execEpochCloseArrival (s : State) : Host.Outcome State Fault Refusal :=
  .next (if !niRuns s herdSlot then s
    else withFront s herdSlot 6 (fun pkt =>
      let h := hd pkt
      if fOp h != opEpochClose then s
      else
        let s := ejPop s herdSlot 6 pkt.length
        let (s, pkt) := checkIn s herdSlot pkt
        let w := word (hd pkt) 0
        let g : GroupId := Fin.ofNat 32 (field w 0 5)
        let l := field w 16 48
        let c := tget s.herd.groups g
        let src : Slot := Fin.ofNat 192 (fSrc h)
        if c.state == .active && c.members.getLsbD src.val then
          updCo s g (fun c => { c with
            ks := tupd c.ks src (fun k => if lepLt k l then l else k)
            inexact := if w.getLsbD 5 && !c.inexact.contains l then c.inexact ++ [l] else c.inexact })
        else s))

/-! ### The coordinator (R192, R193) -/

def maskSlots (m : BitVec 192) : List Slot := (List.finRange 192).filter (fun n => m.getLsbD n.val)

/-- The smallest K of a group's members. -/
def minK (c : CoGroup) : Option Nat :=
  (maskSlots c.members).foldl (fun acc n => match acc with
    | none => some (tget c.ks n)
    | some k => some (if lepLt (tget c.ks n) k then tget c.ks n else k)) none

/-- CM_COMMIT (R190). -/
def commitPkt (dest : Slot) (g : GroupId) (l q : Nat) (inexact : Bool) : Packet :=
  [mkFlit (mkCtl dest.val 188 6 opCmCommit)
    [BitVec.ofNat 64 (g.val + inexact.toNat * 32 + l * 2 ^ 16), BitVec.ofNat 64 (q % 2 ^ 48)]]

/-- Send a commit to MEMBERS ∪ TARGETS, within the epoch's budget; none when it does not fit. -/
def sendCommit (s : State) (g : GroupId) (l q : Nat) (inexact : Bool) : Option State :=
  let c := tget s.herd.groups g
  let to_ := maskSlots (c.members ||| c.targets)
  if to_.length ≤ s.herd.commitLeft then
    let s := updHerd s (fun h => { h with commitLeft := h.commitLeft - to_.length })
    some (to_.foldl (fun s d => updN s herdSlot (fun x => queueSkm x (commitPkt d g l q inexact))) s)
  else none

/-- Commit one group at tick `t`, when its smallest K exceeds C and its broadcast fits the epoch's budget; it is deferred
otherwise. -/
def commitGroup (s : State) (t : Nat) (g : GroupId) : State :=
  let c := tget s.herd.groups g
  match (if c.state == .active then minK c else none) with
  | none => s
  | some k =>
    if !lepLt c.c k then s
    else
      let inexact := c.inexact.any (fun l => lepLt c.c l && lepLe l k)
      match sendCommit s g k (t + 1) inexact with
      | none => s
      | some s =>
        let s := updCo s g (fun c => { c with
          c := k, lastCommit := some (k, t + 1, inexact), inexact := c.inexact.filter (fun l => !lepLe l k) })
        let s := updHerd s (fun h => { h with served := g.val })
        let s := if c.notify then repGroup s g .curdCommit inexact.toNat k else s
        if inexact then repGroup s g .curdInexact 0 k else s

/-- The coordinator at its arrival of tick `t` (R192): groups in turn after the last served; one whose broadcast does
not fit is deferred whole, and those behind it go on. -/
def coordTick (s : State) (t : Nat) : State :=
  let s := updHerd s (fun h => { h with commitLeft := 896 })
  if !herdReachable s then s
  else
    let order := (List.range 32).map (fun i => (Fin.ofNat 32 (s.herd.served + 1 + i) : GroupId))
    order.foldl (fun s g => commitGroup s t g) s

/-- COMMIT_REPEAT (R192): at ticks whose epoch modulo 64 is 0. -/
def execCommitRepeat (s : State) : Host.Outcome State Fault Refusal :=
  .next (if herdRuns s && herdReachable s && s.herd.epoch % 64 == 0 then
      (List.finRange 32).foldl (fun s g =>
        let c := tget s.herd.groups g
        match (if c.state == .active then c.lastCommit else none) with
        | some (l, q, i) => (sendCommit s g l q i).getD s
        | none => s) s
    else s)

/-- CM_COMMIT (R193): an NI takes the commit at its ejection latch. -/
def execCmCommit (n : Slot) (s : State) : Host.Outcome State Fault Refusal :=
  .next (if !niRuns s n then s
    else withFront s n 6 (fun pkt =>
      if fOp (hd pkt) != opCmCommit then s
      else
        let s := ejPop s n 6 pkt.length
        let (s, pkt) := checkIn s n pkt
        let w := word (hd pkt) 0
        let g : GroupId := Fin.ofNat 32 (field w 0 5)
        let l := field w 16 48
        let rel := field (word (hd pkt) 1) 0 48
        let e := epochN s n
        let q := grpOf (nif s n) g
        if q.state != .active then s
        else
          let fresh (held : Nat) (p : List (Nat × Nat)) : Bool := lepLt held l && p.all (fun c => lepLt c.1 l)
          let top := if lepLt q.ct q.through then q.through else q.ct
          let newM := q.member && fresh q.cm q.cmNext
          let held := (nif s n).tags.filter (fun t => ageHeld (nif s n) t)
          let s := updG s n g (fun q => { q with
            cmNext := if newM then q.cmNext ++ [(l, max (rel + 1) (e + 1))] else q.cmNext
            relNext := if q.target && fresh top q.relNext then q.relNext ++ [(l, max rel (e + 1))] else q.relNext })
          -- R184: the ages of staged atomics through L run again
          if newM then
            updN s n (fun x => { x with tags := x.tags.map (fun t =>
              if t.canon.any (fun c => c.1 == g && lepLe c.2 l) && held.any (fun h => h.tag == t.tag) then
                { t with epoch := e } else t) })
          else s))

/-- CURD_MEMBER_COMMIT (R193): C_m at the first tick at or after Q + 1. -/
def execCurdMemberCommit (n : Slot) (g : GroupId) (s : State) : Host.Outcome State Fault Refusal :=
  let q := grpOf (nif s n) g
  let due := q.cmNext.filter (fun c => decide (c.2 ≤ epochN s n))
  .next (if niRuns s n && q.state == .active && !due.isEmpty then
      processStore (updG s n g (fun q => { q with
        cm := due.foldl (fun m c => if lepLt m c.1 then c.1 else m) q.cm
        cmNext := q.cmNext.filter (fun c => !decide (c.2 ≤ epochN s n)) })) n
    else s)

/-! ### A group that leaves ACTIVE (R180, R184, R528) -/

/-- An NI takes up the state of a group that the Herdsman relays (R184, R528); a group that does not name it is
DISABLED there. The tags of staged atomics whose ages were held run again from zero (R184). DESIGN CHOICE: a close
that waits at step 5 when its ACTIVE group is disabled is completed POISON with AUX 0xFFFF and logged as
CURD_CLOSE_ORDER, as R188 has it for a close from a non-member; and the disable of a FAILED group drops its staged
entries and Vat records of logical epochs at or below C too, which R180 leaves unsaid, and does not count them. -/
def takeGroupState (s : State) (n : Slot) (g : GroupId) : State :=
  let co := tget s.herd.groups g
  let st := if co.members.getLsbD n.val || co.targets.getLsbD n.val then co.state else .disabled
  let q := grpOf (nif s n) g
  if q.state == .active && st != .active then
    let e := epochN s n
    -- a held close is refused with the group (R528)
    let s := match q.close with
      | some c =>
        repCurd (dropDiscarded (updN s n (fun x => closeAnswer x c.req .poison 0xFFFF)) n) n
          (if st == .failed then .curdFailed else .curdCloseOrder) g n.val c.lep
      | none => s
    let s := updN s n (fun x => { x with
      tags := x.tags.map (fun t =>
        if ageHeld x t && t.canon.any (fun c => c.1 == g) then { t with epoch := e } else t) })
    let s := if st == .failed then
        updG s n g (fun q => { q with state := .failed, close := none, pass := none, releasing := none })
      else updN s n (fun x => { x with
        groups := tupd x.groups g (fun _ => NiGroup.reset), stage := x.stage.filter (fun e => e.group != g) })
    processStore (serveWaiting s n) n
  else if q.state == .failed && st == .disabled then
    updN s n (fun x => { x with
      groups := tupd x.groups g (fun _ => NiGroup.reset), stage := x.stage.filter (fun e => e.group != g) })
  else s

/-- GROUP_STATE_CHANGE (R184, R528): the relayed state of a group reaches an NI. -/
def execGroupStateChange (n : Slot) (g : GroupId) (s : State) : Host.Outcome State Fault Refusal :=
  .next (if niRuns s n && niReached s n then takeGroupState s n g else s)

end Sys2Proof.Machine
end

