-- ==== Sys2Proof/Machine/Herd.lean ====
section
/-! DEFINITION. The Herdsman's rings (chapter 10): what it writes to host memory, events on their way to ring and Crock,
indices and doorbells, the reading and starting of commands, completions, publication and interrupts. -/

namespace Sys2Proof.Machine

/-! ### Rings (R311, R312, R515) -/

def hring (s : State) (r : RingId) : HRing := tget s.herd.rings r
def updRing (s : State) (r : RingId) (f : HRing → HRing) : State :=
  updHerd s (fun h => { h with rings := tupd h.rings r f })

def ringEn (x : HRing) : Bool := x.word.getLsbD 63
/-- SIZE_LOG = SIZE_M4 + 4, values 13–15 acting as 12. -/
def ringSize (x : HRing) : Nat := 2 ^ (min 12 (field x.word 52 4) + 4)
def ringLine (x : HRing) (i : Nat) : Nat := field x.word 12 40 * 64 + i % ringSize x
def ringHeld (x : HRing) : Nat := (x.prod - x.cons).toNat
/-- A completion or event ring is full, as one that is not enabled is treated (R338, R516). -/
def ringFull (x : HRing) : Bool := !ringEn x || decide (ringSize x ≤ ringHeld x)

/-- The window that holds a ring's home words: DB_WIN[r], or CONS_WIN (R312). -/
def homeWin (s : State) (r : RingId) : Fin 16 :=
  Fin.ofNat 16 (field (hring s (if r.val < 8 then r else 8)).word 0 4)
def winLine (s : State) (w : Fin 16) (line : Nat) : Nat := field (tget s.herd.windows w) 12 40 * 64 + line
/-- Line of the producer home word that the Herdsman owns: 16 + k and 20 + j of CONS_WIN. -/
def prodHome (s : State) (r : RingId) : Nat := winLine s (homeWin s r) (r.val + 8)

/-- R339, R518: interrupt set-up of a completion or event ring. -/
def intrOf (s : State) (r : RingId) : Word × Word :=
  let k : Fin 6 := Fin.ofNat 6 (r.val - 8)
  (tget s.herd.intrAddr k, tget s.herd.intrVal k)

/-! ### Entries for completion and event rings -/

/-- Entries held in the Herdsman (R38, R338). -/
def heldEvents (s : State) : Nat := (hring s 12).pending.length + (hring s 13).pending.length
def heldAll (s : State) : Nat := s.herd.rings.toList.foldl (fun n x => n + x.pending.length) 0

/-- The event descriptor of R322 and R454. -/
def eventEntry (ev : Event) (dropped : Nat) : BitVec 512 :=
  let w : BitVec 512 := 0
  let w := setField w 0 16 (evNum ev.code)
  let w := setField w 16 8 (classCode (evClass ev.code))
  let w := setField w 24 8 (stCode ev.status)
  let w := setField w 32 8 ev.sectors.toNat
  let w := setField w 48 16 (unitBits ev).toNat
  let w := setField w 64 48 ev.epoch
  let w := setField w 128 32 (min (2 ^ 32 - 1) dropped)
  let w := setField w 160 32 ev.merged
  let w := setField w 256 128 ev.record.toNat
  setField w 384 32 ev.detail.toNat

/-- An event ring cannot take entries now: what is bound for it is held in the Herdsman (R38, R338). -/
def ringHolds (s : State) (r : RingId) : Bool := ringFull (hring s r) || (hring s r).halted || !herdReachable s

/-- Put an event on its ring, or count it as dropped (R338, R38). -/
def eventToRing (s : State) (ev : Event) (r : RingId) : State :=
  if ringHolds s r && decide (64 ≤ (if herdReachable s then heldEvents s else heldAll s)) then
    updHerd (updRing s r (fun x => { x with dropped := x.dropped + 1 })) (fun h => { h with causeDropped := true })
  else updRing s r (fun x => { x with pending := x.pending ++ [eventEntry ev ev.dropped] })

/-- The events that go to the Crock alone (R454). -/
def crockAlone (c : EventCode) : Bool := c == .pwrAckLate || c == .pwrAckFail || c == .ringHalt

/-- The event ring of a class (R314). -/
def eventRing (c : EvClass) : RingId := if c == .contained || c == .fatal then 12 else 13

/-- Write one event to its ring and to the Crock (R314, R454), raising cause 7 for a fatal one (R452). An event that is
held, or dropped, reaches the Crock at once whatever its class (R38, R338, R454). -/
def writeEvent (s : State) (ev : Event) : State :=
  let cls := evClass ev.code
  let r := eventRing cls
  let t := if r = 12 || ringHolds s r then toCrock s ev else s
  let t := if crockAlone ev.code then t else eventToRing t ev r
  if cls == .fatal then updHerd t (fun h => { h with causeFatal := true }) else t

/-- The causes of R340. -/
def irqCauses (s : State) : BitVec 16 :=
  let unread (r : RingId) : Bool := (hring s r).prod != (hring s r).cons
  let cont := (hring s 12).pending.any (fun e => field e 16 8 == 1)
  let out := !herdReachable s || (nif s herdSlot).recovering.isSome || s.herd.rings.toList.any (·.halted)
  BitVec.ofNat 16 ([unread 8, unread 9, unread 10, unread 11, unread 12, unread 13, cont, s.herd.causeFatal, out,
    s.herd.causeDropped].zipIdx.foldl (fun n (b, i) => n + b.toNat * 2 ^ i) 0)

/-- The level of FAB_IRQ[n] (R340). -/
def irqLine (s : State) (n : Fin 4) : Bool := (irqCauses s &&& bits s.herd.irqMask (16 * n.val) 16) != 0

/-! ### Indices (R318) -/

/-- Apply a value received for an index that the Herdsman does not write. RING_OVERRUN's record holds V and the held index
where R453 puts them; DESIGN CHOICE: bits [95:64] hold the other index of R318, a command ring's C_h or the Herdsman's own
producer. -/
def applyIndex (s : State) (r : RingId) (v : BitVec 32) : State :=
  let x := hring s r
  let stale (s : State) : State := updHerd s (fun h => { h with dbStale := h.dbStale + 1 })
  if !ringEn x then stale s
  else
    let cmd := decide (r.val < 8)
    let held := if cmd then x.prod else x.cons
    let lim := if cmd then ringSize x - ringHeld x else ringHeld x
    let d := (v - held).toNat
    if d = 0 ∨ 2 ^ 31 ≤ d then stale s
    else if d ≤ lim then
      updRing s r (fun x => if cmd then { x with prod := v } else { x with cons := v })
    else
      let other := if cmd then x.cons else x.prod
      repDie s .ringOverrun r.val (other.toNat * 2 ^ 64 + v.toNat * 2 ^ 32 + held.toNat)

/-- The rings whose received index has its home at line `line` of window `w` (R312, R315). -/
def homesAt (s : State) (w : Fin 16) (line : Nat) : List RingId :=
  (List.finRange 14).filter (fun r => decide (homeWin s r = w) && decide (line = r.val))

/-- DB_FWD (R317, R318): a doorbell forward is consumed at slot 188. -/
def execDbFwd (s : State) : Host.Outcome State Fault Refusal :=
  .next (if niRuns s herdSlot && herdRuns s then
      withFront s herdSlot 6 (fun pkt =>
        if fOp (hd pkt) != opDbFwd then s
        else
          let (s, pkt) := checkIn (ejPop s herdSlot 6 pkt.length) herdSlot pkt
          let w := word (hd pkt) 0
          (homesAt s (Fin.ofNat 16 (field w 0 4)) (field w 4 6)).foldl (fun s r => applyIndex s r (bits w 32 32)) s)
    else s)

/-- Every home line is read now: at the tick of R319, and after an outage of cluster 8 (R38). -/
def pollAll (s : State) : Bool := s.herd.epoch % 64 == 16 || s.herd.rereadAll

/-- The rings whose home lines the Herdsman reads now: every enabled one, or those newly enabled (R319, R516). -/
def pollDue (s : State) : List RingId :=
  (List.finRange 14).filter (fun r => ringEn (hring s r) && (pollAll s || (hring s r).fresh))

/-- What the read of a ring's home line brings. -/
def pollRing (s : State) (r : RingId) (l : MemLine) : State :=
  if l.state == .good then updRing (applyIndex s r (l.data.setWidth 32)) r (fun x => { x with fresh := false }) else s

/-- RING_POLL (R319, R516, R38): `homes` holds the home line of every ring that is due, as memory returned it. -/
def execRingPoll (homes : List (RingId × MemLine)) (s : State) : Host.Outcome State Fault Refusal :=
  let due := pollDue s
  let got := homes.filter (fun h => due.contains h.1)
  .next (if herdRuns s && herdReachable s && due.all (fun r => got.any (fun h => h.1 == r)) then
      let s := got.foldl (fun s h => pollRing s h.1 h.2) s
      updHerd s (fun h => { h with rereadAll := h.rereadAll && got.any (fun h => h.2.state != .good) })
    else s)

/-! ### Commands (R321, R323, R324) -/

def dByte (d : BitVec 512) (off : Nat) : Nat := field d (8 * off) 8
def dField (d : BitVec 512) (off bytes : Nat) : Nat := field d (8 * off) (8 * bytes)
def cmdOp (c : Cmd) : Nat := dByte c.desc 4
def cmdWait (c : Cmd) : Bool := c.desc.getLsbD 40
def cmdQuiet (c : Cmd) : Bool := c.desc.getLsbD 41

/-- Entries of a command ring that the next read takes. -/
def fetchCount (s : State) (r : CmdRing) : Nat :=
  let x := hring s (Fin.ofNat 14 r.val)
  if !ringEn x then 0
  else min (min 4 (ringHeld x)) (min (ringSize x - x.cons.toNat % ringSize x)
    (32 - (s.herd.fetched.length + s.herd.started.length)))

/-- The ring whose turn it is, round robin. -/
def fetchTurn (s : State) : Option CmdRing :=
  ((List.range 8).map (fun i => (Fin.ofNat 8 (s.herd.turn + 1 + i) : CmdRing))).find? (fun r => 0 < fetchCount s r)

/-- The Herdsman takes entries and starts commands: not during die-scope recovery (R466). -/
def herdWorks (s : State) : Bool := herdRuns s && herdReachable s && s.recov.die.isNone

/-- What a read entry is. -/
def fetchedCmd (r : CmdRing) (i epoch : Nat) (l : MemLine) : Cmd :=
  let c : Cmd := { ring := r, index := i, desc := l.data, chk := .ready, ran := false, readAt := epoch,
                   ending := (.ok, 0, 0), result := none }
  match l.state with
  | .lost => { c with chk := .lost }
  | .poisoned => { c with result := some (.poison, 0xFFFD, 0) }
  | .good => if dField l.data 6 2 = i % 65536 then c else { c with chk := .mismatch 4 }

/-- COMMAND_FETCH (R323): the lines that one read of a command ring returned. -/
def execCommandFetch (ring : CmdRing) (entries : Block) (s : State) : Host.Outcome State Fault Refusal :=
  let m := fetchCount s ring
  .next (if herdWorks s && s.herd.accept && fetchTurn s == some ring && decide (m ≤ entries.length) then
      let r : RingId := Fin.ofNat 14 ring.val
      let c := (hring s r).cons.toNat
      let cmds := (entries.take m).zipIdx.map (fun (l, i) => fetchedCmd ring ((c + i) % 2 ^ 32) s.herd.epoch l)
      updHerd (updRing s r (fun x => { x with cons := x.cons + BitVec.ofNat 32 m })) (fun h => { h with
        fetched := h.fetched ++ cmds, turn := ring.val })
    else s)

/-- The entry of a re-read. -/
def rechecked (c : Cmd) (l : MemLine) : Cmd :=
  match l.state with
  | .lost => c
  | .poisoned => { c with desc := l.data, chk := .ready, result := some (.poison, 0xFFFD, 0) }
  | .good =>
    let c := { c with desc := l.data }
    if dField l.data 6 2 = c.index % 65536 then { c with chk := .ready }
    else match c.chk with
      | .mismatch (k + 2) => { c with chk := .mismatch (k + 1) }
      | .mismatch _ => { c with chk := .ready, result := some (.poison, 0xFFFE, 0) }
      | _ => { c with chk := .mismatch 4 }

/-- COMMAND_INDEX_RECHECK (R323): the first entry of a ring that is not ready, and has not been read since the last tick,
is read again. -/
def execCommandIndexRecheck (ring : CmdRing) (entry : MemLine) (s : State) : Host.Outcome State Fault Refusal :=
  .next (if herdWorks s then
      updHerd s (fun h => { h with
        fetched := updFirst (fun c => c.ring == ring && c.chk != .ready && c.readAt != h.epoch)
          (fun c => { rechecked c entry with readAt := h.epoch }) h.fetched })
    else s)

/-- Mode codes of R393. -/
def modeCode : Mode → Nat
  | .reset => 0 | .train => 1 | .serve => 2 | .drowse => 3 | .retain => 4 | .freeze => 5 | .recover => 6 | .test => 7

/-- R396: a MODE_REQ, an exit or a return is in progress; a cluster is in recovery or a sector unreachable. -/
def modeBusy (s : State) : Bool := s.aon.modeReq.isSome || s.aon.exitStep.isSome || s.aon.retStep.isSome
def modeUnfit (s : State) : Bool := s.recov.clusters.toList.any (·.isSome) || sectorsMissed s != 0

/-- What PWR_MODE keeps of a MODE_REQ that has ended (R519). -/
def noteMode (s : State) (target : Mode) (st : Status) (detail : BitVec 16) : State :=
  updAon s (fun a => { a with
    lastTarget := target
    lastDetail := if st == .ok then 0 else if st == .notReady then detail else a.lastDetail })

/-- The set that a load writes: the shadow, or the one set of an NI that has one. -/
def loadSet (x : NI) (n : Slot) : Fin 2 := if oneSet n.val || n == herdSlot then x.gateActive else 1 - x.gateActive
def hasOneSet (n : Slot) : Bool := oneSet n.val || n == herdSlot

/-- The GENs of the active set and of the shadow, as an NI reports them (R302). -/
def gensOf (x : NI) (n : Slot) : BitVec 16 × BitVec 16 :=
  ((tget x.gates x.gateActive).gen, (tget x.gates (loadSet x n)).gen)

/-- The GENs that a gate command reports: those of an NI that cannot be reached are the last that it reported (R327). -/
def gensNow (s : State) (n : Slot) : BitVec 16 × BitVec 16 :=
  if niReached s n then gensOf (nif s n) n else tget s.herd.gens2 n
def gensResult (g : BitVec 16 × BitVec 16) : BitVec 320 := BitVec.ofNat 320 (g.1.toNat + g.2.toNat * 2 ^ 16)

/-- RESULT of a command that is turned away: a gate command reports the GENs of its NI whatever its status (R302). -/
def faultResult (s : State) (c : Cmd) : BitVec 320 :=
  let slot := dField c.desc 8 2
  if 0x08 ≤ cmdOp c && decide (cmdOp c ≤ 0x0A) && decide (slot < 192) then gensResult (gensNow s (Fin.ofNat 192 slot))
  else 0

/-- A line address that the Herdsman is given is aligned to 64 bytes and lies within 52 bits (R325, R327). -/
def addrBad (v : Nat) : Bool := v % 64 != 0 || decide (2 ^ 52 ≤ v)

def modeOf (n : Nat) : Mode :=
  ([.reset, .train, .serve, .drowse, .retain, .freeze, .recover, .test] : List Mode).getD n .reset

/-- R313, R325, R327: the status with which a command ends before it does anything. -/
def startFault (s : State) (c : Cmd) : Option (Status × BitVec 16 × BitVec 320) :=
  let op := cmdOp c
  let user := decide (4 ≤ c.ring.val)
  let known := [0x00, 0x01, 0x02, 0x03, 0x04, 0x08, 0x09, 0x0A, 0x0C, 0x10, 0x14, 0x15, 0x18, 0x1C, 0x20, 0x24,
    0x28].contains op
  let b := dByte c.desc 8
  if user && !(op == 0x00 || op == 0x10 || op == 0x24) then some (.gateFault, 0, faultResult s c)
  else if op == 0x28 && c.ring != 0 then some (.gateFault, 0, 0)
  else if !known || (op == 0x14 && decide (4 < b)) || (op == 0x20 && decide (2 < dByte c.desc 9)) ||
      (op == 0x24 && decide (1 < dByte c.desc 9)) then
    some (.poison, 0xFFFF, 0)
  else if op == 0x1C && decide (b ≠ 2 ∧ b ≠ 3 ∧ b ≠ 4) then
    -- MODE_REQ for a mode that no row of R396 reaches
    some (if modeBusy s then (.notReady, 0x0006, 0)
      else if modeUnfit s then (.notReady, 0x0004, 0)
      else if 8 ≤ b then (.poison, 0xFFFF, 0)
      else if b = modeCode s.aon.mode then (.ok, 0, 0)
      else (.notReady, 0x0005, 0))
  else none

/-- The completion ring of a command ring. -/
def cplRing (s : State) (r : CmdRing) : RingId := Fin.ofNat 14 (8 + field (hring s (Fin.ofNat 14 r.val)).word 56 2)

/-- COMMAND_START (R324, R338): the next command of a ring starts. -/
def execCommandStart (ring : CmdRing) (s : State) : Host.Outcome State Fault Refusal :=
  .next (match (if herdWorks s && !s.aon.modeReq.any (fun m => m.target == .retain && s.aon.retStep.isNone) then
      s.herd.fetched.find? (fun c => c.ring == ring) else none) with
    | none => s
    | some c =>
      if c.chk != .ready || (cmdWait c && s.herd.started.any (fun d => d.ring == ring)) ||
         ringFull (hring s (cplRing s ring)) then s
      else
        let f := if c.result.isSome then none else startFault s c
        let c := { c with result := c.result.or f }
        let s := match f with
          | some (st, d, _) =>
            if st != .gateFault && cmdOp c == 0x1C && decide (dByte c.desc 8 < 8) && s.aon.modeReq.isNone then
              noteMode s (modeOf (dByte c.desc 8)) st d
            else s
          | none => s
        updHerd s (fun h => { h with
          fetched := h.fetched.filter (fun d => !(d.ring == ring && d.index == c.index)), started := h.started ++ [c] }))

/-- The started command of a ring on which a row acts: the first that has not acted and is not complete. -/
def startedCmd (s : State) (ring : CmdRing) (p : Cmd → Bool) : Option Cmd :=
  if herdRuns s && s.recov.die.isNone then
    match s.herd.started.find? (fun c => c.ring == ring && !c.ran && c.result.isNone) with
    | some c => if p c then some c else none
    | none => none
  else none
def startedOp (s : State) (ring : CmdRing) (op : Nat) : Option Cmd := startedCmd s ring (fun c => cmdOp c == op)

/-- The row of a command has acted and its end comes later. -/
def ranCmd (s : State) (ring : CmdRing) (index : Nat) : State :=
  updHerd s (fun h => { h with started := updFirst (isCmd ring index) (fun c => { c with ran := true }) h.started })

/-- The completion descriptor of R322. -/
def completionEntry (s : State) (c : Cmd) (r : Status × BitVec 16 × BitVec 320) : BitVec 512 :=
  let w : BitVec 512 := 0
  let w := setField w 0 32 (dField c.desc 0 4)
  let w := setField w 32 8 (cmdOp c)
  let w := setField w 40 8 c.ring.val
  let w := setField w 48 4 (stCode r.1)
  let w := setField w 64 32 (hring s (Fin.ofNat 14 c.ring.val)).cons.toNat
  let w := setField w 96 16 r.2.1.toNat
  let w := setField w 128 48 s.herd.epoch
  setField w 192 320 r.2.2.toNat

/-- COMMAND_COMPLETE (R324, R338): the next ended command of a ring queues its completion. -/
def execCommandComplete (ring : CmdRing) (s : State) : Host.Outcome State Fault Refusal :=
  .next (match (if herdRuns s then s.herd.started.find? (fun c => c.ring == ring && c.result.isSome) else none) with
    | none => s
    | some c => match c.result with
      | none => s
      | some r =>
        let s' := updHerd s (fun h => { h with started := h.started.filter (fun d => !isCmd ring c.index d) })
        if cmdQuiet c && r.1 == .ok then s'
        else if !herdReachable s && decide (64 ≤ heldAll s) then
          updHerd s' (fun h => { h with heldBack := h.heldBack + 1 })
        else updRing s' (cplRing s ring) (fun x => { x with pending := x.pending ++ [completionEntry s c r] }))

/-! ### Publication and interrupts (R336, R338, R339) -/

/-- An entry that carries a count of events lost before it (R338, R38). -/
def addDropped (e : BitVec 512) (k : Nat) : BitVec 512 := setField e 128 32 (min (2 ^ 32 - 1) (field e 128 32 + k))

/-- The entries of a batch: on an event ring, its first one carries what was dropped before it. -/
def batchEntries (s : State) (ring : RingId) (n : Nat) : List (BitVec 512) :=
  let x := hring s ring
  match x.pending.take n with
  | e :: rest => (if 12 ≤ ring.val then addDropped e (x.dropped + s.herd.heldBack) else e) :: rest
  | [] => []

/-- The write of entry `i` of a batch. -/
def entryWrite (s : State) (ring : RingId) (e : BitVec 512) (i : Nat) : MemAcc :=
  fullLine s (.entry ring i) (ringLine (hring s ring) ((hring s ring).prod.toNat + i)) e

/-- The Herdsman may write to its rings: memory is reached, and the re-read of R38 is done. -/
def mayPublish (s : State) : Bool := herdRuns s && herdReachable s && !s.herd.rereadAll

/-- PUBLISH_BATCH (R336) at cycle `k` of the Herdsman's epoch: the unpublished entries that the ring has room for are
written, at 16 of them or at cycle 512. DEDUCED: the 16 entries are counted per ring. -/
def execPublishBatch (ring : RingId) (k : Nat) (s : State) : Host.Outcome State Fault Refusal :=
  let x := hring s ring
  let n := min x.pending.length (ringSize x - ringHeld x)
  .next (if mayPublish s && decide (8 ≤ ring.val) && ringEn x && !x.halted && x.batch == 0 && decide (0 < n) &&
        (decide (16 ≤ x.pending.length) || k == 512) then
      let es := batchEntries s ring n
      let event := decide (12 ≤ ring.val)
      let t := memWrites s (es.zipIdx.map (fun p => entryWrite s ring p.1 p.2))
      let t := updRing t ring (fun x => { x with
        pending := es ++ x.pending.drop n, batch := n, acks := List.replicate n none, indexAck := none, retry := false
        indexSent := false, intr := intrOf s ring, dropped := if event then 0 else x.dropped })
      updHerd t (fun h => { h with heldBack := if event then 0 else h.heldBack })
    else s)

def indexWrite (s : State) (ring : RingId) : MemAcc :=
  let x := hring s ring
  homeWrite s (.index ring) (prodHome s ring) (x.prod + BitVec.ofNat 32 x.batch)

/-- Nothing of a publication is under way. -/
def HRing.idle (x : HRing) : HRing :=
  { x with batch := 0, acks := [], indexAck := none, retry := false, indexSent := false }

/-- R338: a publication that failed twice halts its ring. -/
def haltRing (s : State) (ring : RingId) : State :=
  repDie (updRing s ring (fun x => { x.idle with halted := true })) .ringHalt ring.val

/-- The entries of a batch that were answered with a status other than OK, with their positions. -/
def failedEntries (x : HRing) : List (BitVec 512 × Nat) :=
  ((x.pending.take x.batch).zipIdx.zip x.acks).filterMap (fun p => if p.2 = some .ok then none else some p.1)

/-- PUBLISH_INDEX (R336, R338): every entry write of a batch has been answered. The index is written once all are OK;
those that are not are written again once. -/
def execPublishIndex (ring : RingId) (s : State) : Host.Outcome State Fault Refusal :=
  let x := hring s ring
  .next (if mayPublish s && decide (0 < x.batch) && !x.indexSent && x.acks.all (·.isSome) then
      if x.acks.all (· == some .ok) then
        updRing (memWrite s (indexWrite s ring)) ring (fun x => { x with indexSent := true, retry := false })
      else if x.retry then haltRing s ring
      else
        updRing (memWrites s ((failedEntries x).map (fun p => entryWrite s ring p.1 p.2))) ring (fun x => { x with
          retry := true, acks := x.acks.map (fun a => if a = some .ok then a else none) })
    else s)

/-- R339: the ring's MSG_INTR, with PRIV set. -/
def intrWrite (v : Word × Word) : MemAcc :=
  intrAcc .intr (field v.1 55 8) (field v.1 6 46) (field v.1 3 3) v.2 true

/-- RING_INTERRUPT (R336, R338, R339): the index write has been answered, which ends the publication or has it written
again once. -/
def execRingInterrupt (ring : RingId) (s : State) : Host.Outcome State Fault Refusal :=
  let x := hring s ring
  .next (if mayPublish s && x.indexSent && x.indexAck.isSome then
      if x.indexAck = some .ok then
        let s := updRing s ring (fun x => { x.idle with
          prod := x.prod + BitVec.ofNat 32 x.batch, pending := x.pending.drop x.batch })
        if x.intr.1.getLsbD 63 then memWrite s (intrWrite x.intr) else s
      else if x.retry then haltRing s ring
      else updRing (memWrite s (indexWrite s ring)) ring (fun x => { x with retry := true, indexAck := none })
    else s)

/-! ### Enabling a ring (R516) -/

/-- The Herdsman enables ring `r` with set-up word `w`. -/
def enableRing (s : State) (r : RingId) (w : Word) : State :=
  let s := updRing s r (fun x => { x.idle with word := w, prod := 0, cons := 0, halted := false, fresh := true })
  if 8 ≤ r.val then memWrite s (homeWrite s .home (prodHome s r) 0) else s

/-! ### Relays to the units -/

/-- SPINE_UP_UPDATE (R90, R37): a router takes up the relayed SPINE_UP vector. -/
def execSpineUpUpdate (r : RouterId) (s : State) : Host.Outcome State Fault Refusal :=
  .next (if routerRuns s r && routerReached s r then updR s r (fun x => { x with spineUp := s.herd.spineUp }) else s)

/-- The home lines of window `w` as the rings name them (R315): bit r the line of command ring r, bit 8 lines 8 to 13. -/
def homesOf (s : State) (w : Fin 16) : BitVec 9 :=
  (List.finRange 9).foldl (fun m r => if homeWin s (Fin.ofNat 14 r.val) = w then m ||| (1#9 <<< r.val) else m) 0

/-- DOORBELL_WINDOW_UPDATE (R517, R315): an NI takes up a relayed window and its home lines. -/
def execDoorbellWindowUpdate (n : Slot) (w : Fin 16) (s : State) : Host.Outcome State Fault Refusal :=
  .next (if niRuns s n && niReached s n then
      updN s n (fun x => { x with
        windows := tupd x.windows w (fun _ => tget s.herd.windows w), homes := tupd x.homes w (fun _ => homesOf s w) })
    else s)

/-- DBG_AUTH_CHANGE (R308): the debug-authorise input changes, and the Herdsman receives its state. -/
def execDbgAuthChange (level : Bool) (s : State) : Host.Outcome State Fault Refusal :=
  .next (updHerd (updAon s (fun a => { a with dbgAuth := level })) (fun h => { h with dbgAuth := level }))

end Sys2Proof.Machine
end

