-- ==== Sys2Proof/Machine/Sfu.lean ====
section
/-! DEFINITION. Spine Flow Units bit for bit (R244–R252): the CRC, DATA and LINK bodies, flit records, and the zero-run
compression. -/

namespace Sys2Proof.Machine

/-! ### Bits, most significant first -/

def bitsMsb {w : Nat} (x : BitVec w) : List Bool := (List.range w).map (fun i => x.getLsbD (w - 1 - i))
def natMsb (l : List Bool) : Nat := l.foldl (fun n b => 2 * n + b.toNat) 0

/-! ### The CRC (R245) -/

def crcStep (r : BitVec 32) (b : Bool) : BitVec 32 :=
  if r.msb != b then (r <<< 1) ^^^ 0x04C11DB7#32 else r <<< 1

/-- CRC-32 over a 13-bit prefix and a 480-bit body. -/
def crcOf (pre : BitVec 13) (body : BitVec 480) : BitVec 32 :=
  ~~~ ((bitsMsb pre ++ bitsMsb body).foldl crcStep 0xFFFFFFFF#32)

def dataPrefix (seq : BitVec 12) : BitVec 13 := seq.setWidth 13
def linkPrefix : BitVec 13 := 0x1000#13

def sfuOf (pre : BitVec 13) (body : BitVec 480) : BitVec 512 := body ++ crcOf pre body
def sfuBody (x : BitVec 512) : BitVec 480 := bits x 32 480
def sfuCrc (x : BitVec 512) : BitVec 32 := bits x 0 32
def sfuKind (x : BitVec 512) : Nat := field x 510 2

/-- What the checks of R254 make of an SFU when `e` is expected. -/
inductive SfuSeen where
  | data | link | bad
deriving DecidableEq, Repr

def sfuCheck (e : BitVec 12) (x : BitVec 512) : SfuSeen :=
  if sfuCrc x = crcOf (dataPrefix e) (sfuBody x) && sfuKind x == 1 then .data
  else if sfuCrc x = crcOf linkPrefix (sfuBody x) && sfuKind x == 2 then .link
  else .bad

/-! ### Flit records (R249–R251) -/

def ctlGroup (f : Flit) (g : Nat) : BitVec 17 := bits f.ctl (16 * g) 16 ++ bits f.par g 1
def datWord (f : Flit) (w : Nat) : BitVec 72 := word f w ++ chkByte f w

/-- The presence mask of R250. -/
def recMask (f : Flit) : BitVec 16 :=
  (List.range 8).foldl (fun m i =>
    setField (setField m i 1 (datWord f i != 0).toNat) (8 + i) 1 (ctlGroup f i != 0).toNat) 0

/-- The record header of R249. -/
def recHeader (r : SpineRec) (cmp : Bool) : BitVec 16 :=
  let w : BitVec 16 := 0x8000#16
  let w := setField w 11 4 r.svc.val
  let w := setField w 9 2 (phaseCode r.phase)
  let w := setField w 5 4 r.out.toNat
  let w := setField w 4 1 cmp.toNat
  setField w 3 1 r.pool.toNat

/-- The bits of a record. -/
def recBits (cmp : Bool) (r : SpineRec) : List Bool :=
  let m := if cmp then recMask r.flit else BitVec.allOnes 16
  bitsMsb (recHeader r cmp) ++ (if cmp then bitsMsb m else []) ++
  (List.range 8).flatMap (fun g => if m.getLsbD (8 + g) then bitsMsb (ctlGroup r.flit g) else []) ++
  (List.range 8).flatMap (fun w => if m.getLsbD w then bitsMsb (datWord r.flit w) else [])

/-- A record as a receiver restores it: its spine VC, phase, output, pool bit, flit and length in bits. -/
structure RecIn where
  svc : SvcId
  phase : RPhase
  out : Nat
  pool : Bool
  flit : Flit
  len : Nat
deriving DecidableEq, Repr

/-- Read the items of a record that are present, from the bits after the header and mask. -/
def readItems (m : BitVec 16) (l : List Bool) : Option (Flit × List Bool) :=
  let step (acc : Option (Flit × List Bool)) (i : Nat) : Option (Flit × List Bool) :=
    match acc with
    | none => none
    | some (f, l) =>
      let g := i < 8
      let k := if g then i else i - 8
      if !m.getLsbD (if g then 8 + k else k) then some (f, l)
      else if g then
        (if l.length < 17 then none
         else some ({ f with
           ctl := setField f.ctl (16 * k) 16 (natMsb (l.take 16))
           par := setField f.par k 1 ((l.getD 16 false).toNat) }, l.drop 17))
      else if l.length < 72 then none
      else some ({ f with
        dat := setField f.dat (64 * k) 64 (natMsb (l.take 64))
        chk := setField f.chk (8 * k) 8 (natMsb ((l.drop 64).take 8)) }, l.drop 72)
  (List.range 16).foldl step (some (zeroFlit, l))

/-- One record from the front of a bit stream, when it is whole. -/
def readRec (l : List Bool) : Option (RecIn × List Bool) :=
  if l.length < 16 then none
  else
    let h := l.take 16
    let cmp := h.getD 11 false
    let body := l.drop 16
    if cmp && decide (body.length < 16) then none
    else
      let m : BitVec 16 := if cmp then BitVec.ofNat 16 (natMsb (body.take 16)) else BitVec.allOnes 16
      match readItems m (if cmp then body.drop 16 else body) with
      | none => none
      | some (f, rest) =>
        some ({ svc := Fin.ofNat 16 (natMsb ((h.drop 1).take 4)), phase := phaseOf (natMsb ((h.drop 5).take 2)),
                out := natMsb ((h.drop 7).take 4), pool := h.getD 12 false, flit := f,
                len := l.length - rest.length }, rest)

/-- The records that end in a payload, and the bits of one that does not (R252). -/
def readRecs : Nat → List Bool → List RecIn × List Bool
  | 0, l => ([], l)
  | fuel + 1, l =>
    if l.length < 16 || !(l.headD false) then ([], [])
    else match readRec l with
      | none => ([], l)
      | some (r, rest) =>
        let (rs, left) := readRecs fuel rest
        (r :: rs, left)

/-- A payload being packed: its bits, the record begun and not finished, the records that wait, and those whose last
bit it carries. -/
structure Packed where
  payload : List Bool
  tx : Option (List Bool × SpineRec)
  queue : List SpineRec
  done : List SpineRec
deriving DecidableEq, Repr

/-- Pack records from the queue into `room` bits (R252). -/
def packQueue (cmp : Bool) : Nat → List SpineRec → Packed
  | room, [] => { payload := List.replicate room false, tx := none, queue := [], done := [] }
  | room, r :: q =>
    if room < 16 then { payload := List.replicate room false, tx := none, queue := r :: q, done := [] }
    else
      let b := recBits cmp r
      if room < b.length then { payload := b.take room, tx := some (b.drop room, r), queue := q, done := [] }
      else
        let p := packQueue cmp (room - b.length) q
        { p with payload := b ++ p.payload, done := r :: p.done }

def packSfu (cmp : Bool) (tx : Option (List Bool × SpineRec)) (q : List SpineRec) : Packed :=
  match tx with
  | none => packQueue cmp 472 q
  | some (b, r) =>
    if 472 < b.length then { payload := b.take 472, tx := some (b.drop 472, r), queue := q, done := [] }
    else
      let p := packQueue cmp (472 - b.length) q
      { p with payload := b ++ p.payload, done := r :: p.done }

/-- A DATA body (R246). -/
def dataBody (payload : List Bool) : BitVec 480 := (0x40#8 ++ BitVec.ofNat 472 (natMsb payload) : BitVec 480)
def payloadOf (body : BitVec 480) : List Bool := bitsMsb (bits body 0 472)

/-! ### LINK bodies (R247) -/

/-- The fields of a LINK SFU; `credit` holds the cumulative counters of an edge link or the increments of a diagonal
one. -/
structure LinkSfu where
  ack : Option (BitVec 12)
  nak : Option (BitVec 12)
  poolOff : Bool
  idle : BitVec 16
  req : BitVec 2
  credit : List Nat
deriving DecidableEq, Repr

def linkBody (diag : Bool) (x : LinkSfu) : BitVec 480 :=
  let b : BitVec 480 := 0
  let b := setField b 478 2 2
  let b := match x.ack with
    | some a => setField (setField b 477 1 1) 465 12 a.toNat
    | none => b
  let b := match x.nak with
    | some a => setField (setField b 464 1 1) 452 12 a.toNat
    | none => b
  let b := setField (setField (setField b 451 1 x.poolOff.toNat) 435 16 x.idle.toNat) 433 2 x.req.toNat
  let w := if diag then 4 else 12
  x.credit.zipIdx.foldl (fun b (c, s) => setField b (241 + w * s) w c) b

def readLink (diag : Bool) (b : BitVec 480) : LinkSfu :=
  let w := if diag then 4 else 12
  { ack := if b.getLsbD 477 then some (bits b 465 12) else none,
    nak := if b.getLsbD 464 then some (bits b 452 12) else none,
    poolOff := b.getLsbD 451, idle := bits b 435 16, req := bits b 433 2,
    credit := (List.range 16).map (fun s => field b (241 + w * s) w) }

end Sys2Proof.Machine
end

