-- ==== Sys2Proof/Machine/Spine.lean ====
section
/-! DEFINITION. Spine link ends (chapter 08): slots and SFUs, acknowledgement and replay, credits, training and retrain,
links that go down, and the return of their packets. -/

namespace Sys2Proof.Machine

abbrev hubAt (e : LinkEnd) : RouterId := hubOf (endQuad e)
def timeE (s : State) (e : LinkEnd) (k : Nat) : Nat := timeR s (hubAt e) k
def endRuns (s : State) (e : LinkEnd) : Bool := routerRuns s (hubAt e)

/-- Pail capacity (R253). -/
def pailCap (e : LinkEnd) : Nat := if diagonal e then 1536 else 1024
/-- Pool headroom (R264). -/
def headroom (e : LinkEnd) : Nat := if diagonal e then 1024 else 512

def svcs : List SvcId := List.finRange 16

/-! ### Status (R278) -/

def stateCode : LinkState → Nat
  | .off => 0 | .train => 1 | .up => 2 | .retrain => 3 | .down => 4

/-- Good lanes that carry no data: those that a training has locked (R268). -/
def spares (x : SpineEnd) : List Nat :=
  (x.lanes.zipIdx.filter (fun (l, _) => !l.failed && !l.failing && !l.inUse && l.locked)).map (·.2)

/-- The status word of a link end. -/
def linkStatus (x : SpineEnd) : Word :=
  let w : Word := 0
  let w := setField w 61 3 (stateCode x.state)
  let w := setField w 58 3 (min 7 (x.lanes.filter (·.failed)).length)
  let w := setField w 55 3 (spares x).length
  let w := setField w 48 7 (((x.lanes.zipIdx.find? (fun (l, _) => l.failing && l.inUse)).map (·.2)).getD 0x7F)
  let w := setField w 36 1 x.poolOff.toNat
  let w := setField w 24 12 x.e.toNat
  let w := setField w 12 12 x.o.toNat
  setField w 0 12 x.n.toNat

def repLink (s : State) (e : LinkEnd) (ev : EventCode) : State := repSpine s e ev 0 (linkStatus (spn s e)).toNat

/-! ### Starting a retrain, going down (R266, R271, R272) -/

/-- A retrain starts at one end. -/
def startRetrain (s : State) (e : LinkEnd) : State :=
  updE s e (fun x => if x.state == .up then
      { x with state := .retrain, attempts := 0, lanesIn := [], retrainAt := none } else x)

/-- The lanes of an end stop and it reads OFF (R276, R280). -/
def lanesOff (x : SpineEnd) : SpineEnd :=
  { x with state := .off, lanesIn := [], attempting := false, stopping := false
           lanes := x.lanes.map (fun l => { l with locked := false }) }

/-- Clear or set a link's bit at the Herdsman and, where `hubs`, at once at both hubs (R272). -/
def setSpineUp (s : State) (l : LinkId) (up hubs : Bool) : State :=
  let f (v : BitVec 6) : BitVec 6 := setField v l.val 1 up.toNat
  let s := updHerd s (fun h => { h with spineUp := f h.spineUp })
  if hubs then
    [endIn l.val (linkQuads l.val).1, endIn l.val (linkQuads l.val).2].foldl (fun s e =>
      updR s (hubAt e) (fun x => { x with spineUp := f x.spineUp })) s
  else s

def bothEnds (l : LinkId) : List LinkEnd := [Fin.ofNat 12 (2 * l.val), Fin.ofNat 12 (2 * l.val + 1)]
def linkOf (e : LinkEnd) : LinkId := Fin.ofNat 6 (endLink e)

/-- A link is declared down (R272). -/
def declareDown (s : State) (l : LinkId) : State :=
  (bothEnds l).foldl (fun s e =>
    let s := updE s e (fun x => { x with
      state := .down, downEpoch := some (epochR s (hubAt e)), lastTry := epochR s (hubAt e), lanesIn := [],
      lockTimer := false, attempting := false, stopping := false })
    repLink s e .linkDown) (setSpineUp s l false true)

/-! ### Acknowledgement (R253–R258) -/

/-- Whether a sequence lies in the window. -/
def inWindow (x : SpineEnd) (q : BitVec 12) : Bool := decide ((q - x.o).toNat ≤ (x.n - x.o).toNat)

/-- Release the Pail entries before sequence `q`; the flag says whether there were any. -/
def releaseBefore (x : SpineEnd) (q : BitVec 12) (now : Nat) : SpineEnd :=
  if x.o = q then x
  else { x with o := q, pail := x.pail.filter (fun p => decide ((BitVec.ofNat 12 p.seq - q).toNat < 2048)),
                lastProgress := now, fruitless := 0 }

/-- A replay that made no progress starts (R258); the fourth in a row starts a retrain. -/
def fruitlessReplay (s : State) (e : LinkEnd) (from_ : BitVec 12) : State :=
  let s := updE s e (fun x => { x with
    replay := if from_ = x.n then none else some from_, fruitless := x.fruitless + 1 })
  if 4 ≤ (spn s e).fruitless then startRetrain (updE s e (fun x => { x with fruitless := 0 })) e else s

def takeAck (s : State) (e : LinkEnd) (q : BitVec 12) (now : Nat) : State :=
  let x := spn s e
  if inWindow x q then
    updE s e (fun x => releaseBefore x (if q = x.n then x.n else q + 1) now)
  else countE s e 5

def takeNak (s : State) (e : LinkEnd) (q : BitVec 12) (now : Nat) : State :=
  let x := spn s e
  if !inWindow x q then countE s e 5
  else if x.o = q then
    (if q = x.n then updE s e (fun x => { x with replay := none }) else fruitlessReplay s e q)
  else updE s e (fun x => { releaseBefore x q now with replay := if q = x.n then none else some q })

/-- One returned credit of spine VC `v` (R262). -/
def takeCredit (x : SpineEnd) (v : SvcId) (now : Nat) : SpineEnd :=
  let x := { x with credit := tupd x.credit v (· + 1) }
  match tget x.outstanding v with
  | [] => x
  | q :: rest =>
    let x := { x with outstanding := tupd x.outstanding v (fun _ => rest) }
    if decide ((q - x.o).toNat < (x.n - x.o).toNat) then releaseBefore x (q + 1) now else x

/-- The credits that a LINK SFU returns for spine VC `v` (R261). -/
def creditsIn (e : LinkEnd) (x : SpineEnd) (v : SvcId) (c : Nat) : Nat :=
  if diagonal e then c
  else
    let d := (BitVec.ofNat 12 c - tget x.farCount v).toNat
    if 1 ≤ d ∧ d ≤ 2047 then d else 0

def takeCredits (e : LinkEnd) (x : SpineEnd) (credit : List Nat) (now : Nat) : SpineEnd :=
  svcs.foldl (fun x v =>
    let n := creditsIn e x v (credit.getD v.val 0)
    let x := (List.range n).foldl (fun x _ => takeCredit x v now) x
    if diagonal e || n = 0 then x
    else { x with farCount := tupd x.farCount v (fun _ => BitVec.ofNat 12 (credit.getD v.val 0)) }) x

/-- R263: the spine VCs on which IDLE_FULL shows a leak. -/
def leaks (x : SpineEnd) (idle : BitVec 16) (now : Nat) : List SvcId :=
  svcs.filter (fun v => idle.getLsbD v.val && decide (tget x.lastSent v + 256 ≤ now) && !x.recovering &&
    tget x.credit v != tget spineDepth v)

/-- An SFU comes off the lanes of an end as `w`; `rest` is still on them (R240). -/
def offLanes (x : SpineEnd) (w : BitVec 512) (rest : List (BitVec 512)) : SpineEnd :=
  { x with lanesIn := rest, seenPar := x.seenPar ^^^ w }

/-- LINK_SFU_RECEIVE (R256, R261–R263): the SFU on the lanes is a LINK SFU. -/
def execLinkSfuReceive (e : LinkEnd) (k : Nat) (dist : BitVec 512) (s : State) : Host.Outcome State Fault Refusal :=
  let x := spn s e
  .next (match (if endRuns s e && x.state == .up then x.lanesIn else []) with
    | [] => s
    | w :: rest =>
      let w := w ^^^ dist
      if sfuCheck x.e w != .link || x.lanes.any (fun l => l.inUse && !l.locked) then s
      else
        let now := timeE s e k
        let l := readLink (diagonal e) (sfuBody w)
        let s := updE s e (fun x => { offLanes x w rest with farPoolOff := l.poolOff })
        let s := match l.ack with
          | some q => takeAck s e q now
          | none => s
        let s := match l.nak with
          | some q => takeNak s e q now
          | none => s
        let s := updE s e (fun x => takeCredits e x l.credit now)
        let lost := leaks (spn s e) l.idle now
        let s := if lost.isEmpty then s
          else startRetrain (updE s e (fun x => { x with
            creditLeaks := lost.foldl (fun c v => tupd c v (· + 1)) x.creditLeaks })) e
        if l.req == 1 then startRetrain s e else s)

/-! ### Receiving DATA (R254, R259, R265) -/

/-- Pool units of a record (R259). -/
def recUnits (r : RecIn) : Nat := (r.len + 63) / 64

/-- Hand an accepted record to the hub's input. -/
def recToHub (s : State) (e : LinkEnd) (r : RecIn) : State :=
  let la := mkLa r.out (r.svc.val / 2) (fLen r.flit) (!isHead r.flit) r.phase
  let w : WireFlit := { la := la, flit := r.flit, bvc := r.svc, pool := if r.pool then some (recUnits r) else none }
  updR s (hubAt e) (fun x => updIn x (endPort e) (fun i => { i with wire := i.wire ++ [w] }))

/-- A failed SFU (R254). -/
def sfuFails (s : State) (e : LinkEnd) (w : BitVec 512) (rest : List (BitVec 512)) : State :=
  countE (updE s e (fun x => { offLanes x w rest with
    recovering := true, nakDue := x.nakDue || !x.recovering })) e 3

/-- DATA_SFU_RECEIVE (R254, R261, R264, R265): an SFU that is no good LINK SFU. -/
def execDataSfuReceive (e : LinkEnd) (k : Nat) (dist : BitVec 512) (s : State) : Host.Outcome State Fault Refusal :=
  let x := spn s e
  .next (match (if endRuns s e && x.state == .up then x.lanesIn else []) with
    | [] => s
    | w :: rest =>
      let w := w ^^^ dist
      let now := timeE s e k
      let unlocked := x.lanes.any (fun l => l.inUse && !l.locked)
      match (if unlocked then .bad else sfuCheck x.e w) with
      | .link => s
      | .bad => sfuFails s e w rest
      | .data =>
        let (rs, left) := readRecs 64 (x.rxBits ++ payloadOf (sfuBody w))
        let units := (rs.filter (·.pool)).foldl (fun n r => n + recUnits r) 0
        if x.poolFree < units then countE (updE (sfuFails s e w rest) e (fun x => { x with nakDue := true })) e 9
        else
          let free := x.poolFree - units
          let off := !x.poolOff && decide (free < headroom e)
          let s := updE s e (fun x => { offLanes x w rest with
            e := x.e + 1, recovering := false, nakDue := false, lastAccept := now,
            ackCount := x.ackCount + 1, ackSince := x.ackSince.or (some now), rxBits := left, poolFree := free,
            poolOff := x.poolOff || off, poolNote := x.poolNote || off, poolSince := if off then now else x.poolSince,
            dedicated := rs.foldl (fun d r => if r.pool then d else tupd d r.svc (· + 1)) x.dedicated })
          rs.foldl (fun s r => recToHub s e r) s)

/-- NAK_REPEAT (R255). -/
def execNakRepeat (e : LinkEnd) (k : Nat) (s : State) : Host.Outcome State Fault Refusal :=
  let x := spn s e
  let now := timeE s e k
  .next (if endRuns s e && x.state == .up && x.recovering && !x.nakDue &&
      decide (max x.lastNak x.lastAccept + 96 ≤ now) then
    updE s e (fun x => { x with nakDue := true }) else s)

/-- ACK_DUE (R257). -/
def execAckDue (e : LinkEnd) (k : Nat) (s : State) : Host.Outcome State Fault Refusal :=
  let x := spn s e
  let now := timeE s e k
  let late := match x.ackSince with
    | some t => decide (t + 96 ≤ now)
    | none => false
  .next (if endRuns s e && x.state == .up && (decide (32 ≤ x.ackCount) || late) then
    updE s e (fun x => { x with ackIsDue := true }) else s)

/-- REPLAY_TIMEOUT (R258). The timer runs from the last progress, and afresh from each replay that it begins itself
(log 135); a replay that a NAK begins does not touch it. -/
def execReplayTimeout (e : LinkEnd) (k : Nat) (s : State) : Host.Outcome State Fault Refusal :=
  let x := spn s e
  let now := timeE s e k
  .next (if endRuns s e && x.state == .up && x.o != x.n &&
      decide (max x.lastProgress x.timerAt + 512 ≤ now) then
    fruitlessReplay (updE (countE s e 6) e (fun x => { x with timerAt := now })) e x.o else s)

/-! ### Sending (R248, R252, R253) -/

/-- A credit return that no LINK SFU has carried (R248). -/
def creditPending (x : SpineEnd) : Bool := svcs.any (fun v => 0 < tget x.freedInc v)

/-- An SFU goes onto the lanes towards an end, in one slot of that direction (R240). -/
def takeSlot (x : SpineEnd) (w : BitVec 512) : SpineEnd :=
  { x with lanesIn := x.lanesIn ++ [w], slots := x.slots + 1, sentPar := x.sentPar ^^^ w }

def onLanes (s : State) (e : LinkEnd) (w : BitVec 512) : State := updE s (farEnd e) (fun x => takeSlot x w)

/-- Send a LINK SFU (R247, R255, R257). -/
def sendLink (s : State) (e : LinkEnd) (now : Nat) : State :=
  let x := spn s e
  let diag := diagonal e
  let inc (v : SvcId) : Nat := min 15 (tget x.freedInc v)
  let after (v : SvcId) : Nat := if diag then tget x.freedInc v - inc v else 0
  let idle : BitVec 16 := svcs.foldl (fun m v =>
    setField m v.val 1 (decide (tget x.dedicated v = 0) && decide (after v = 0)).toNat) 0
  let l : LinkSfu :=
    { ack := if x.ackIsDue then some (x.e - 1) else none, nak := if x.nakDue then some x.e else none,
      poolOff := x.poolOff, idle := idle, req := if x.linkReq then 1 else 0,
      credit := svcs.map (fun v => if diag then inc v else (tget x.freed v).toNat) }
  let s := countE s e 1
  let s := if x.nakDue then countE s e 4 else s
  let s := updE s e (fun x => { x with
    sinceLink := 0, poolNote := false, firstLink := false, linkReq := false, nakDue := false,
    lastNak := if x.nakDue then now else x.lastNak,
    ackIsDue := false, ackCount := if x.ackIsDue then 0 else x.ackCount,
    ackSince := if x.ackIsDue then none else x.ackSince,
    freedInc := tabOf after })
  onLanes s e (sfuOf linkPrefix (linkBody diag l))

/-- Note that dedicated flits were sent (R263). -/
def noteSent (x : SpineEnd) (rs : List SpineRec) (now : Nat) : SpineEnd :=
  { x with lastSent := rs.foldl (fun l r => if r.pool then l else tupd l r.svc (fun _ => now)) x.lastSent }

/-- Send the next SFU of a replay (R256). -/
def sendReplay (s : State) (e : LinkEnd) (q : BitVec 12) (now : Nat) : State :=
  match (spn s e).pail.find? (fun p => p.seq == q.toNat) with
  | none => updE s e (fun x => { x with replay := none })
  | some p =>
    let s := countE s e 2
    let s := updE s e (fun x => noteSent { x with
      replay := if q + 1 = x.n then none else some (q + 1), sinceLink := x.sinceLink + 1 } p.recs now)
    onLanes s e p.sfu

/-- Pack and send a new DATA SFU (R252, R253, R262). -/
def sendData (s : State) (e : LinkEnd) (now : Nat) : State :=
  let x := spn s e
  let p := packSfu x.compress x.tx x.queue
  let w := sfuOf (dataPrefix x.n) (dataBody p.payload)
  let formed := (x.queue.take (x.queue.length - p.queue.length))
  let saved := if x.compress then formed.foldl (fun n r => n + (728 - (recBits true r).length)) 0 else 0
  let s := countE (countE s e 0) e 11 saved
  let s := updE s e (fun x => noteSent { x with
    n := x.n + 1, pail := x.pail ++ [{ seq := x.n.toNat, sfu := w, recs := p.done }], tx := p.tx, queue := p.queue,
    sinceLink := x.sinceLink + 1, lastProgress := if x.o = x.n then now else x.lastProgress,
    outstanding := p.done.foldl (fun o r => if r.pool then o else tupd o r.svc (fun l => l ++ [x.n])) x.outstanding }
    p.done now)
  onLanes s e w

/-- SFU slots between two lane markers of a direction (R240). -/
def markerSlots : Nat := 2048

/-- SPINE_RECORD_SEND (R248, R252): one SFU slot of a transmitter; after 2,048 of them the lane markers go first
(R240). -/
def execSpineRecordSend (e : LinkEnd) (k : Nat) (s : State) : Host.Outcome State Fault Refusal :=
  let x := spn s e
  let now := timeE s e k
  let full := decide (pailCap e ≤ (x.n - x.o).toNat)
  let ready := x.replay.isSome || (!full && (x.tx.isSome || !x.queue.isEmpty))
  let urgent := x.nakDue || x.poolNote || x.firstLink
  let due := x.ackIsDue || creditPending x || x.poolOff || x.linkReq
  .next (if !endRuns s e || x.state != .up || decide (markerSlots ≤ (spn s (farEnd e)).slots) then s
    else if urgent || !ready || (due && decide (8 ≤ x.sinceLink)) then sendLink s e now
    else match x.replay with
      | some q => sendReplay s e q now
      | none => sendData s e now)

/-! ### Lanes (R240, R268, R269) -/

def updLane (s : State) (e : LinkEnd) (i : Nat) (f : Lane → Lane) : State :=
  updE s e (fun x => { x with lanes := x.lanes.modify i f })

/-- A lane has lost symbol lock (R266, R269). -/
def lockLost (s : State) (e : LinkEnd) (i : Nat) : State :=
  match (spn s e).lanes[i]? with
  | none => s
  | some l =>
    if l.failed then s
    else if l.inUse then
      let up := (spn s e).state == .up
      let s := updLane s e i (fun l => { l with locked := false, failing := l.failing || up })
      startRetrain (updE s e (fun x => { x with lockTimer := x.lockTimer || up || x.state == .retrain })) e
    else if (spn s e).state == .up then
      repSpine (updLane s e i (fun l => { l with locked := false, failed := true })) e .laneSpared i
    else updLane s e i (fun l => { l with locked := false })

/-- LANE_LOCK_LOSS (R266). -/
def execLaneLockLoss (e : LinkEnd) (lane : Nat) (s : State) : Host.Outcome State Fault Refusal :=
  .next (if endRuns s e then lockLost s e lane else s)

/-- LANE_FAILING (R269): a lane's mismatches exceed LANE_ERR_MAX. -/
def execLaneFailing (e : LinkEnd) (lane : Nat) (s : State) : Host.Outcome State Fault Refusal :=
  let x := spn s e
  .next (match (if endRuns s e then x.lanes[lane]? else none) with
    | none => s
    | some l =>
      if l.failed || l.failing || decide (l.bips.length ≤ x.laneErrMax) then s
      else if l.inUse then
        updE (updLane s e lane (fun l => { l with failing := true })) e (fun x => { x with
          retrainAt := some (epochR s (hubAt e) + 1) })
      else repSpine (updLane s e lane (fun l => { l with failed := true })) e .laneSpared lane)

/-- Bits of an SFU on each logical lane (R240). -/
def laneBits (e : LinkEnd) : Nat := if diagonal e then 8 else 16

/-- BIP-8 of logical lane `j`, out of the parity of the SFUs of a direction (R240). Bit `b` of the BIP covers the
lane's bits at places `b` and, on an edge link, `b + 8` of each SFU (log 136). -/
def laneBip (e : LinkEnd) (par : BitVec 512) (j : Nat) : BitVec 8 :=
  let x := bits par (laneBits e * j) 8
  if diagonal e then x else x ^^^ bits par (laneBits e * j + 8) 8

/-- BIP-8 of a physical lane; the training patterns of a spare count as even (log 136). -/
def bipOf (e : LinkEnd) (par : BitVec 512) (l : Lane) : BitVec 8 := if l.inUse then laneBip e par l.lane else 0

/-- The marker of physical lane `i` of the direction towards `e` (R240). -/
def markerWord (e : LinkEnd) (x : SpineEnd) (i : Nat) (l : Lane) : BitVec 32 :=
  (BitVec.ofNat 8 i ++ bipOf e x.sentPar l ++ 0xA5C3#16 : BitVec 32)

/-- What befell lane `i`: a lane that is not named has its marker whole and in its slot. -/
def seenAt (seen : List MarkerSeen) (i : Nat) : MarkerSeen :=
  (seen.find? (fun m => m.lane == i)).getD { lane := i, arrived := true, dist := 0 }

/-- Whether a word in a marker's slot is lane `i`'s marker: its pattern and its lane number (R240; log 136). -/
def isMarker (w : BitVec 32) (i : Nat) : Bool := bits w 0 16 == (0xA5C3#16 : BitVec 16) && field w 24 8 == i

/-- What one lane's marker slot shows (R240). -/
def laneMarker1 (s : State) (e : LinkEnd) (m : MarkerSeen) (i : Nat) : State :=
  let x := spn s e
  match x.lanes[i]? with
  | none => s
  | some l =>
    let w := markerWord e x i l ^^^ m.dist
    if m.arrived && isMarker w i then
      let ok := bits w 16 8 == bipOf e x.seenPar l
      let n := l.markers + 1
      let s := if ok then s else countE s e 10
      updLane s e i (fun l => { l with
        missed := 0, markers := n,
        bips := (l.bips.filter (fun j => decide (n < j + 1024))) ++ (if ok then [] else [n]) })
    else
      let s := updLane s e i (fun l => { l with missed := l.missed + 1 })
      if l.missed = 1 then lockLost s e i else s

/-- LANE_MARKER (R240): every physical lane of the direction towards `e` sends its marker at once, behind the 2,048
SFUs of its slots. While an end trains again its slots carry no SFUs, and the row stands for their passing. -/
def execLaneMarker (e : LinkEnd) (seen : List MarkerSeen) (s : State) : Host.Outcome State Fault Refusal :=
  let x := spn s e
  .next (if endRuns s e && ((x.state == .up && decide (markerSlots ≤ x.slots) && x.lanesIn.isEmpty) ||
      x.state == .retrain) then
      updE ((List.range (physLanes e)).foldl (fun s i => laneMarker1 s e (seenAt seen i) i) s) e
        (fun x => { x with slots := 0, sentPar := 0, seenPar := 0 })
    else s)

/-- R268: fail the FAILING lanes that good spares can replace and map the data lanes in ascending order; `none` where
the good lanes are fewer than the data lanes. The list holds the physical lanes failed now, and a FAILING lane kept. -/
def mapLanes (e : LinkEnd) (lanes : List Lane) : Option (List Lane × List Nat × Option Nat) :=
  let good := (lanes.filter (fun l => !l.failed && !l.failing)).length
  let fails := (lanes.zipIdx.filter (fun (l, _) => !l.failed && l.failing)).map (·.2)
  -- FAILING lanes are kept, lowest first, only as far as the good lanes do not reach
  let keep := dataLanes e - good
  let kept := fails.take keep
  let gone := fails.drop keep
  let lanes := lanes.zipIdx.map (fun (l, i) => if gone.contains i then { l with failed := true } else l)
  let live := (lanes.zipIdx.filter (fun (l, _) => !l.failed)).map (·.2)
  if live.length < dataLanes e then none
  else
    let use_ := live.take (dataLanes e)
    some (lanes.zipIdx.map (fun (l, i) => { l with
      inUse := use_.contains i, lane := if use_.contains i then use_.findIdx (· == i) else l.lane,
      locked := !l.failed, missed := 0 }), gone, kept.head?)

/-- Report what a mapping failed or kept (R268, R269). -/
def reportLanes (s : State) (e : LinkEnd) (gone : List Nat) (kept : Option Nat) : State :=
  let s := gone.foldl (fun s i => repSpine s e .laneSpared i) s
  match kept with
  | some i =>
    if (spn s e).spareNoted then s
    else repSpine (updE s e (fun x => { x with spareNoted := true })) e .sparesExhausted i
  | none => s

/-! ### Training and retrain (R266–R270) -/

/-- The link's bit follows both ends, by the relay of R272. -/
def relayUp (s : State) (e : LinkEnd) : State :=
  let l := linkOf e
  if (bothEnds l).all (fun e => (spn s e).state == .up && !(spn s e).stopping) then setSpineUp s l true false else s

/-- Free dedicated cells of a receiver (R270). -/
def freeCells (x : SpineEnd) (v : SvcId) : Nat := tget spineDepth v - tget x.dedicated v

/-- R270 step 2: dedicated flits that hold credit and that the far receiver, expecting `f`, has not accepted. The unsent
ones alone when `f` is none. -/
def unaccepted (s : State) (e : LinkEnd) (f : Option (BitVec 12)) (v : SvcId) : Nat :=
  let x := spn s e
  let mine (r : SpineRec) : Bool := !r.pool && r.svc == v
  let sent := match f with
    | some q => x.pail.foldl (fun n p =>
        if (BitVec.ofNat 12 p.seq - q).toNat < 2048 then n + (p.recs.filter mine).length else n) 0
    | none => 0
  let waiting := (x.queue.filter mine).length + (match x.tx with
    | some (_, r) => (mine r).toNat
    | none => 0)
  let held := match tget (outOf s (hubAt e) (endPort e)).owner v with
    | some o => if o.pool then 0 else o.left
    | none => 0
  sent + waiting + held

/-- The far receiver of a direction that has trained: its lanes are empty, its cumulative counters and the counts of
R240 are zero. -/
def rxTrained (x : SpineEnd) : SpineEnd :=
  { x with lanesIn := [], slots := 0, sentPar := 0, seenPar := 0, freed := tabAll 16 0, freedInc := tabAll 16 0 }

/-- R270: the direction in which `e` sends resumes with the far receiver's state. Everything that the two ends hold of
one direction is exchanged at one moment, that of its transmitter's completion (log 137). -/
def resume270 (s : State) (e : LinkEnd) (now : Nat) : State :=
  let far := spn s (farEnd e)
  let f := far.e
  let all (v : SvcId) : Nat := unaccepted s e (some f) v
  let unsent (v : SvcId) : Nat := unaccepted s e none v
  let s := updE s e (fun x =>
    let x := if (f - x.o).toNat ≤ (x.n - x.o).toNat then releaseBefore x f now else x
    let credit (v : SvcId) : Nat := freeCells far v - all v
    { x with
      credit := tabOf credit
      outstanding := tmap x.outstanding (fun v l =>
        l.drop (l.length - (tget spineDepth v - credit v - unsent v)))
      farCount := tabAll 16 0
      replay := if f = x.n then none else some f
      lastProgress := now, fruitless := 0 })
  updE s (farEnd e) rxTrained

/-- A receiver that starts afresh (R266); the records that its hub holds keep their cells. -/
def rxFresh (x : SpineEnd) : SpineEnd :=
  { rxTrained x with
    e := 0, recovering := false, nakDue := false, ackCount := 0, ackSince := none, ackIsDue := false, rxBits := [],
    poolOff := false, poolNote := false }

/-- R266: a full training that resumes nothing starts the direction in which `e` sends afresh. A DOWN link that gave up
its Pail takes the free cells as its credit, since the far end may hold flits of before (log 137). -/
def freshTx (s : State) (e : LinkEnd) (now : Nat) : State :=
  let far := spn s (farEnd e)
  let s := updE s e (fun x => { x with
    n := 0, o := 0, pail := [], replay := none, fruitless := 0, lastProgress := now,
    credit := if x.state == .train then spineDepth else tabOf (freeCells far), outstanding := tabAll 16 [],
    farCount := tabAll 16 0, farPoolOff := false, pailBad := none })
  updE s (farEnd e) rxFresh

def toUp (x : SpineEnd) (lanes : List Lane) : SpineEnd :=
  { x with state := .up, lanes := lanes, lockTimer := false, attempts := 0, attempting := false, downEpoch := none,
           returning := false, retrainAt := none, firstLink := true }

/-- A training attempt has failed (R266). -/
def trainFails (s : State) (e : LinkEnd) : State :=
  let x := spn s e
  let s1 := updE s e (fun x => { x with state := .down, lastTry := epochR s (hubAt e), attempting := false })
  if x.state == .train then repLink s1 e .linkDown else s1

/-- LINK_TRAINING_COMPLETE (R267, R268, R272). -/
def execLinkTrainingComplete (e : LinkEnd) (seen : List LaneTrain) (far : FarEnd) (s : State) :
    Host.Outcome State Fault Refusal :=
  let x := spn s e
  let going := endRuns s e && x.en && !x.withhold && (x.state == .train || (x.state == .down && x.attempting))
  let hub := hubAt (farEnd e)
  let wired := far.link.toNat == endLink e && far.hubX.toNat == rx hub && far.hubY.toNat == ry hub
  let lanes := x.lanes.zipIdx.map (fun (l, i) =>
    { l with failed := !(seen.any (fun t => t.lane == i && t.good)) })
  let bad := (lanes.zipIdx.filter (fun (l, i) => l.failed && !((x.lanes[i]?.map (·.failed)).getD false))).map (·.2)
  let now := timeE s e 0
  .next (if !going then s
    else if !wired then
      trainFails (repSpine s e .linkMiswired (far.link.toNat * 2 ^ 16 + far.hubX.toNat * 2 ^ 8 + far.hubY.toNat)) e
    else
      let s := bad.foldl (fun s i => repSpine s e .laneSpared i) s
      match mapLanes e lanes with
      | none => trainFails (updE s e (fun x => { x with lanes := lanes })) e
      | some (lanes, gone, kept) =>
        let s := reportLanes s e gone kept
        let s := if x.downEpoch.isSome then resume270 s e now
          else
            let s := freshTx s e now
            -- the other direction starts afresh too, unless the far end has completed and sends already
            if (spn s (farEnd e)).state == .up then s else updE s e rxFresh
        relayUp (repLink (updE s e (fun x => toUp x lanes)) e .linkUp) e)

/-- LINK_TRAINING_TIMEOUT (R266): 8 µs without completing, or too few good lanes. -/
def execLinkTrainingTimeout (e : LinkEnd) (s : State) : Host.Outcome State Fault Refusal :=
  let x := spn s e
  .next (if endRuns s e && (x.state == .train || (x.state == .down && x.attempting)) then trainFails s e else s)

/-- The lanes that a retrain finds: one that does not lock, or reports a wrong number, is failed (R267 steps 1
and 2). -/
def retrainLanes (lanes : List Lane) (seen : List LaneTrain) : List Lane :=
  lanes.zipIdx.map (fun (l, i) => { l with failed := l.failed || !(seen.any (fun t => t.lane == i && t.good)) })

/-- LINK_RETRAIN_COMPLETE (R267, R270). -/
def execLinkRetrainComplete (e : LinkEnd) (seen : List LaneTrain) (s : State) : Host.Outcome State Fault Refusal :=
  let x := spn s e
  .next (if endRuns s e && x.state == .retrain then
      let found := retrainLanes x.lanes seen
      let bad := (found.zipIdx.filter (fun (l, i) => l.failed && !((x.lanes[i]?.map (·.failed)).getD false))).map (·.2)
      match mapLanes e found with
      | none => s
      | some (lanes, gone, kept) =>
        let s := bad.foldl (fun s i => repSpine s e .laneSpared i) s
        let s := resume270 (reportLanes s e gone kept) e (timeE s e 0)
        repLink (updE s e (fun x => toUp x lanes)) e .linkRetrain
    else s)

/-- LINK_RETRAIN_FAIL (R266): a retrain attempt fails; the fourth in a row declares the link down. -/
def execLinkRetrainFail (e : LinkEnd) (s : State) : Host.Outcome State Fault Refusal :=
  let x := spn s e
  .next (if endRuns s e && x.state == .retrain then
      if 3 ≤ x.attempts then declareDown s (linkOf e)
      else updE s e (fun x => { x with attempts := x.attempts + 1 })
    else s)

/-- LOCK_LOSS_EXPIRY (R266). -/
def execLockLossExpiry (e : LinkEnd) (s : State) : Host.Outcome State Fault Refusal :=
  let x := spn s e
  .next (if endRuns s e && x.state == .retrain && x.lockTimer then declareDown s (linkOf e) else s)

/-- LINK_DOWN (R272): the link layer declares a link down. -/
def execLinkDown (l : LinkId) (s : State) : Host.Outcome State Fault Refusal :=
  .next (if (bothEnds l).any (fun e => endRuns s e && ((spn s e).state == .up || (spn s e).state == .retrain)) then
      declareDown s l else s)

/-- LINK_DOWN_RETRY (R266): sixteen epochs after a failed attempt. -/
def execLinkDownRetry (e : LinkEnd) (s : State) : Host.Outcome State Fault Refusal :=
  let x := spn s e
  .next (if endRuns s e && x.state == .down && x.en && !x.withhold && !x.attempting &&
      decide (x.lastTry + 16 ≤ epochR s (hubAt e)) then
    updE s e (fun x => { x with attempting := true }) else s)

/-- TRAINING_PATTERNS_SEEN (R266): the far end trains, and this end joins it. -/
def execTrainingPatternsSeen (e : LinkEnd) (s : State) : Host.Outcome State Fault Refusal :=
  let x := spn s e
  let far := spn s (farEnd e)
  .next (if !endRuns s e || !x.en then s
    else if far.state == .retrain then startRetrain s e
    else if far.state == .train || (far.state == .down && far.attempting) then
      match x.state with
      | .off => updE s e (fun x => { x with state := .train, lanesIn := [] })
      | .down => if x.withhold then s else updE s e (fun x => { x with attempting := true })
      | _ => s
    else s)

/-! ### The return of a down link (R273–R275, R438) -/

/-- Records of the Pail from `f` onwards, and of those not yet sent; then with the sequence of each sent one. -/
def pendingRecs (x : SpineEnd) (f : BitVec 12) : List (Option (BitVec 12) × SpineRec) :=
  (x.pail.filter (fun p => decide ((BitVec.ofNat 12 p.seq - f).toNat < 2048))).flatMap (fun p =>
    p.recs.map (fun r => (some (BitVec.ofNat 12 p.seq), r))) ++
  (match x.tx with
   | some (_, r) => [(none, r)]
   | none => []) ++ x.queue.map (fun r => (none, r))

/-- Sort records into packets per spine VC: returned packets in the order of their heads, and the number discarded
because their head was delivered, or cannot be read. -/
def sortRecs (bad : Option (BitVec 12)) : List (Option (BitVec 12) × SpineRec) → List (SvcId × Packet × Bool) →
    List (SvcId × Packet × Bool)
  | [], acc => acc
  | (q, r) :: rest, acc =>
    let unread := match bad, q with
      | some b, some a => decide ((a - b).toNat < 2048)
      | some _, none => true
      | none, _ => false
    if isHead r.flit then sortRecs bad rest (acc ++ [(r.svc, [r.flit], !unread)])
    else
      let open_ (p : SvcId × Packet × Bool) : Bool := p.1 == r.svc && decide (p.2.1.length < pktLen p.2.1)
      if acc.any open_ then sortRecs bad rest (updFirst open_ (fun p => (p.1, p.2.1 ++ [r.flit], p.2.2)) acc)
      else sortRecs bad rest acc

/-- Body flits that complete a packet whose tail never came (R273). -/
def padIn (s : State) (e : LinkEnd) (v : SvcId) : State × Nat :=
  let i := tget (rtr s (hubAt e)).ins (endPort e)
  let ws := i.wire.filter (fun w => w.bvc == v)
  let (left, head) := ws.foldl (fun (acc : Nat × BitVec 128) w =>
    if isHead w.flit then (fLen w.flit, w.flit.ctl) else (acc.1 - 1, acc.2)) (tget i.left v, tget i.head v)
  if left = 0 then (s, 0)
  else
    let len := field head 92 2
    let pads : List WireFlit := (List.range left).map (fun j =>
      let c := bodyCtl head (len - left + 1 + j) len true
      { la := mkLa 0 (v.val / 2) 0 true .mesh, flit := { ctl := c, par := ctlParity c, chk := 0, dat := 0 }, bvc := v,
        pool := none })
    (updE (updR s (hubAt e) (fun x => updIn x (endPort e) (fun i => { i with wire := i.wire ++ pads }))) e
      (fun x => { x with dedicated := tupd x.dedicated v (· + left) }), 1)

/-- The transmitter side gives up what it still holds. -/
def emptyTx (x : SpineEnd) : SpineEnd :=
  { x with pail := [], o := x.n, replay := none, tx := none, queue := [], outstanding := tabAll 16 [], downEpoch := none,
           withhold := false, pailBad := none }

/-- The event that a return makes at an end (R273). -/
def repReturn (s : State) (e : LinkEnd) (ret disc pad : Nat) : State :=
  repSpine s e .linkReturn (min 4095 ret * 2 ^ 20 + min 4095 disc * 2 ^ 8 + min 255 pad)

/-- Pad what the receiver of an end has begun and not finished. -/
def padAll (s : State) (e : LinkEnd) : State × Nat :=
  svcs.foldl (fun (acc : State × Nat) v =>
    let (s, k) := padIn acc.1 e v
    (s, acc.2 + k)) (updE s e (fun x => { x with rxBits := [] }), 0)

/-- Whether the Herdsman can read a receiver's E (R273, R275). -/
def endReadable (s : State) (e : LinkEnd) : Bool :=
  routerRuns s (hubAt e) && (tget s.herd.rounds (sectorOf (hubAt e))).reachable

/-- Packets whose heads are delivered and whose bodies still come: their owner entries end here (R273). -/
def ownersLeft (s : State) (e : LinkEnd) : Bool :=
  bufVcs.any (fun v => (tget (outOf s (hubAt e) (endPort e)).owner v).isSome)

/-- RETURN_WAIT_EXPIRY (R273, R438). -/
def execReturnWaitExpiry (e : LinkEnd) (s : State) : Host.Outcome State Fault Refusal :=
  let x := spn s e
  .next (match (if endRuns s e && x.state == .down && endReadable s (farEnd e) then x.downEpoch else none) with
    | none => s
    | some d =>
      if epochR s (hubAt e) < d + x.returnWait then s
      else
        let f := (spn s (farEnd e)).e
        let pk := sortRecs x.pailBad (pendingRecs x f) []
        let ret := (pk.filter (·.2.2)).map (·.2.1)
        let heads := (pk.filter (fun p => !p.2.2)).length
        -- packets whose head lies before E and whose records are discarded
        let orphans := ((pendingRecs x f).foldl (fun (acc : List SvcId × Nat) r =>
          if isHead r.2.flit then (acc.1 ++ [r.2.svc], acc.2)
          else if acc.1.contains r.2.svc then acc else (acc.1 ++ [r.2.svc], acc.2 + 1)) ([], 0)).2
        let s := updE s e (fun x => { emptyTx x with returning := ownersLeft s e })
        let s := updR s (hubAt e) (fun r => { r with returned := r.returned ++ ret })
        let (s, pads) := padAll s e
        repReturn s e ret.length (heads + orphans) pads)

/-- RETURN_E_TIMEOUT (R275): four epochs more, and the far E still cannot be read. -/
def execReturnETimeout (e : LinkEnd) (s : State) : Host.Outcome State Fault Refusal :=
  let x := spn s e
  .next (match (if endRuns s e && x.state == .down && !endReadable s (farEnd e) then x.downEpoch else none) with
    | none => s
    | some d =>
      if epochR s (hubAt e) < d + x.returnWait + 4 then s
      else
        let disc := ((pendingRecs x x.o).filter (fun r => isHead r.2.flit)).length
        let s := updE s e (fun x => { emptyTx x with returning := ownersLeft s e })
        let (s, pads) := padAll s e
        repReturn s e 0 disc pads)

/-! ### LINK_EN (R276) -/

/-- An end whose LINK_EN is 0 and that has drained reads OFF. -/
def drainedEnd (s : State) (e : LinkEnd) : Bool :=
  let x := spn s e
  match x.state with
  | .off | .train => true
  | .up => x.pail.isEmpty && x.queue.isEmpty && x.tx.isNone && !ownersLeft s e
  | .retrain => false
  | .down => x.downEpoch.isNone

/-- Start full training at an OFF end where the mode lets it (R266, R276). -/
def startTraining (s : State) (e : LinkEnd) : State :=
  updE s e (fun x => if x.state == .off && x.en then { x with state := .train, lanesIn := [], stopping := false } else x)

def trainModes (m : Mode) : Bool := m == .train || m == .serve || m == .drowse || m == .recover

/-- LINK_EN_OFF (R276): the link drains, and stops once the Pails are empty. -/
def linkEnOff (s : State) (l : LinkId) : State :=
  if (bothEnds l).all (fun e => endRuns s e && (!(spn s e).en || (spn s e).stopping)) then
    let s := setSpineUp s l false false
    let s := (bothEnds l).foldl (fun s e => updE s e (fun x => { x with stopping := true })) s
    if (bothEnds l).all (drainedEnd s) then
      let s := (bothEnds l).foldl (fun s e => updE s e lanesOff) s
      if trainModes s.aon.mode then (bothEnds l).foldl startTraining s else s
    else s
  else s
def execLinkEnOff (l : LinkId) (s : State) : Host.Outcome State Fault Refusal := .next (linkEnOff s l)

/-! ### No route (R91) -/

/-- The destination quadrants of deterministic-class heads that wait at a hub with no spine route. -/
def noRoute (s : State) (r : RouterId) : List Nat :=
  inputPorts.flatMap (fun p => bufVcs.filterMap (fun v =>
    match tget (tget (rtr s r).ins p).buf v with
    | [] => none
    | b :: _ =>
      let vc := meshVc r p v
      if isHead b.flit && decide (4 ≤ vc) && (wants s r b vc (fLen b.flit + 1)).isEmpty then some (quadOf (destRouter b.flit)).val
      else none))

end Sys2Proof.Machine
end

