-- ==== Sys2Proof/Machine/Dip.lean ====
section
/-! DEFINITION. The Dipper (chapter 12): counter selections, the snapshot latch, gathers and their publication. -/

namespace Sys2Proof.Machine

/-! ### Which unit holds a counter (R371) -/

def unitOf (g : Nat) : Option CtrUnit :=
  if g < 1536 then some (.router (Fin.ofNat 96 (g / 16)))
  else if g < 3072 then some (.ni (Fin.ofNat 192 ((g - 1536) / 8)))
  else if g < 3216 then some (.spine (Fin.ofNat 12 ((g - 3072) / 12)))
  else none

/-- Spine counters live in the hub router that holds the link end. -/
def unitRouter : CtrUnit → RouterId
  | .router r => r
  | .ni n => routerOf n
  | .spine e => hubOf (endQuad e)

def unitCounters : CtrUnit → List Nat
  | .router r => (List.range 16).map (ctrRouter r + ·)
  | .ni n => (List.range 8).map (ctrNi n + ·)
  | .spine e => (List.range 12).map (ctrSpine e + ·)

/-- The counter units at a router. -/
def routerUnits (r : RouterId) : List CtrUnit :=
  [.router r, .ni (slotAt r 0), .ni (slotAt r 1)] ++
  ((List.finRange 12).filter (fun e => hubOf (endQuad e) == r)).map .spine

/-- R372: counters with a fixed event. -/
def fixedCtr (g : Nat) : Bool := decide (3072 ≤ g) || (decide (1536 ≤ g) && decide (5 ≤ (g - 1536) % 8))

/-! ### Selections (R378, R379, R392) -/

/-- The value that a write leaves in a selection: the event of a fixed counter is ignored, and CHAIN stands in even
counters of pairs that can chain. -/
def selWritten (g : Nat) (v : Word) : BitVec 32 :=
  let w : BitVec 32 := v.setWidth 32 &&& 0xFFFFFC3F#32
  let w := if fixedCtr g then setField w 0 6 0 else w
  if g % 2 = 0 && mayChain g then w else setField w 30 1 0

/-- A selection write can reach the unit now. -/
def selReaches (s : State) (u : CtrUnit) : Bool :=
  routerReached s (unitRouter u) && routerRuns s (unitRouter u)

/-- Send a selection to its unit, or keep it for the unit's return. -/
def sendSel (s : State) (g : Nat) (w : BitVec 32) : State :=
  match unitOf g with
  | none => s
  | some u =>
    if selReaches s u then
      updDip s (fun d => { d with
        waiting := d.waiting ++ [(g, w, tget s.epochs (clusterOf (unitRouter u)))], busy := true })
    else updDip s (fun d => { d with resend := if d.resend.contains g then d.resend else d.resend ++ [g] })

/-- A write of DIP_SEL_DATA. -/
def writeSel (s : State) (v : Word) : State :=
  let g := s.dip.selAddr.toNat
  if 3216 ≤ g then s
  else if s.dip.busy then updDip s (fun d => { d with dropped := true })
  else
    let w := selWritten g v
    sendSel (updDip s (fun d => { d with sel := sput selReset g w d.sel })) g w

/-- Send again the selections that waited for a unit (R379). -/
def resendSels (s : State) (p : CtrUnit → Bool) : State :=
  let due := s.dip.resend.filter (fun g => match unitOf g with
    | some u => p u && selReaches s u
    | none => false)
  due.foldl (fun s g => sendSel s g (sget selReset s.dip.sel g))
    (updDip s (fun d => { d with resend := d.resend.filter (fun g => !due.contains g) }))

/-- DIP_SEL_DATA (R378, R392). -/
def execDipSelData (v : Word) (s : State) : Host.Outcome State Fault Refusal :=
  .next (if herdRuns s then writeSel s v else s)

def zeroCtr (d : Dipper) (g : Nat) : Dipper :=
  { d with value := sput (fun _ => 0) g 0 d.value, ovf := sput (fun _ => false) g false d.ovf }

/-- A unit applies one selection: the counter restarts, and the odd one of a pair whose CHAIN bit changes (R378). -/
def applySel (d : Dipper) (g : Nat) (w : BitVec 32) : Dipper :=
  let old := sget selReset d.inForce g
  let d := zeroCtr { d with inForce := sput selReset g w d.inForce } g
  if g % 2 = 0 && mayChain g && selChain old != selChain w then zeroCtr d (g + 1) else d

/-- A unit's pool that is OFF counts its cycles so far (R279). -/
def accrueUnit (s : State) (u : CtrUnit) : State :=
  match u with
  | .spine e => accruePool s e (timeE s e 0)
  | .router _ | .ni _ => s

/-- Pools that are OFF at the link ends of a router's hub count their cycles so far (R279). -/
def accrueAt (s : State) (r : RouterId) : State :=
  ((List.finRange 12).filter (fun e => hubAt e == r)).foldl (fun s e => accruePool s e (timeE s e 0)) s

/-- The counters of a unit start again (R379, R457, R461): zero, OVF clear, the selections of the Herdsman's copy. -/
def restartUnit (s : State) (u : CtrUnit) : State :=
  updDip (accrueUnit s u) (fun d => (unitCounters u).foldl (fun d g =>
    let d := zeroCtr d g
    { d with
      inForce := sput selReset g (sget selReset d.sel g) d.inForce
      waiting := d.waiting.filter (fun w => w.1 != g)
      busy := d.busy && !d.waiting.any (fun w => w.1 == g)
      resend := d.resend.filter (· != g)
      restarted := sput (fun _ => false) g true d.restarted }) d)

/-! ### The latch (R380, R387) -/

/-- Every counter of the units at a router copies itself into its shadow, and the bandwidth window closes. -/
def latchRouter (s : State) (t : Nat) (r : RouterId) : State :=
  let gs := (routerUnits r).flatMap unitCounters
  let s := updDip (accrueAt s r) (fun d => gs.foldl (fun d g => { d with
    shadow := sput (fun _ => 0) g (sget (fun _ => 0) d.value g) d.shadow
    shadowOvf := sput (fun _ => false) g (sget (fun _ => false) d.ovf g) d.shadowOvf
    shadowSel := sput selReset g (sget selReset d.inForce g) d.shadowSel })
    { d with latched := tupd d.latched r (fun _ => t + 1) })
  updR s r (fun x => { x with
    bwShadowIn := x.bwIn, bwShadowOut := x.bwOut, bwIn := tabAll 10 0, bwOut := tabAll 10 0 })

/-- A router's units have received the arm for a snapshot tick (R381). -/
def armedFor (q : SnapSeq) (r : RouterId) (t : Nat) : Bool :=
  match q.armed with
  | some (e, secs) => decide (e = t) && secs.getLsbD (sectorOf r).val
  | none => false

/-- The Herdsman arms every unit that it can reach, four epochs before a snapshot tick (R381). -/
def armUnits (s : State) : State :=
  match s.dip.seq with
  | some q =>
    let t := s.herd.epoch + 4
    if q.first ≤ t ∧ (t - q.first) % q.interval = 0 ∧ (t - q.first) / q.interval < q.repeats then
      updDip s (fun d => { d with seq := some { q with armed := some (t, ~~~ (sectorsMissed s)) } })
    else s
  | none => s

/-- The snapshot tick that a router's units are armed for, have reached and have not latched. -/
def latchDue (s : State) (r : RouterId) : Option Nat :=
  match s.dip.seq with
  | some q =>
    let t := epochR s r
    if armedFor q r t && tget s.dip.latched r != t + 1 then some t else none
  | none => none

def latchCluster (s : State) (c : ClusterId) : State :=
  (clusterRouters c).foldl (fun s r => match latchDue s r with
    | some t => latchRouter s t r
    | none => s) s

/-- SNAPSHOT_LATCH (R380): a cluster's units at cycle 0 of their own snapshot tick. -/
def execSnapshotLatch (c : ClusterId) (s : State) : Host.Outcome State Fault Refusal :=
  .next (if clusterRuns s c then latchCluster s c else s)

/-- A unit applies the selections that reached it before its last tick; a latch of the same tick comes first (R378,
R380). -/
def applySels (s : State) (u : CtrUnit) : State :=
  let c := clusterOf (unitRouter u)
  let mine (w : Nat × BitVec 32 × Nat) : Bool := unitOf w.1 == some u && decide (w.2.2 < tget s.epochs c)
  if s.dip.waiting.any mine then
    let s := accrueUnit (latchCluster s c) u
    updDip s (fun d =>
      let d' := (d.waiting.filter mine).foldl (fun d w => applySel d w.1 w.2.1) d
      let rest := d.waiting.filter (fun w => !mine w)
      { d' with waiting := rest, busy := !rest.isEmpty })
  else s

/-- SELECTION_APPLY (R378, R380): a unit's next tick. -/
def execSelectionApply (u : CtrUnit) (s : State) : Host.Outcome State Fault Refusal :=
  .next (if clusterRuns s (clusterOf (unitRouter u)) then applySels s u else s)

/-! ### Gathers (R384–R391) -/

/-- The entry of global index `g` in a gather at tick `t`; `user` and `groups` for the user buffer. -/
def gatherEntry (s : State) (t : Nat) (user : Bool) (groups : BitVec 16) (g : Nat) : Word :=
  match unitOf g with
  | none => 0
  | some u =>
    let d := s.dip
    let own := sget selReset d.shadowSel g
    let even := sget selReset d.shadowSel (evenOf g)
    let chain := mayChain g && selChain even
    let group := field own 26 4
    let r := unitRouter u
    let bad := match u with
      | .ni n => wordBad s (.ni n) (.shadow g)
      | _ => wordBad s (.router r) (.shadow g)
    if !routerReached s r || bad || tget d.latched r != t + 1 || (user && !groups.getLsbD group) then 0
    else
      let ev := if fixedCtr g then (Config.fixedCode g).toNat else selEvent (if chain then even else own)
      let w : Word := setField 0 63 1 1
      let w := setField w 62 1 chain.toNat
      let w := setField w 61 1 (sget (fun _ => false) d.shadowOvf g).toNat
      let w := setField w 60 1 (sget (fun _ => false) d.restarted g).toNat
      let w := setField w 54 6 ev
      let w := setField w 50 4 group
      setField w 0 48 (sget (fun _ => 0) d.shadow g).toNat

def bwWord (s : State) (r : RouterId) (p : Nat) : Word :=
  if h : p < 10 then
    if hasPort r (Fin.ofNat 11 p) then
      BitVec.ofNat 64 (tget (rtr s r).bwShadowIn ⟨p, h⟩ * 2 ^ 32 + tget (rtr s r).bwShadowOut ⟨p, h⟩)
    else 0
  else 0

def lineOfWords (f : Nat → Word) : BitVec 512 :=
  (List.range 8).foldl (fun d i => setLineWord d i (f i)) 0

/-- Line `l` (1–639) of a half (R389, R390). -/
def gatherLine (s : State) (t : Nat) (user : Bool) (ctl : Word) (l : Nat) : BitVec 512 :=
  if l < 403 then lineOfWords (fun i => gatherEntry s t user (ctl.setWidth 16) ((l - 1) * 8 + i))
  else if l < 595 then
    let r : RouterId := Fin.ofNat 96 ((l - 403) / 2)
    if !routerReached s r || tget s.dip.latched r != t + 1 || (user && !ctl.getLsbD 16) then 0
    else lineOfWords (fun i => bwWord s r ((l - 403) % 2 * 8 + i))
  else 0

/-- ABSENT of R389: sectors unreachable, or of which no router latched. -/
def absentMask (s : State) (t : Nat) : Nat :=
  (List.finRange 8).foldl (fun m n =>
    if sectorOk s n && (List.range 12).any (fun x => tget s.dip.latched (rid x n.val) == t + 1) then m else m + 2 ^ n.val) 0

/-- The header of a half. -/
def gatherHeader (s : State) (q : SnapSeq) (t seq : Nat) (valid user bw : Bool) : BitVec 512 :=
  let first := q.done == 0
  let w : BitVec 512 := BitVec.ofNat 512 (seq % 2 ^ 32)
  let w := setField w 32 8 (valid.toNat + 2 * (!first).toNat + 4 * user.toNat + 8 * bw.toNat)
  let w := setField w 40 8 (absentMask s t)
  let w := setField w 48 16 (if first then 0 else q.interval)
  let w := setField w 64 48 t
  let w := setField w 128 32 q.cmdId
  setField w 160 8 q.ring.val

def halfLine (base : Word) (q : Nat) : Nat := field base 12 40 * 64 + q % 2 * 640

/-- How many halves a gather of the sequence writes. -/
def gatherHalves (q : SnapSeq) : Nat := if q.user then 1 else 2

/-- The records of a half: lines 1 to 639 in packets of four lines (R385). -/
def halfRecords (s : State) (t l0 : Nat) (user : Bool) (ctl : Word) : List MemAcc :=
  (List.range 160).map (fun i => linesAcc s .gather opWrFullP (l0 + 1 + 4 * i)
    ((List.range (if i = 159 then 3 else 4)).map (fun j => gatherLine s t user ctl (4 * i + j + 1))))

/-- The writes of one half but for its closing header (R385): the header, once that is answered the records, and a
fence. -/
def writeHalf (s : State) (q : SnapSeq) (t seq : Nat) (base : Word) (user : Bool) (ctl : Word) : List MemAcc :=
  let l0 := halfLine base seq
  fullLine s (.gatherHead user) l0 (gatherHeader s q t seq false user (!user || ctl.getLsbD 16)) ::
    (halfRecords s t l0 user ctl).modify 0 (fun a => { a with after := some (.gatherHead user) }) ++
    [fenceAcc .gatherFence]

def closeHalf (s : State) (q : SnapSeq) (t seq : Nat) (base : Word) (user : Bool) (ctl : Word) : MemAcc :=
  fullLine s .gatherClose (halfLine base seq) (gatherHeader s q t seq true user (!user || ctl.getLsbD 16))

def isGather (u : MemUse) : Bool :=
  match u with
  | .gatherHead _ | .gather | .gatherFence | .gatherClose => true
  | _ => false

/-- An abandoned gather writes nothing more, and what its writes are answered is of no account. -/
def dropGather (s : State) : State :=
  updHerd s (fun h => { h with
    memOut := h.memOut.filter (fun a => !isGather a.use)
    memBusy := h.memBusy.map (fun b => if isGather b.use then { b with use := .home } else b) })

/-- The sequence after a gather: its next tick, or its end with the command (R381, R382, R386). -/
def gatherOver (s : State) (abandoned : Bool) : State :=
  let s := dropGather s
  match s.dip.seq with
  | none => s
  | some q =>
    let q := { q with done := q.done + 1, abandoned := q.abandoned + abandoned.toNat }
    let res : BitVec 320 := BitVec.ofNat 320 q.first
    if q.stop then
      endCmd (updDip s (fun d => { d with gather := none, seq := none })) q.ring q.index .staleSet 0 res
    else if q.repeats ≤ q.done then
      endCmd (updDip s (fun d => { d with gather := none, seq := none })) q.ring q.index
        (if q.abandoned = 0 then .ok else .poison) (BitVec.ofNat 16 (min 65535 q.abandoned)) res
    else updDip s (fun d => { d with gather := none, seq := some { q with next := q.next + q.interval } })

/-- DIPPER_GATHER (R384, R385): at cycle 64 of the snapshot's epoch, the halves are written through NI 188. -/
def execDipperGather (s : State) : Host.Outcome State Fault Refusal :=
  .next (match s.dip.seq, s.dip.gather with
    | some q, none =>
      if herdRuns s && decide (q.next ≤ s.herd.epoch) then
        let t := q.next
        let d := s.dip
        let priv := if q.user then [] else writeHalf s q t d.qPriv d.privBase false 0
        let s1 := memWrites s (priv ++ writeHalf s q t d.qUser d.userBase true d.userCtl)
        updDip s1 (fun d => { d with
          gather := some (t, false), gatherAcks := 0, gatherFail := false, gBase := (d.privBase, d.userBase, d.userCtl)
          qPriv := if q.user then d.qPriv else d.qPriv + 1, qUser := d.qUser + 1, restarted := [] })
      else s
    | _, _ => s)

/-- DIPPER_PUBLISH (R385): at a tick from T + 6 and before T + 8, the closing headers are written once every FN_DONE has
come with OK; once they are answered OK, the halves are published. -/
def execDipperPublish (s : State) : Host.Outcome State Fault Refusal :=
  .next (match s.dip.seq, s.dip.gather with
    | some q, some (t, closing) =>
      let d := s.dip
      if herdRuns s && decide (t + 6 ≤ s.herd.epoch) && decide (s.herd.epoch < t + 8) && !d.gatherFail &&
          d.gatherAcks == gatherHalves q then
        if closing then
          gatherOver (updDip s (fun d => { d with
            privSeq := if q.user then d.privSeq else BitVec.ofNat 32 (d.qPriv - 1)
            userSeq := BitVec.ofNat 16 (d.qUser - 1) })) false
        else
          let priv := if q.user then [] else [closeHalf s q t (d.qPriv - 1) d.gBase.1 false 0]
          let s1 := memWrites s (priv ++ [closeHalf s q t (d.qUser - 1) d.gBase.2.1 true d.gBase.2.2])
          updDip s1 (fun d => { d with gather := some (t, true), gatherAcks := 0 })
      else s
    | _, _ => s)

/-- GATHER_ABANDON (R386): some write of it was answered other than OK, or it is not published by the Dipper's tick T +
8. -/
def execGatherAbandon (s : State) : Host.Outcome State Fault Refusal :=
  .next (match s.dip.gather with
    | some (t, _) =>
      if herdRuns s && (s.dip.gatherFail || decide (t + 8 ≤ s.herd.epoch)) then gatherOver s true else s
    | none => s)

/-- SNAPSHOT (R381, R382): a sequence starts, is refused, or waits for the end of a user sequence. -/
def execSnapshot (ring : CmdRing) (s : State) : Host.Outcome State Fault Refusal :=
  .next (match startedOp s ring 0x10 with
    | none => s
    | some c =>
      let n := dField c.desc 14 2
      let i := dField c.desc 16 2
      let user := decide (4 ≤ ring.val)
      let begin_ (s : State) : State :=
        let t := dField c.desc 8 6
        let first := if t < s.herd.epoch + 4 then s.herd.epoch + 4 else t
        ranCmd (armUnits (updDip s (fun d => { d with
          seq := some { ring := ring, index := c.index, next := first, first := first, repeats := n, interval := i,
                        cmdId := dField c.desc 0 4, done := 0, abandoned := 0, user := user,
                        stop := false, armed := none } }))) ring c.index
      let bad := n = 0 || i < 8
      match s.dip.seq with
        | none => if bad then endCmd s ring c.index .poison 0xFFFF else begin_ s
        | some q =>
          if user || !q.user then endCmd s ring c.index .notReady 0
          else if bad then endCmd s ring c.index .poison 0xFFFF
          else if s.dip.gather.isSome then
            updDip s (fun d => { d with seq := some { q with stop := true } })
          else
            begin_ (endCmd (updDip s (fun d => { d with seq := none })) q.ring q.index .staleSet 0
              (BitVec.ofNat 320 q.first)))

/-! ### Set-up registers (R390, R392) -/

/-- DIP_SEL_STATUS (R392): DROPPED is cleared by writing 1. -/
def writeSelStatus (s : State) (v : Word) : State :=
  updDip s (fun d => { d with dropped := d.dropped && !v.getLsbD 2 })
def execDipSelStatus (v : Word) (s : State) : Host.Outcome State Fault Refusal :=
  .next (if herdRuns s then writeSelStatus s v else s)

def writeDipReg (s : State) (reg : DipReg) (v : Word) : State :=
  let base := v &&& 0x000FFFFFFFFFF000#64
  match reg with
  | .privBase => updDip s (fun d => { d with privBase := base })
  | .userBase => updDip s (fun d => { d with userBase := base })
  | .userCtl => updDip s (fun d => { d with userCtl := v &&& 0x1FFFF#64 })

/-- DIP_USER_CTL and the two bases (R390): held at once, in effect from the next gather. -/
def execDipUserCtl (reg : DipReg) (v : Word) (s : State) : Host.Outcome State Fault Refusal :=
  .next (if herdRuns s then writeDipReg s reg v else s)

/-- A register of page DIP_ (R392). -/
def readDip (s : State) (off : Nat) : Word :=
  let d := s.dip
  match off with
  | 0x000 => d.privBase
  | 0x008 => d.userBase
  | 0x010 => d.userCtl
  | 0x018 => d.selAddr.setWidth 64
  | 0x020 =>
    let g := d.selAddr.toNat
    if 3216 ≤ g then 0
    else
      let w := (sget selReset d.sel g).setWidth 64
      if fixedCtr g then setField w 0 6 (Config.fixedCode g).toNat else w
  | 0x028 => BitVec.ofNat 64 (d.dropped.toNat * 4 + (!d.resend.isEmpty).toNat * 2 + d.busy.toNat)
  | 0x030 => BitVec.ofNat 64 (d.privSeq.toNat * 2 ^ 32 + d.userSeq.toNat * 2 ^ 16 +
      (d.seq.any (·.user)).toNat * 2 + d.seq.isSome.toNat)
  | _ => 0

end Sys2Proof.Machine
end

