-- ==== Sys2Proof/Machine/Sha.lean ====
section
/-! DEFINITION. The digest and the MAC that R362 names for a report: SHA-256 and HMAC-SHA-256, over byte strings. The
constants of the digest are worked out from their definition: fraction bits of roots of the first primes. -/

namespace Sys2Proof.Machine

/-- The primes up to 311, sixty-four of them. -/
def shaPrimes : List Nat :=
  ((List.range 312).drop 2).filter (fun n => ((List.range n).drop 2).all (fun d => n % d != 0))

/-- The first 32 fraction bits of the `k`-th root of `p`: the largest `r` with `r ^ k ≤ p · 2 ^ (32 k)`, found from its
top bit down, without its integer part. -/
def rootBits (k p : Nat) : BitVec 32 :=
  BitVec.ofNat 32 ((List.range 37).foldr (fun b r =>
    if (r + 2 ^ b) ^ k ≤ p * 2 ^ (32 * k) then r + 2 ^ b else r) 0)

/-- The digest before any block, its eight words in order. -/
def shaStart : List (BitVec 32) := (shaPrimes.take 8).map (rootBits 2)

/-- The exclusive OR of a word rotated right by each of three amounts. -/
def spin (w : BitVec 32) (i j k : Nat) : BitVec 32 := w.rotateRight i ^^^ w.rotateRight j ^^^ w.rotateRight k

/-- The word that enters the message window behind the sixteen words it holds. -/
def shaExtend (win : List (BitVec 32)) : BitVec 32 :=
  let near := win.getD 14 0
  let far := win.getD 1 0
  win.getD 0 0 + win.getD 9 0 + (far.rotateRight 7 ^^^ far.rotateRight 18 ^^^ (far >>> 3)) +
    (near.rotateRight 17 ^^^ near.rotateRight 19 ^^^ (near >>> 10))

/-- One round on the eight words held as a list: the last leaves, a new first enters, the fifth takes a part. -/
def shaMix (key word : BitVec 32) (v : List (BitVec 32)) : List (BitVec 32) :=
  let at_ := fun i => v.getD i 0
  let pick := (at_ 4 &&& at_ 5) ||| (~~~(at_ 4) &&& at_ 6)
  let most := (at_ 0 &&& at_ 1) ||| (at_ 2 &&& (at_ 0 ||| at_ 1))
  let part := at_ 7 + key + word + pick + spin (at_ 4) 6 11 25
  (part + most + spin (at_ 0) 2 13 22) :: at_ 0 :: at_ 1 :: at_ 2 :: (at_ 3 + part) :: (v.drop 4).take 3

/-- One block of sixteen words into the digest: sixty-four rounds, then each word is added to what it was. -/
def shaAbsorb (v win : List (BitVec 32)) : List (BitVec 32) :=
  let last := ((shaPrimes.map (rootBits 3)).foldl (fun (a : List (BitVec 32) × List (BitVec 32)) key =>
    (shaMix key (a.2.getD 0 0) a.1, a.2.drop 1 ++ [shaExtend a.2])) (v, win)).1
  List.zipWith (· + ·) v last

def beBytes (n v : Nat) : List (BitVec 8) := (List.range n).map (fun i => BitVec.ofNat 8 (v / 256 ^ (n - 1 - i)))
def leBytes (n v : Nat) : List (BitVec 8) := (List.range n).map (fun i => BitVec.ofNat 8 (v / 256 ^ i))

/-- The number whose big-endian bytes are these. -/
def beNat (l : List (BitVec 8)) : Nat := l.foldl (fun n b => 256 * n + b.toNat) 0

/-- The bytes that end a message of `len` bytes: a one bit, zeros to 8 bytes short of a block's end, the bit length. -/
def shaPad (len : Nat) : List (BitVec 8) :=
  0x80#8 :: (List.replicate ((119 - len % 64) % 64) 0#8 ++ beBytes 8 (8 * len))

/-- SHA-256 of a byte string, as 32 bytes. -/
def sha256 (m : List (BitVec 8)) : List (BitVec 8) :=
  let whole := m ++ shaPad m.length
  ((List.range (whole.length / 64)).foldl (fun (a : List (BitVec 32) × List (BitVec 8)) _ =>
    (shaAbsorb a.1 ((List.range 16).map (fun i => BitVec.ofNat 32 (beNat ((a.2.drop (4 * i)).take 4)))), a.2.drop 64))
    (shaStart, whole)).1.flatMap (fun w => beBytes 4 w.toNat)

/-- HMAC-SHA-256 under a key of at most 64 bytes. -/
def hmac256 (key m : List (BitVec 8)) : List (BitVec 8) :=
  let k := key ++ List.replicate (64 - key.length) 0#8
  let keyed := fun (x : BitVec 8) (l : List (BitVec 8)) => sha256 (k.map (· ^^^ x) ++ l)
  keyed 0x5C (keyed 0x36 m)

/-- The number whose little-endian bytes are these. -/
def ofBytes : List (BitVec 8) → Nat
  | [] => 0
  | b :: bs => b.toNat + 256 * ofBytes bs

end Sys2Proof.Machine
end

