-- ==== Sys2Proof/Machine/Can.lean ====
section
/-! DEFINITION. The metering island (chapter 11): tally lanes, counters, reports, sealing, and its register page. -/

namespace Sys2Proof.Machine

/-! ### Events and the report log (R347, R362) -/

/-- Send what the Can holds over the register link while HCLK runs. The first frame carries the number of events lost. -/
def flushCan (s : State) : State :=
  match (if herdRuns s then s.can.events else []) with
  | ev :: rest =>
    ({ ev with dropped := s.can.eventsLost } :: rest).foldl report
      (updCan s (fun c => { c with events := [], eventsLost := 0 }))
  | [] => s

/-- An event of the Can: sent, held, or lost when sixteen are held. -/
def canEvent (s : State) (code : EventCode) (detail record : Nat) : State :=
  let ev := mkEvent code .die 0 0 s.herd.epoch (BitVec.ofNat 32 detail) (BitVec.ofNat 128 record)
  if s.can.events.length < 16 || herdRuns s then flushCan (updCan s (fun c => { c with events := c.events ++ [ev] }))
  else updCan s (fun c => { c with eventsLost := c.eventsLost + 1 })

/-- A record of the report log, at an ACLK count. -/
def canLogAt (s : State) (code arg detail aclk : Nat) : State :=
  updCan s (fun c =>
    if 60 ≤ c.log.length then { c with logDropped := satAdd 255 c.logDropped 1 }
    else { c with log := c.log ++ [BitVec.ofNat 128
      (code + arg % 65536 * 2 ^ 16 + detail % 2 ^ 32 * 2 ^ 32 + aclk % 2 ^ 64 * 2 ^ 64)] })
def canLog (s : State) (code arg detail : Nat) : State := canLogAt s code arg detail s.aon.aclk.toNat

/-! ### Counters (R348, R356, R358) -/

def tmapReset (i : Nat) : BitVec 16 := BitVec.ofNat 16 (0x8000 + i)
def tmapOf (m : Sparse (BitVec 16)) (i : Nat) : BitVec 16 := sget tmapReset m i
def measured (c : Can) (l : LaneId) : Bool := c.cfg.getLsbD (32 + l.val / 2)
def reportPeriod (c : Can) : Nat := max 1024 (field c.cfg 0 24)

def addCtr (m : Sparse Word) (i : Nat) (v : Word) : Sparse Word := sput (fun _ => 0) i (sget (fun _ => 0) m i + v) m

/-- Write one combiner entry to the counter store. What a lane adds after its boundary belongs to the next report. -/
def storeUnits (c : Can) (past : Bool) (e : Nat × Nat × Nat) : Can :=
  let i := field (tmapOf c.tmap e.1) 0 12 * 8 + e.2.1
  let v := BitVec.ofNat 64 (64 * e.2.2)
  { c with counters := addCtr c.counters i v, held := if past then addCtr c.held i v else c.held }

/-- The lane has delivered the boundary that is being collected. -/
def pastBoundary (c : Can) (l : LaneId) : Bool :=
  match c.closing with
  | some t => (tget c.lanes l).atBoundary == some t
  | none => false

def flushLane (c : Can) (l : LaneId) : Can :=
  let c' := (tget c.lanes l).combiner.foldl (fun d e => storeUnits d (pastBoundary c l) e) c
  { c' with lanes := tupd c'.lanes l (fun x => { x with combiner := [] }) }

/-- Merge a tally into the lane's combiner of eight entries and 16-bit sums; the oldest entry is evicted. -/
def combine (c : Can) (l : LaneId) (tenant kind units : Nat) : Can :=
  let x := tget c.lanes l
  match x.combiner.find? (fun e => e.1 == tenant && e.2.1 == kind) with
  | some e =>
    if e.2.2 + units < 65536 then
      { c with lanes := tupd c.lanes l (fun x => { x with
          combiner := x.combiner.map (fun e => if e.1 == tenant && e.2.1 == kind then (e.1, e.2.1, e.2.2 + units) else e) }) }
    else
      let c := storeUnits c (pastBoundary c l) e
      { c with lanes := tupd c.lanes l (fun x => { x with
          combiner := x.combiner.map (fun e => if e.1 == tenant && e.2.1 == kind then (e.1, e.2.1, units) else e) }) }
  | none =>
    let c := if x.combiner.length < 8 then c
      else match x.combiner with
        | e :: _ => storeUnits c (pastBoundary c l) e
        | [] => c
    { c with lanes := tupd c.lanes l (fun x => { x with
        combiner := (if x.combiner.length < 8 then x.combiner else x.combiner.drop 1) ++ [(tenant, kind, units)] }) }

/-! ### Closing a report (R360, R361) -/

/-- Take up the configuration written since (R365). -/
def takeConfig (c : Can) : Can := { c with cfg := c.cfgNext, tmap := c.tmapNext }

/-- The snapshot closes at boundary `t`. While a report is being written it is not taken (R361). A close that is asked for
by then and is not this one stays asked for. -/
def closeReport (s : State) (reason t : Nat) (absent : BitVec 32) : State :=
  if s.can.report.isSome then
    let s := canLog s 0x000F 0xFFFF t
    updCan s (fun c => { c with
      closing := none, held := [],
      asked := if reason = 1 ∨ reason = 2 ∨ reason = 3 then some (reason, t + 1) else c.asked })
  else
    updCan s (fun c =>
      let sealedCfg := reason == 1
      let r : CanReport :=
        { reason := reason, boundary := t, start := c.start, absent := absent,
          counters := c.held.foldl (fun m e => addCtr m e.1 (-e.2)) c.counters
          log := c.log, dropped := c.logDropped, exact := c.exact, sealed := c.sealed, aclk := s.aon.aclk.toNat,
          seq := c.nextSeq, cfg := if sealedCfg then c.cfgNext else c.cfg,
          tmap := if sealedCfg then c.tmapNext else c.tmap, lines := 0 }
      takeConfig { c with
        report := some r, nextSeq := c.nextSeq + 1, log := [], logDropped := 0, exact := true, start := t,
        closing := none,
        held := [], asked := if reason = 0 ∨ reason = 4 then c.asked else none, absentNow := absent })

/-- REASON of the close at a boundary. -/
def closeReason (c : Can) (t : Nat) : Nat :=
  match c.asked with
  | some (r, e) => if e ≤ t then r else 0
  | none => 0

/-- The measured lanes that have not delivered the boundary being collected. -/
def lanesMissing (c : Can) : List LaneId :=
  match c.closing with
  | some t => (List.finRange 32).filter (fun l => measured c l && (tget c.lanes l).atBoundary != some t)
  | none => []

def closeNow (s : State) : State :=
  match s.can.closing with
  | some t =>
    let absent := (lanesMissing s.can).foldl (fun (m : BitVec 32) l => m ||| (1#32 <<< l.val)) 0
    closeReport s (closeReason s.can t) t absent
  | none => s

/-! ### The lanes (R351–R356) -/

def badTally (s : State) (l : LaneId) (w : BitVec 24) : State :=
  canLog (updCan s (fun c => { c with exact := false })) 0x0009 l.val w.toNat

/-- R354: the value with these low twelve bits nearest to the lane's epoch plus one, the higher of two. -/
def laneEpoch (x : TallyLane) (low : Nat) : Nat :=
  if x.fresh then low
  else
    let e := x.epoch + 1
    let up := (low + 4096 - e % 4096) % 4096
    if up ≤ 2048 ∨ e + up < 4096 then e + up else e + up - 4096

/-- A marker that has reached the Can. -/
def takeMarker (s : State) (l : LaneId) (w : BitVec 24) : State :=
  let x := tget s.can.lanes l
  let e := laneEpoch x (field w 11 12)
  if !x.fresh && decide (e ≤ x.epoch) then badTally s l w
  else
    let s := updCan s (fun c =>
      let c := flushLane c l
      { c with lanes := tupd c.lanes l (fun x => { x with epoch := e, fresh := false }) })
    if !measured s.can l then s
    else
      let bound := e % reportPeriod s.can == 0 || closeReason s.can e != 0
      let s := match s.can.closing with
        | some t => if t < e && bound then closeNow s else s
        | none => s
      let open_ := match s.can.closing with
        | some t => t == e
        | none => bound
      if open_ then
        updCan s (fun c => { c with
          closing := some e, lanes := tupd c.lanes l (fun x => { x with atBoundary := some e }) })
      else s

/-- The word at the front of a lane FIFO reaches the Can; `dist` flips bits of it on the way. -/
def takeLane (s : State) (l : LaneId) (marker : Bool) (dist : BitVec 24) : State :=
  match (tget s.can.lanes l).fifo with
  | [] => s
  | raw :: rest =>
    if (field raw 0 7 == 0) != marker || !canRuns s then s
    else
      let w := raw ^^^ dist
      let s := updCan s (fun c => { c with mclkLost := false, lanes := tupd c.lanes l (fun x => { x with fifo := rest }.fill) })
      if parity w then canEvent (badTally s l w) .meterTallyParity l.val w.toNat
      else if field w 0 7 = 0 then takeMarker s l w
      else if measured s.can l && (tmapOf s.can.tmap (field w 11 12)).getLsbD 15 then
        updCan s (fun c => combine c l (field w 11 12) (field w 8 3) (field w 0 7))
      else s

/-- TALLY_WORD (R355, R356). -/
def execTallyWord (lane : LaneId) (dist : BitVec 24) (s : State) : Host.Outcome State Fault Refusal :=
  .next (takeLane s lane false dist)
/-- TALLY_MARKER (R354, R360). -/
def execTallyMarker (lane : LaneId) (dist : BitVec 24) (s : State) : Host.Outcome State Fault Refusal :=
  .next (takeLane s lane true dist)

/-- REPORT_CLOSE (R360): every measured lane has delivered the boundary. -/
def execReportClose (s : State) : Host.Outcome State Fault Refusal :=
  .next (if canRuns s && s.can.closing.isSome && (lanesMissing s.can).isEmpty then closeNow s else s)

/-- LANE_ABSENT_TIMEOUT (R360): 16,384 MCLK cycles after the first marker of a boundary. -/
def execLaneAbsentTimeout (s : State) : Host.Outcome State Fault Refusal :=
  .next (if canRuns s && s.can.closing.isSome then closeNow s else s)

/-! ### Writing a report (R362–R364) -/

def digestOf (cfg : Word) (tmap : Sparse (BitVec 16)) : List (BitVec 8) :=
  sha256 ((List.range 4096).flatMap (fun i => leBytes 2 (tmapOf tmap i).toNat) ++ leBytes 8 cfg.toNat)

/-- Bits of FLAGS in a header. -/
def reportFlags (c : Can) (r : CanReport) : Nat :=
  r.sealed.toNat + 2 * c.keyOk.toNat + 4 * r.exact.toNat + 8 * (r.absent != 0).toNat + 16 * (r.dropped != 0).toNat

def reportHeader (c : Can) (r : CanReport) : BitVec 512 :=
  let w : BitVec 512 := r.seq.setWidth 512
  let w := setField w 32 8 r.reason
  let w := setField w 40 8 (reportFlags c r)
  let w := setField w 48 8 r.log.length
  let w := setField w 56 8 r.dropped
  let w := setField w 64 64 c.session.toNat
  let w := setField w 128 48 r.start
  let w := setField w 192 48 r.boundary
  let w := setField w 256 64 r.aclk
  let w := setField w 320 32 c.sealEvents.toNat
  let w := setField w 352 32 3
  let w := setField w 384 16 (field r.cfg 32 16)
  setField w 416 32 r.absent.toNat

/-- Line `l` (0–4,111) of a report. -/
def reportLine (c : Can) (r : CanReport) (l : Nat) : BitVec 512 :=
  if l = 0 then reportHeader c r
  else if l < 16 then
    (List.range 4).foldl (fun d i => setField d (128 * i) 128 (((r.log.getD ((l - 1) * 4 + i) 0)).toNat)) 0
  else lineOfWords (fun k => sget (fun _ => 0) r.counters ((l - 16) * 8 + k))

def keyBytes (c : Can) : List (BitVec 8) := (List.finRange 4).flatMap (fun i => leBytes 8 (tget c.key i).toNat)

/-- CONFIG_DIGEST and MAC of a report. -/
def reportTrailer (c : Can) (r : CanReport) : BitVec 512 :=
  let dig := digestOf r.cfg r.tmap
  let body := (List.range 4112).flatMap (fun l => leBytes 64 (reportLine c r l).toNat)
  let mac := if c.keyOk then hmac256 (keyBytes c) (body ++ dig) else List.replicate 32 0#8
  BitVec.ofNat 512 (ofBytes (dig ++ mac))

def reportBase (c : Can) (r : CanReport) : Nat :=
  field c.rptBase 12 40 * 64 + r.seq.toNat % (field c.rptCtl 0 8 + 1) * 0x1080

/-- What NI 190's port has brought the Can: the status of the response that it awaits, and whether a posted write was
refused on its error sideband (R364, R490). -/
def canStatus (s : State) : Option Status :=
  (nif s canSlot).out.findSome? (fun o => match o with
    | .rsp p => if s.can.tag = some (fTag (hd p)) then some (fStatus (hd p)) else none
    | _ => none)
def canRefused (s : State) : Bool :=
  (nif s canSlot).out.any (fun o => match o with
    | .err _ _ _ _ => true
    | _ => false)

/-- The Can has taken what its port has brought. -/
def canTaken (s : State) : State :=
  updCan (updN s canSlot (fun x => { x with out := [] })) (fun c => { c with tag := none })

/-- A report that cannot be delivered is abandoned (R364). -/
def abandonReport (s : State) : State :=
  match s.can.report with
  | some r =>
    let s := updCan s (fun c => { c with report := none, lastFailed := true, memOut := [] })
    canEvent (canLog s 0x000E 0xFFFF r.seq.toNat) .meterReportFail r.seq.toNat 0
  | none => s

/-- The requests of a report up to its trailer: lines 0–4,111 as four-line posted writes, then FN_STORE_G. -/
def reportPackets (s : State) (r : CanReport) : List Packet :=
  let b := reportBase s.can r
  (List.range 1028).map (fun k => mkPacket (canCtl s opWrFullP (b + 4 * k))
    ((List.range 4).map (fun i => goodLine (reportLine s.can r (4 * k + i))))) ++ [[mkFlit (canCtl s opFnStoreG 0) []]]

/-- REPORT_WRITE (R364): the report is handed to NI 190. -/
def execReportWrite (s : State) : Host.Outcome State Fault Refusal :=
  .next (match (if canDelivers s then s.can.report else none) with
    | some r =>
      if r.lines ≠ 0 then s
      else resumeStore (updCan (canTaken s) (fun c => { c with
        report := some { r with lines := 4112 }, memOut := reportPackets s r })) canSlot
    | none => s)

/-- The trailer goes to NI 190 (R364). -/
def sendTrailer (s : State) (r : CanReport) : State :=
  resumeStore (updCan s (fun c => { c with
    report := some { r with lines := 4113 }
    memOut := [mkPacket (canCtl s opWrFullNp (reportBase s.can r + 4112)) [goodLine (reportTrailer s.can r)]] })) canSlot

/-- The trailer's WR_ACK is OK: the report is complete (R364). -/
def reportDone (s : State) (r : CanReport) : State :=
  canEvent (updCan s (fun c => { c with
    report := none, lastFailed := false, lastSeq := r.seq, lastDone := r.seq
    lastMac := bits (reportTrailer s.can r) 256 256 })) .meterReport r.seq.toNat 0

/-- REPORT_TRAILER (R364): FN_STORE_G has been answered, or the trailer has, or a line has been refused. -/
def execReportTrailer (s : State) : Host.Outcome State Fault Refusal :=
  .next (match (if canDelivers s then s.can.report else none) with
    | none => s
    | some r =>
      if r.lines = 0 then s
      else if canRefused s then abandonReport (canTaken s)
      else match canStatus s with
        | none => s
        | some st =>
          if st != .ok then abandonReport (canTaken s)
          else if r.lines = 4112 then sendTrailer (canTaken s) r
          else reportDone (canTaken s) r)

/-! ### Resets, scrub, clock (R344, R354, R359, R363, R367) -/

/-- METER_RESET_NOTICE (R354, R367): the REASON RESET close, at once. -/
def execMeterResetNotice (s : State) : Host.Outcome State Fault Refusal :=
  .next (if s.can.resetNotice && canRuns s then
      let last := (List.finRange 32).foldl (fun m l => max m (tget s.can.lanes l).epoch) 0
      let s := updCan s (fun c => { c with resetNotice := false })
      let s := canLog s 0x0007 0xFFFF last
      let absent := (lanesMissing s.can).foldl (fun (m : BitVec 32) l => m ||| (1#32 <<< l.val)) 0
      let s := updCan s (fun c => { ((List.finRange 32).foldl (fun c l => flushLane c l) c) with held := [] })
      let s := closeReport s 4 last absent
      updCan s (fun c => { c with
        start := 0, asked := c.asked.map (fun a => (a.1, 0))
        lanes := tmap c.lanes (fun _ x => { x with fresh := true, epoch := 0, atBoundary := none }) })
    else s)

/-- CAN_SCRUB (R359): the counters found uncorrectable. -/
def execCanScrub (bad : List (Fin 32768)) (s : State) : Host.Outcome State Fault Refusal :=
  .next (if canRuns s then
      bad.foldl (fun s i => canLog (updCan s (fun c => { c with
        counters := sput (fun _ => 0) i.val 0 c.counters, held := sput (fun _ => 0) i.val 0 c.held
        exact := false })) 0x000A (i.val / 8) (i.val % 8)) s
    else s)

/-- METER_CLOCK (R367): MCLK has been absent for 16 ACLK cycles. -/
def execMeterClock (s : State) : Host.Outcome State Fault Refusal :=
  .next (if canRuns s && !s.can.mclkLost then
      repDie (updCan s (fun c => { c with mclkLost := true })) .meterClock 0
    else s)

/-- MTR_RST (R344, R363): the Can's power-on reset; it then reads its words of the one-time store. -/
def execMtrRst (s : State) : Host.Outcome State Fault Refusal :=
  .next (updCan (updAon s (fun a => { a with clkReq := setField a.clkReq 25 1 (a.mode != .retain).toNat }))
    (fun c => { Can.reset with sealOpen := c.sealOpen }))

/-! ### The one-time store (R363, R366, R497, R498) -/

/-- An increment of the seal count is answered (R366). -/
def unsealAnswer (s : State) (ans : OtsAnswer) : State :=
  match ans with
  | .data w =>
    let s := updCan s (fun c => { c with
      sealed := false, unsealPending := false, otsFail := false, ots := some 5, sealEvents := w.setWidth 32,
      asked := some (2, (List.finRange 32).foldl (fun m l => max m ((tget c.lanes l).epoch + 1)) 0) })
    canLog s 0x000D 0xFFFF (field w 0 32)
  | _ => canLog (updCan s (fun c => { c with unsealPending := false, otsFail := true, ots := none })) 0x0010 0xFFFF 0

/-- The answer to the operation outstanding on the Can's port. -/
def otsAnswer (s : State) (ans : OtsAnswer) : State :=
  match s.can.ots with
  | none => s
  | some k =>
    if k = 16 then unsealAnswer s ans
    else
      let fail := match ans with
        | .data _ => false
        | _ => true
      let w : Word := match ans with
        | .data w => w
        | _ => 0
      updCan s (fun c =>
        let c := { c with
          otsFail := fail, keyFail := c.keyFail || (fail && decide (k < 5)), ots := if k < 5 then some (k + 1) else none }
        let c := if h : k < 4 then { c with key := c.key.set k w }
          else if k = 4 then { c with session := w }
          else if fail then c else { c with sealEvents := w.setWidth 32 }
        if k = 4 then { c with keyOk := !c.keyFail } else c)

/-- OTS_M_ANSWER (R498). -/
def execOtsMAnswer (ans : OtsAnswer) (s : State) : Host.Outcome State Fault Refusal :=
  .next (if canRuns s then otsAnswer s ans else s)

/-- UNSEAL_CONFIRM (R366). -/
def execUnsealConfirm (ans : OtsAnswer) (s : State) : Host.Outcome State Fault Refusal :=
  .next (if canRuns s && s.can.ots == some 16 then unsealAnswer s ans else s)

/-! ### Sealing and the register page (R365, R366, R369, R370) -/

/-- A write to a SEALED field while sealed, or to MTR_UNSEAL without SEAL_OPEN_N. -/
def sealedWrite (s : State) (off : Nat) (v : Word) : State :=
  canEvent (canLog s 0x000B off (field v 0 32)) .meterSealedWrite (off % 65536) 0

/-- Ask for a close at the markers of the next epoch. -/
def askClose (s : State) (reason : Nat) : State :=
  updCan s (fun c =>
    let e := (List.finRange 32).foldl (fun m l => max m ((tget c.lanes l).epoch + 1)) 0
    match c.asked, reason with
    | some _, 3 => c
    | _, r => { c with asked := some (r, e) })

def writeSeal (s : State) (v : Word) : State :=
  if !v.getLsbD 0 then s
  else if !s.can.keyOk then updCan s (fun c => { c with sealRefused := true })
  else if s.can.sealed then updCan s (fun c => { c with sealRefused := false })
  else
    let s := updCan s (fun c => { c with sealed := true, sealRefused := false })
    askClose (canLog s 0x000C 0xFFFF s.can.sealEvents.toNat) 1

def writeUnseal (s : State) (v : Word) : State :=
  if !v.getLsbD 0 then s
  else if !s.can.sealOpen then sealedWrite s 0x010 v
  else if s.can.ots.isSome then s
  else updCan s (fun c => { c with ots := some 16, unsealPending := true })

def writeTmap (s : State) (v : Word) : State :=
  if s.can.sealed then sealedWrite s 0x038 v
  else updCan s (fun c => { c with
    tmapNext := sput tmapReset c.tmapAddr.toNat (v.setWidth 16 &&& 0x8FFF#16) c.tmapNext, tmapAddr := c.tmapAddr + 1 })

def writeRptCtl (s : State) (v : Word) : State :=
  let s := updCan s (fun c => { c with rptCtl := v &&& 0xFF00FF#64 })
  if v.getLsbD 8 then askClose s 3 else s

/-- A write of a register of page MTR_. -/
def writeMtr (s : State) (off : Nat) (v : Word) : State :=
  match off with
  | 0x008 => writeSeal s v
  | 0x010 => writeUnseal s v
  | 0x028 =>
    if s.can.sealed then sealedWrite s off v
    else updCan s (fun c => { c with cfgNext := v &&& 0xFFFF00FFFFFF#64 })
  | 0x030 =>
    if s.can.sealed then sealedWrite s off v else updCan s (fun c => { c with tmapAddr := v.setWidth 12 })
  | 0x038 => writeTmap s v
  | 0x040 => updCan s (fun c => { c with rptBase := v &&& 0x000FFFFFFFFFF000#64 })
  | 0x048 => writeRptCtl s v
  | 0x058 => updCan s (fun c => { c with ctrAddr := v.setWidth 15 })
  | _ => s

/-- A register of page MTR_ (R370): fields that take effect at the next close read as last written (R9). -/
def readMtr (s : State) (off : Nat) : Word :=
  let c := s.can
  match off with
  | 0x000 => 0x0000000300000000#64
  | 0x008 => BitVec.ofNat 64 (c.sealRefused.toNat * 2 + c.sealed.toNat)
  | 0x018 => BitVec.ofNat 64 (c.sealEvents.toNat * 2 ^ 32 + c.unsealPending.toNat * 8 + c.otsFail.toNat * 4 +
      c.report.isSome.toNat * 2 + c.keyOk.toNat)
  | 0x020 => c.session
  | 0x028 => c.cfgNext
  | 0x030 => c.tmapAddr.setWidth 64
  | 0x038 => (tmapOf c.tmapNext c.tmapAddr.toNat).setWidth 64
  | 0x040 => c.rptBase
  | 0x048 => c.rptCtl
  | 0x050 => BitVec.ofNat 64 (c.lastFailed.toNat * 2 ^ 32 + c.lastSeq.toNat)
  | 0x058 => c.ctrAddr.setWidth 64
  | 0x060 => sget (fun _ => 0) c.counters c.ctrAddr.toNat
  | _ => 0

/-- MTR_DEBUG_ACCESS (R369): logged; it reads zero and writes nothing. -/
def debugAccess (s : State) (off : Nat) : State := canLog s 0x0011 off 0

/-- The registers of the page answer while HCLK and MCLK run (R505). -/
def mtrReachable (s : State) : Bool := herdRuns s && canRuns s

def execMtrSeal (v : Word) (s : State) : Host.Outcome State Fault Refusal :=
  .next (if mtrReachable s then writeSeal s v else s)
def execMtrUnseal (v : Word) (sealOpen : Bool) (s : State) : Host.Outcome State Fault Refusal :=
  let s := updCan s (fun c => { c with sealOpen := sealOpen })
  .next (if mtrReachable s then writeUnseal s v else s)
/-- SEALED_WRITE (R365): a write at `off` of the page that meets a SEALED field while sealed. -/
def execSealedWrite (off : Nat) (v : Word) (s : State) : Host.Outcome State Fault Refusal :=
  .next (if mtrReachable s && s.can.sealed && (off == 0x028 || off == 0x030 || off == 0x038) then sealedWrite s off v
    else s)
def execMtrTmapData (v : Word) (s : State) : Host.Outcome State Fault Refusal :=
  .next (if mtrReachable s then writeTmap s v else s)
def execMtrRptNow (v : Word) (s : State) : Host.Outcome State Fault Refusal :=
  .next (if mtrReachable s then writeRptCtl s v else s)
def execMtrDebugAccess (off : Nat) (s : State) : Host.Outcome State Fault Refusal :=
  .next (if mtrReachable s then debugAccess s off else s)

end Sys2Proof.Machine
end

