-- ==== Sys2Proof/Machine/Churn.lean ====
section
/-! DEFINITION. Stored data (chapter 14): the Churn's engines, what an uncorrectable word means to its owner, bank copies,
the retention check, and SCRUB_CTL. -/

namespace Sys2Proof.Machine

/-! ### Groups that fail (R180, R204) -/

/-- A commit group goes FAILED (R180): the coordinator stops, and the relay tells the NIs. -/
def groupFail (s : State) (g : GroupId) (stageLost : Bool) (lost : Nat) : State :=
  if (tget s.herd.groups g).state == .active then
    repGroup (updCo s g (fun c => { c with state := .failed })) g .curdGroupFailed stageLost.toNat (lost % 2 ^ 32)
  else s

/-- The groups that name an NI in MEMBERS or TARGETS. -/
def groupsOf (s : State) (n : Slot) : List GroupId :=
  (List.finRange 32).filter (fun g =>
    (tget s.herd.groups g).members.getLsbD n.val || (tget s.herd.groups g).targets.getLsbD n.val)

/-- The lock table is lost and reopens empty (R174). -/
def loseLocks (s : State) (n : Slot) : State :=
  updN s n (fun x => { x with locks := [], lockReopen := some (epochN s n) })

/-! ### Tables and banks (R431) -/

def tabRouter : TabUnit → RouterId
  | .router r => r
  | .ni n => routerOf n

/-- A unit holds a table. -/
def holdsTable (u : TabUnit) (t : Nat) : Bool :=
  match u with
  | .ni n => (t == 0 && isHostLink n.val) || (t == 1 && decide (n.val < 188)) || (t == 5 && n == herdSlot) || t == 6
  | .router r => (isHub r && (t == 2 || t == 3 || t == 4)) || t == 6

def validBank (b : BankRef) : Bool :=
  holdsTable b.unit b.table && decide (b.lbank < (if b.table = 6 then 1 else 8))

/-- Scrub lines of a bank: 192 for a Pail of port 6, else 128. -/
def bankRows (b : BankRef) : Nat := if b.table = 4 then 192 else 128

/-- Unit number under which configuration sets hold a BANK_MAP. -/
def mapUnit : TabUnit → Nat
  | .router r => r.val
  | .ni n => 256 + n.val

def activeSet (s : State) (u : TabUnit) : Bool := (rtr s (tabRouter u)).active
def bankMapOf (s : State) (set : Bool) (u : TabUnit) (t : Nat) : Nat := cfgGet s set itBankMap (mapUnit u) 0 t
def pbankOf (s : State) (b : BankRef) : Nat :=
  if b.table = 6 then 0 else bankMapOf s (activeSet s b.unit) b.unit b.table / 16 ^ b.lbank % 16

/-! ### Logging (R443) -/

/-- SOURCE of R443. -/
abbrev srcOwner : Nat := 0
abbrev srcChurn : Nat := 1
abbrev srcCheck : Nat := 2

def eccRecord (s : State) (b : BankRef) (row w syn kind src : Nat) : Nat :=
  let x : BitVec 128 := setField 0 120 8 b.table
  let x := setField x 116 4 (pbankOf s b)
  let x := setField x 112 4 b.lbank
  let x := setField x 104 8 row
  let x := setField x 101 3 w
  let x := setField x 93 8 syn
  let x := setField x 90 3 kind
  (setField x 88 2 src).toNat

def repBank (s : State) (b : BankRef) (code : EventCode) (record : Nat) : State :=
  match b.unit with
  | .router r => repRouter s r code 0 record
  | .ni n => if b.table = 5 then
      report s { mkEvent code .ni n.val 0 s.herd.epoch 0 (BitVec.ofNat 128 record) with sectors := 0 }
    else repNi s n code 0 record

/-! ### Engines (R439, R440) -/

def engineOf (s : State) (b : BankRef) : Engine :=
  (s.churn.engines.find? (fun e => e.bank == b)).getD { bank := b, done := 0, recent := [] }

def putEngine (s : State) (e : Engine) : State :=
  updChurn s (fun c => { c with engines := c.engines.filter (fun x => x.bank != e.bank) ++ [e] })

/-- Lines that have fallen due for a bank since the start. -/
def bankDue (s : State) (b : BankRef) : Nat :=
  if b.table = 5 then s.churn.crockDue else tget s.churn.due (clusterOf (tabRouter b.unit))

/-- A bank's engine runs: with its unit, and for the Crock with the Herdsman. -/
def engineRuns (s : State) (b : BankRef) : Bool :=
  !s.churn.paused && (if b.table = 5 then herdRuns s else routerRuns s (tabRouter b.unit))

/-- The phase accumulators of a cluster's engines at its tick. -/
def churnTick (s : State) (c : ClusterId) : State :=
  if s.churn.paused then s
  else updChurn s (fun x =>
    let a := tget x.acc c + x.rate
    { x with acc := tupd x.acc c (fun _ => a % 65536), due := tupd x.due c (· + a / 65536) })
def crockTick (s : State) : State :=
  if s.churn.paused then s
  else updChurn s (fun x =>
    let a := x.crockAcc + x.rate
    { x with crockAcc := a % 65536, crockDue := x.crockDue + a / 65536 })

/-- The Pail behind a bank of tables 2–4. -/
def pailEnd (b : BankRef) : Option LinkEnd :=
  match b.unit with
  | .router r => if b.table = 2 ∨ b.table = 3 ∨ b.table = 4 then portEnd r (Fin.ofNat 11 (b.table + 2)) else none
  | .ni _ => none

/-! ### Uncorrectable words (R437, R438) -/

/-- The owner's rule for a word that proves uncorrectable, beyond its being known as such. -/
def ownerRule (s : State) (b : BankRef) (k : WordKind) : State :=
  match b.unit, k with
  | .ni n, .stageData i => updN s n (fun x => { x with stage := x.stage.modify i.val (fun e => { e with ue := true }) })
  | .ni n, .stageMeta i =>
    updN s n (fun x => { x with stage := x.stage.modify i.val (fun e => { e with ueMeta := true }) })
  | .router _, .pailWord q =>
    (match pailEnd b with
     | some e =>
       let q12 : BitVec 12 := BitVec.ofNat 12 q
       let x := spn s e
       let first := match x.pailBad with
         | some p => if (q12 - x.o).toNat < (p - x.o).toNat then some q12 else some p
         | none => some q12
       let s := if x.state == .down then s else declareDown s (linkOf e)
       updE s e (fun x => { x with withhold := true, pailBad := first })
     | none => s)
  | .ni n, .regionTable => (groupsOf s n).foldl (fun s g => groupFail s g false 0) s
  | .ni n, .lockTable => loseLocks s n
  | .ni n, .ownerGen o =>
    let g := tget s.herd.gens o
    breakLocks (updN s n (fun x => { x with gens := tupd x.gens o (fun _ => g) })) n .lockBreak
      (fun e => e.owner == some o)
  | _, _ => s

/-- An uncorrectable word is read: logged at its first detection after a write, and met by its owner. -/
def wordUe (s : State) (b : BankRef) (row w syn src : Nat) (k : WordKind) : State :=
  let known := s.churn.bad.any (fun x => decide (x.1 = b.unit) && decide (x.2.1 = b.table) && decide (x.2.2 = k))
  let s := if known && k != .other then s
    else
      let s := updChurn s (fun c => { c with
        uncorrectable := satAdd (2 ^ 32 - 1) c.uncorrectable 1
        bad := if known then c.bad else c.bad ++ [(b.unit, b.table, k)] })
      repBank s b .eccUncorrectable (eccRecord s b row w syn 1 src)
  ownerRule s b k

/-- A word is corrected: counted, and a repeat where its line is among the bank's last four (R443). -/
def wordFixed (s : State) (b : BankRef) (row w syn src : Nat) : State :=
  let e := engineOf s b
  let sweep := e.done / bankRows b
  let again := e.recent.any (fun r => r.1 == row && (r.2 == sweep || r.2 + 1 == sweep))
  let s := updChurn s (fun c => { c with
    corrections := satAdd (2 ^ 32 - 1) c.corrections 1
    repeats := if again then satAdd (2 ^ 32 - 1) c.repeats 1 else c.repeats })
  let s := putEngine s { e with recent := (e.recent ++ [(row, sweep)]).drop (e.recent.length - 3) }
  if again then repBank s b .eccRepeat (eccRecord s b row w syn 0 src) else s

/-- What the words of a line decode as, when it is read. -/
def scrubWords (s : State) (b : BankRef) (row : Nat) (seen : List (EccSeen × WordKind)) : State :=
  (seen.take 8).zipIdx.foldl (fun s (x, w) => match x.1 with
    | .clean => s
    | .group => s
    | .single syn => wordFixed s b row w syn.toNat srcChurn
    | .bad syn => wordUe s b row w syn.toNat srcChurn x.2) s

/-- The valid-bit group of a line fails its parity check (R435): at this access each of its words counts as uncorrectable,
is logged, and is met by its owner. DESIGN CHOICE: the SYNDROME of such a record is zero. -/
def groupFails (s : State) (b : BankRef) (row : Nat) (ks : List WordKind) : State :=
  let s := updChurn s (fun c => { c with
    uncorrectable := satAdd (2 ^ 32 - 1) c.uncorrectable ks.length, groupBad := c.groupBad ++ [(b, row, ks)] })
  ks.zipIdx.foldl (fun s (k, w) => ownerRule (repBank s b .eccUncorrectable (eccRecord s b row w 0 2 srcChurn)) b k) s

def isGroup (b : BankRef) (row : Nat) (g : BankRef × Nat × List WordKind) : Bool := decide (g.1 = b) && g.2.1 == row

/-- Scrub one line: what was seen at each of its words. A line whose valid-bit group has failed is read again, and the
group's parity rewritten (R435). -/
def scrub (s : State) (b : BankRef) (row : Nat) (seen : List (EccSeen × WordKind)) : State :=
  let e := engineOf s b
  let replaying := match pailEnd b with
    | some e => (spn s e).replay.isSome
    | none => false
  if validBank b && engineRuns s b && decide (e.done < bankDue s b) && row == e.done % bankRows b && !replaying then
    if seen.any (fun x => x.1 == .group) && !s.churn.groupBad.any (isGroup b row) then
      groupFails s b row ((seen.take 8).map (·.2))
    else
      let s := scrubWords s b row seen
      let s := updChurn s (fun c => { c with groupBad := c.groupBad.filter (fun g => !isGroup b row g) })
      putEngine s { engineOf s b with done := e.done + 1 }
  else s

/-- SCRUB_LINE (R440): a due line in cycles that the owner leaves idle. -/
def execScrubLine (b : BankRef) (row : Nat) (seen : List (EccSeen × WordKind)) (s : State) :
    Host.Outcome State Fault Refusal := .next (scrub s b row seen)

/-- SCRUB_FORCE (R440): a due line that found no idle cycle takes the bank; a Pail is never taken. -/
def execScrubForce (b : BankRef) (row : Nat) (seen : List (EccSeen × WordKind)) (s : State) :
    Host.Outcome State Fault Refusal := .next (if (pailEnd b).isSome then s else scrub s b row seen)

/-! ### Bank maps (R444–R446) -/

def nibbles (m : Nat) : List Nat := (List.range 8).map (fun k => m / 16 ^ k % 16)

/-- The logical banks in which two maps differ. -/
def mapDiff (a b : Nat) : List Nat := (List.range 8).filter (fun k => decide (a / 16 ^ k % 16 ≠ b / 16 ^ k % 16))

/-- R444: eight different banks from 0–8, at most one moved, and that to the unused one. -/
def mapValid (active new : Nat) : Bool :=
  (nibbles new).all (· ≤ 8) && decide (nibbles new).Nodup && decide ((mapDiff active new).length ≤ 1)

/-- A BANK_MAP of the inactive set has changed: an earlier copy is cancelled, and a moved bank starts one (R445). -/
def mapWritten (s : State) (u : TabUnit) (t : Nat) : State :=
  let a := bankMapOf s (activeSet s u) u t
  let i := bankMapOf s (!activeSet s u) u t
  let mine (c : BankRef × Nat) : Bool := decide (c.1.unit = u) && decide (c.1.table = t)
  updChurn s (fun c => { c with
    copied := c.copied.filter (fun x => !mine x)
    copying := c.copying.filter (fun x => !mine x) ++
      (mapDiff a i).map (fun k => ({ unit := u, table := t, lbank := k }, i / 16 ^ k % 16)) })

/-- R446: no BANK_MAP of a unit that the agent of `r` serves waits for a copy. -/
def agentMayArm (s : State) (r : RouterId) : Bool :=
  ([.router r, .ni (slotAt r 0), .ni (slotAt r 1)] : List TabUnit).all (fun u => (List.range 6).all (fun t =>
    !holdsTable u t ||
    (let a := bankMapOf s (activeSet s u) u t
     let i := bankMapOf s (!activeSet s u) u t
     (mapDiff a i).all (fun k => s.churn.copied.contains ({ unit := u, table := t, lbank := k }, i / 16 ^ k % 16)))))

/-- Copies end with the swap of their unit (R445). -/
def copiesSwapped (s : State) (r : RouterId) : State :=
  updChurn s (fun c => { c with
    copying := c.copying.filter (fun x => decide (tabRouter x.1.unit ≠ r))
    copied := c.copied.filter (fun x => decide (tabRouter x.1.unit ≠ r)) })

/-- BANK_COPY_DONE (R445). -/
def execBankCopyDone (b : BankRef) (s : State) : Host.Outcome State Fault Refusal :=
  .next (if routerRuns s (tabRouter b.unit) then
      updChurn s (fun c => { c with
        copied := c.copied ++ c.copying.filter (fun x => x.1 == b)
        copying := c.copying.filter (fun x => x.1 != b) })
    else s)

/-! ### Lost banks (R448, R449) -/

/-- The entries of both configuration sets that a unit holds. -/
def unitItem (u : TabUnit) (key : Nat) : Bool :=
  let item := key / 2 ^ 32
  let unit := key / 2 ^ 20 % 4096
  match u with
  | .router r => (decide (item < 0x10) && item != itGov || item == itBankMap) && unit == r.val
  | .ni n => (decide (0x10 ≤ item) && item != itBankMap && unit == n.val) || (item == itBankMap && unit == 256 + n.val)

def loseConfig (s : State) (u : TabUnit) : State :=
  { s with
    cfgA := s.cfgA.filter (fun e => !unitItem u e.1)
    cfgB := s.cfgB.filter (fun e => !unitItem u e.1) }

/-- The counter shadows of a unit bank are lost. -/
def loseShadows (s : State) (u : TabUnit) : State :=
  let mine (g : Nat) : Bool := match unitOf g, u with
    | some (.ni n), .ni m => decide (n = m)
    | some (.router r), .router q => decide (r = q)
    | some (.spine e), .router q => decide (hubOf (endQuad e) = q)
    | _, _ => false
  updDip s (fun d => { d with
    shadow := d.shadow.filter (fun e => !mine e.1), shadowOvf := d.shadowOvf.filter (fun e => !mine e.1)
    shadowSel := d.shadowSel.filter (fun e => !mine e.1) })

/-- What the loss of a bank does (R449). -/
def bankGone (s : State) (b : BankRef) : State :=
  match b.unit, b.table with
  | .ni n, 0 =>
    updN s n (fun x => { x with meter := x.meter.filter (fun e => decide (e.1 / 1024 ≠ b.lbank)) })
  | .ni n, 1 =>
    let lost := ((nif s n).stage.drop (64 * b.lbank)).take 64
    let s := (lost.map (·.group)).dedup.foldl (fun s g =>
      groupFail s g true ((lost.filter (fun e => e.group == g)).length)) s
    updN s n (fun x => { x with stage := x.stage.take (64 * b.lbank) ++ x.stage.drop (64 * b.lbank + 64) })
  | .router r, 6 => loseShadows (loseConfig s (.router r)) (.router r)
  | .ni n, 6 =>
    let s := loseShadows (loseConfig (loseLocks s n) (.ni n)) (.ni n)
    updN s n (fun x => { x with gates := tabAll 2 GateSet.reset, gateEcc := [], gens := s.herd.gens })
  | _, _ => s

/-- The canary words that tick S leaves (R447). -/
def canaryWords (t : Nat) : Word × Word :=
  let w : Word := setField (setField 0 48 16 0x5AC3) 0 48 t
  (w, ~~~ w)

/-- Every unit writes the canary words of its retained banks before its clock stops (R447). -/
def writeCanaries (s : State) (t : Nat) : State := updChurn s (fun c => { c with canaries := some (canaryWords t) })

/-- The retained banks of R431. -/
def retainedBanks : List BankRef :=
  let of_ (u : TabUnit) : List BankRef :=
    ([0, 1, 6].flatMap (fun t => (List.range 8).map (fun k => ({ unit := u, table := t, lbank := k } : BankRef)))).filter
      validBank
  (List.finRange 96).flatMap (fun r => of_ (.router r)) ++ (List.finRange 192).flatMap (fun n => of_ (.ni n))

/-- The banks whose canaries are not those of tick S (R448). -/
def canaryFails (s : State) (t : Nat) : List LostBank :=
  if s.churn.canaries = some (canaryWords t) then [] else retainedBanks.map (fun b => { bank := b, canary := true })

/-- A bank that fails its check is invalidated and awaits reload (R449). -/
def bankLost (s : State) (l : LostBank) : State :=
  let b := l.bank
  if validBank b && (b.table = 0 || b.table = 1 || b.table = 6) then
    let s := repBank s b .retentionLost (eccRecord s b 0 0 0 (if l.canary then 3 else 4) srcCheck)
    let s := bankGone s b
    updChurn s (fun c => { c with
      awaiting := if c.awaiting.contains (b.unit, b.table) then c.awaiting else c.awaiting ++ [(b.unit, b.table)]
      bad := c.bad.filter (fun x => !(decide (x.1 = b.unit) && decide (x.2.1 = b.table)))
      groupBad := c.groupBad.filter (fun g => decide (g.1 ≠ b)) })
  else s

/-! ### SCRUB_CTL (R442) -/

/-- The SCRUB_CTL command that a row acts on. -/
def scrubCmd (s : State) (ring : CmdRing) (op : Nat) : Option Cmd :=
  startedCmd s ring (fun c => cmdOp c == 0x14 && dByte c.desc 8 == op)

def execSetRate (ring : CmdRing) (s : State) : Host.Outcome State Fault Refusal :=
  .next (match scrubCmd s ring 0 with
    | some c =>
      let r := dField c.desc 16 3
      if r = 0 then endCmd s ring c.index .poison 0xFFFF
      else endCmd (updChurn s (fun x => { x with rate := r })) ring c.index .ok 0
    | none => s)

def execPause (ring : CmdRing) (s : State) : Host.Outcome State Fault Refusal :=
  .next (match scrubCmd s ring 1 with
    | some c => endCmd (updChurn s (fun x => { x with paused := true })) ring c.index .ok 0
    | none => s)

def execResume (ring : CmdRing) (s : State) : Host.Outcome State Fault Refusal :=
  .next (match scrubCmd s ring 2 with
    | some c => endCmd (updChurn s (fun x => { x with paused := false })) ring c.index .ok 0
    | none => s)

/-- The UNIT encoding of R322 for a table's unit. -/
def tabUnitCode : TabUnit → Nat
  | .router r => r.val
  | .ni n => 2 ^ 13 + n.val

def execStatus (ring : CmdRing) (s : State) : Host.Outcome State Fault Refusal :=
  .next (match scrubCmd s ring 3 with
    | some c =>
      let x := s.churn
      let first := match x.awaiting with
        | (u, t) :: _ => tabUnitCode u + t * 2 ^ 16
        | [] => 0
      endCmd s ring c.index .ok 0 (BitVec.ofNat 320
        (x.corrections + x.uncorrectable * 2 ^ 32 + x.repeats * 2 ^ 64 + x.awaiting.length * 2 ^ 96 + first * 2 ^ 112))
    | none => s)

/-- UNIT names a router or an NI, and the table is one of R431. -/
def reloadedBad (u t : Nat) : Bool :=
  decide (6 < t) || !(decide (u < 96) || (decide (2 ^ 13 ≤ u) && decide (u < 2 ^ 13 + 192)))

def execReloaded (ring : CmdRing) (s : State) : Host.Outcome State Fault Refusal :=
  .next (match scrubCmd s ring 4 with
    | some c =>
      let u := dField c.desc 10 2
      let t := dByte c.desc 12
      if reloadedBad u t then endCmd s ring c.index .poison 0xFFFF
      else endCmd (updChurn s (fun x => { x with
        awaiting := x.awaiting.filter (fun a => !(tabUnitCode a.1 == u && a.2 == t)) })) ring c.index .ok 0
    | none => s)

end Sys2Proof.Machine
end

