-- ==== Sys2Proof/Machine/Answer.lean ====
section
/-! DEFINITION. What an endpoint's port does besides presenting requests: answers to inbound work (R485, R486), endpoint
reset (R144–R146, R168, R169), EP_READY (R487) and endpoint exceptions (R166). -/

namespace Sys2Proof.Machine

/-! ### Answers (R485, R486) -/

/-- Everything that waits for an entry of the atomic unit, or for the line of one, may go on. -/
def pumpAll (s : State) (n : Slot) : State := serveWaiting ((List.finRange 32).foldl (fun s g => pump s n g) s) n

/-- The response code and the LEN that the work offered calls for (R64, R485). -/
def answerForm (t : Taken) : BitVec 6 × Nat :=
  match t.kind with
  | .request => if isRead (fOp (hd t.pkt)) then (opRdData, t.count - 1) else (opWrAck, 0)
  | .atomicRead _ => (opRdData, 0)
  | .vatDrain => (opRdData, t.count - 1)
  | _ => (opWrAck, 0)

def answerFits (t : Taken) (p : Packet) : Bool :=
  let f := answerForm t
  fOp (hd p) == f.1 && fLen (hd p) == f.2 && p.length == f.2 + 1

/-- R486: a status as the NI takes it; NOT_READY counts in STATUS alone. -/
def takenStatus (st : Option Status) (whole : Bool) : Status :=
  match st with
  | some .ok => .ok
  | some .notReady => if whole then .notReady else .poison
  | _ => .poison

/-- What an answer says: its STATUS, and each line with its code. A malformed answer counts as poisoned zero lines. -/
def answerLines (t : Taken) (p : Packet) : Status × List LineRes :=
  let h := hd p
  if !answerFits t p then (.poison, List.replicate t.count (noLine .poison .ok 0))
  else
    let st := takenStatus (stOfCode (field h.ctl 76 4)) true
    (st, (List.range t.count).map (fun i =>
      let c := takenStatus (stOfCode (field h.ctl (60 + 4 * (i % 4)) 4)) false
      -- R63: every position of a request that failed as a whole
      let c := if st == .notReady && c == .ok then Status.poison else c
      { line := if fOp h == opRdData then lineOf (p.getD i zeroFlit) else zeroLine, code := c, whole := .ok, src := 0 }))

/-- The results of a request with those of positions `first`, `first + 1`, … put in. -/
def mergeRun (rs : List LineRes) (first : Nat) (ls : List LineRes) : List LineRes :=
  rs.zipIdx.map (fun (r, i) => if first ≤ i then (ls[i - first]?).getD r else r)

/-- Refuse the runs that have not been offered: the endpoint takes no more (R146). -/
def refuseRest (rs : List LineRes) (runs : List (Nat × Nat)) : List LineRes :=
  rs.zipIdx.map (fun (r, i) =>
    if runs.any (fun q => decide (q.1 ≤ i) && decide (i < q.1 + q.2)) then noLine .poison .ok 0 else r)

/-- VAT_DATA for a drain (R101, R199): on VC 7. -/
def vatDataPkt (h : Flit) (st : Status) (ls : List LineRes) : Packet :=
  mapFlits (setVc 7) (rspLines h opVatData (stWorse st (worst (ls.map (·.code)))) (ls.map (·.code)) 0 (ls.map (·.line)))

/-- The endpoint's answer to work `t`, already removed from what is unanswered, is acted on. -/
def answerWork (s : State) (n : Slot) (t : Taken) (st : Status) (ls : List LineRes) : State :=
  let line := ((ls.head?).map (·.line)).getD zeroLine
  let one := stWorse st (worst (ls.map (·.code)))
  match t.kind with
  | .request =>
    let rs := mergeRun t.results t.first ls
    let whole := stWorse t.whole (if st == .ok then .ok else st)
    if !t.rest.isEmpty && !delivers (nif s n) n then
      sendAfter s n t.after (answerOf t.pkt (refuseRest rs t.rest) (stWorse whole .notReady))
    else offerRuns s n t.pkt rs whole t.after t.rest
  | .atomicRead k => match (nif s n).atoms.find? (fun e => e.num == k) with
    | some e => let r := atomReadDone s n e line one; pumpAll (atomEnd r.1 n e r.2) n
    | none => s
  | .atomicWrite k => match (nif s n).atoms.find? (fun e => e.num == k) with
    | some e => let r := atomWriteDone s n e one; pumpAll (atomEnd r.1 n e r.2) n
    | none => s
  | .release g idx => entDone s n g idx (st == .notReady)
  | .vatSpill => if st == .notReady then updN s n (fun x => { x with vatSpills := x.vatSpills ++ [t.pkt] }) else s
  | .vatDrain => updN s n (fun x => queueVat x (vatDataPkt (hd t.pkt) st ls))

/-- An answer meets the work that it answers, by DEST = SRC and TAG (R486). -/
def isAnswerTo (h : Flit) (t : Taken) : Bool := decide (fSrc (hd t.pkt) = fDest h) && decide (t.tag = fTag h)

/-- The answer path of the request channel takes a packet. -/
def takesAnswer (s : State) (n : Slot) : Bool :=
  let x := nif s n
  niRuns s n && !x.reset && !x.closed

/-- Room for an answer: 16 flits of the request store are reserved for answers, and the flits that requests leave free
serve them too (R486). -/
def answerRoom (x : NI) (flits : Nat) : Bool :=
  decide (answerFlits x + flits ≤ max 16 (128 - storeFlits x))

/-- An answer packet on the request channel (R485, R486). -/
def answerStep (s : State) (n : Slot) (pkt : Packet) : State :=
  if !takesAnswer s n || pkt.isEmpty || !isHead (hd pkt) || !answerRoom (nif s n) pkt.length then s
    else
      -- the head ends a partial packet and a remainder before it (R483, R143)
      let s := abandon s n
      let s := updN s n (fun x => { x with remainder := 0, shortfall := x.shortfall + x.remainder })
      let h := hd pkt
      if badGroups h != 0 then logLocalParity s n h
      else
        let (pkt, bad) := parityPoison (fLen h) 0 pkt []
        let s := logLocalParities s n h bad
        match takeFirst (isAnswerTo h) (nif s n).taken with
        | none => errRec (updN s n (fun x => { x with badAnswers := x.badAnswers + 1 })) n 3 .poison (fOp h)
        | some (t, rest) =>
          let s := if answerFits t pkt then s else errRec s n 4 .poison (fOp h)
          let r := answerLines t pkt
          answerWork (updN s n (fun x => { x with taken := rest })) n t r.1 r.2

/-- ENDPOINT_ANSWER (R485, R486). -/
def execEndpointAnswer (n : Slot) (pkt : Packet) (s : State) : Host.Outcome State Fault Refusal :=
  .next (answerStep s n pkt)

/-! ### Answering for the endpoint (R146, R487) -/

/-- Requests that wait in the inbound queues, and are neither locks nor held for order, are answered NOT_READY. DESIGN
CHOICE: so are the canonical reads of the read-wait store, which have left the queues (R187) and of which R146 does not
speak. -/
def answerQueue (s : State) (n : Slot) : State :=
  let mine (p : InPkt) : Bool := !p.early && !isLock (fOp (hd p.pkt))
  let x := nif s n
  let s := updN s n (fun x => { x with inq := x.inq.filter (fun p => !mine p), readWait := [] })
  ((x.inq.filter mine) ++ x.readWait).foldl (fun s p => sendRsp s n (refuseAll p .notReady)) s

/-- What the endpoint had taken and not answered, answered POISON (R146, R159, R196, R200). -/
def answerTaken (s : State) (n : Slot) : State :=
  let ts := (nif s n).taken
  let s := updN s n (fun x => { x with taken := [] })
  ts.foldl (fun s t =>
    let bad := List.replicate t.count (noLine .poison .ok 0)
    match t.kind with
    | .request => sendAfter s n t.after (answerOf t.pkt
        (t.results.map (fun r => if r.code == .ok then noLine .poison .ok 0 else r)) .poison)
    | .release g idx => entDone s n g idx true
    | .vatSpill => updN s n (fun x => { x with vatSpills := x.vatSpills ++ [t.pkt] })
    | .vatDrain => updN s n (fun x => { x with vatDrains := x.vatDrains ++ [t.pkt] })
    | _ => answerWork s n t .poison bad) s

/-! ### Owner generations (R169) -/

/-- The generation of slot `o` advances; `resync` tells that the slot's NI has lost its sequences (R458). -/
def bumpGen (s : State) (o : Slot) (resync : Bool) : State :=
  if niReached s o then
    let behind := (List.finRange 192).any (fun n => tget (nif s n).gens o != tget s.herd.gens o)
    updHerd s (fun h => { h with
      gens := tupd h.gens o (· + 1)
      resync := tupd h.resync o (fun b => resync || (b && behind)) })
  else updHerd s (fun h => { h with
    gensLate := tupd h.gensLate o (· + 1), resync := tupd h.resync o (fun b => resync || b) })

/-! ### Endpoint reset -/

/-- R144: flits of requests that are not accepted, in the FIFO or the store. -/
def unacceptedFlits (x : NI) : Nat :=
  fifoFlits x + x.store.foldl (fun a e => a + e.pkt.length) 0 +
  (match x.partialReq with
   | some e => e.pkt.length
   | none => 0)

/-- What the assertion of EP_RESET_N does (R144–R146, R169). -/
def resetEndpoint (s : State) (n : Slot) : State :=
  let k := unacceptedFlits (nif s n)
  let s := if k = 0 then s else repNi s n .epResetDiscard (min 65535 k)
  let s := updN s n (fun x => { x with
    reset := true, readyHold := true, reqFifo := [], reqDrop := 0, store := [], partialReq := none, partialTicks := 0,
    remainder := 0
    tags := x.tags.map (fun t => { t with orphan := true })
    reqs := x.reqs.map (fun r => { r with discard := true }) })
  bumpGen (dropDiscarded (answerQueue (answerTaken s n) n) n) n false

/-- EP_RESET_ASSERT (R144): in RETAIN the always-on island records it (R410). -/
def execEpResetAssert (n : Slot) (s : State) : Host.Outcome State Fault Refusal :=
  .next (if ownPort n then s
    else
      let s := updN s n (fun x => { x with resetPin := true })
      if s.aon.mode == .retain then
        updN (updAon s (fun a => { a with epRec := a.epRec ||| (1#192 <<< n.val) })) n (fun x => { x with reset := true })
      else if niRuns s n && !(nif s n).reset then resetEndpoint s n
      else s)

/-- The release of EP_RESET_N: inbound work is delivered again (R145, R196, R200). -/
def releaseEndpoint (s : State) (n : Slot) : State :=
  drainSink (updN s n (fun x => { x with reset := false })) n

/-- EP_RESET_RELEASE (R145). -/
def execEpResetRelease (n : Slot) (s : State) : Host.Outcome State Fault Refusal :=
  .next (if ownPort n || !(nif s n).resetPin then s
    else
      let s := updN s n (fun x => { x with resetPin := false })
      if !(nif s n).reset then s
      else if s.aon.mode == .retain then updN s n (fun x => { x with reset := false })
      else if niRuns s n then releaseEndpoint s n
      else s)

/-- An NI whose clock runs again meets the level of EP_RESET_N that changed while it stood (R144, R145, R169). DESIGN
CHOICE: it does so at its next tick. -/
def syncReset (s : State) (n : Slot) : State :=
  let x := nif s n
  if ownPort n || x.resetPin == x.reset then s
  else if x.resetPin then resetEndpoint s n
  else releaseEndpoint s n

/-- A request from before a reset still holds its endpoint tag, and is no canonical atomic that has been staged (R145,
R168). -/
def holdsTag (x : NI) (r : ReqEnt) : Bool :=
  r.discard && r.frees && !x.tags.any (fun t => t.req == r.num && t.staged)

/-- REQUEST_READY_RISE (R145, R168): nothing accepted before the reset is left to be injected, and every tag from before
it, of the network or of the endpoint alone, is free or belongs to a staged atomic. -/
def execRequestReadyRise (n : Slot) (s : State) : Host.Outcome State Fault Refusal :=
  let x := nif s n
  .next (if niRuns s n && !x.reset && x.readyHold && x.inj.isEmpty && x.tags.all (fun t => !t.orphan || t.staged) &&
      !x.reqs.any (holdsTag x) then
      updN s n (fun x => { x with readyHold := false })
    else s)

/-- EP_READY_CHANGE (R487). -/
def execEpReadyChange (n : Slot) (level : Bool) (s : State) : Host.Outcome State Fault Refusal :=
  .next (if ownPort n || !niRuns s n || (nif s n).ready == level then s
    else
      let s := updN s n (fun x => { x with ready := level, readyChanges := x.readyChanges + 1 })
      if level then drainSink s n else answerQueue s n)

/-- EP_EXC (R166, R481): a pulse is counted. -/
def execEpExc (n : Slot) (s : State) : Host.Outcome State Fault Refusal :=
  .next (if niRuns s n && !ownPort n then updN s n (fun x => { x with excCount := x.excCount + 1 }) else s)

end Sys2Proof.Machine
end

