-- ==== Sys2Proof/Machine/Power.lean ====
section
/-! DEFINITION. The always-on island (chapter 13): supply codes and handshakes, wake, entry to DROWSE and RETAIN, the
return from RETAIN, cluster gating, FREEZE and THAW, and the PWR_ registers. -/

namespace Sys2Proof.Machine

def acl (s : State) : Nat := s.aon.aclk.toNat

/-! ### Handshakes (R417–R421, R496) -/

def modeIx (m : Mode) : Fin 8 := Fin.ofNat 8 (modeCode m)
/-- SUPPLY, BIAS and ASSIST of a mode (R417). -/
def codesOf (s : State) (m : Mode) : BitVec 2 × BitVec 6 × BitVec 4 :=
  let w := tget s.aon.codes (modeIx m)
  (bits w 10 2, bits w 4 6, bits w 0 4)

/-- Drive codes and raise PWRC_REQ, or wait until PWRC_ACK has fallen (R418). -/
def driveCodes (a : Aon) (c : BitVec 2 × BitVec 6 × BitVec 4) : Aon :=
  if a.pwrReq || a.pwrAck then { a with want := some c }
  else { a with supply := c.1, bias := c.2.1, assist := c.2.2, pwrReq := true, want := none }

/-- A step begins to wait for handshakes, which are late `delay` ACLK cycles from now. -/
def awaitAck (a : Aon) (m : Mode) (delay : Nat) : Aon :=
  { a with pwrDue := some (m, a.aclk.toNat + delay), pwrLate := false }

/-- 20 µs: the limit of a step without a delay (R421). -/
abbrev stepLimit : Nat := 640

def sendCodes (s : State) (m : Mode) : State :=
  updAon s (fun a => awaitAck (driveCodes a (codesOf s m)) m stepLimit)

/-- Every clock but those of dead clusters. -/
def liveClocks (s : State) : BitVec 26 := BitVec.allOnes 26 &&& ~~~ (s.recov.dead.setWidth 26)

/-- The codes last asked for are acknowledged. -/
def codesDone (s : State) : Bool := !s.aon.pwrReq && s.aon.want.isNone
def rootDone (s : State) : Bool := s.aon.rootAck == s.aon.rootSel
def clocksDone (s : State) : Bool := s.aon.clkAck == s.aon.clkReq
def handshakesDone (s : State) : Bool := codesDone s && rootDone s && clocksDone s
def settled (s : State) : State := updAon s (fun a => { a with pwrDue := none, pwrLate := false })

/-! ### Ports, holds and the ends of a MODE_REQ -/

/-- R397: request-ready follows the mode. -/
def setPorts (s : State) : State :=
  let all := s.aon.mode == .serve || s.aon.mode == .drowse
  updAllN s (fun n x => { x with reqReady := all || decide (180 ≤ n.val) })

def enterMode (s : State) (m : Mode) : State := updAon s (fun a => { a with mode := m })

/-- Every NI processes its request store again. -/
def resumeAll (s : State) : State := (List.finRange 192).foldl (fun s n => resumeStore s n) s

def releaseHolds (s : State) : State :=
  resumeAll (updAllN s (fun _ x => { x with holdPosted := false, holdAll := false }))

/-- A MODE_REQ in progress ends with its command (R396, R519). -/
def endMode (s : State) (m : ModeReq) (st : Status) (detail : BitVec 16) (res : BitVec 320) : State :=
  endCmd (noteMode (updAon s (fun a => { a with modeReq := none, armedLatch := false })) m.target st detail) m.ring m.index
    st detail res

/-- The MODE_REQ SERVE commands that joined an exit or a return end with it (R396). -/
def endJoined (s : State) (st : Status) (detail : BitVec 16) : State :=
  s.aon.joined.foldl (fun s c => endCmd (noteMode s .serve st detail) c.1 c.2 st detail)
    (updAon s (fun a => { a with joined := [] }))

/-! ### The posted drain and the quiet condition (R167, R404) -/

/-- The NI holds up the posted drain. -/
def postedOpen (x : NI) : Bool := x.inj.any (·.posted) || x.tags.any (fun t => t.posted && !t.quarantined)
def postedDone (s : State) : Bool := s.nis.toList.all (fun x => !postedOpen x)

/-- Nothing of R404 is left in the NI. A request on its way through the request FIFO or onto the local port is left. -/
def niQuiet (x : NI) : Bool :=
  x.reqFifo.isEmpty && x.sending.toList.all (·.isNone) && x.inq.isEmpty && x.readWait.isEmpty &&
  x.vatSpills.isEmpty && x.vatDrains.isEmpty && x.rspQ.isEmpty && x.skmQ.isEmpty && x.vatQ.isEmpty && x.dbQ.isEmpty &&
  x.inj.isEmpty && x.spillAcks.isEmpty && x.taken.isEmpty && x.atoms.isEmpty && x.ej.toList.all (·.isEmpty) &&
  x.fences.isEmpty && x.tags.all (fun t => t.quarantined || t.staged) && x.reqs.all (fun r => !r.slot &&
  x.tags.any (fun t => t.staged && t.req == r.num)) && x.groups.toList.all (fun q => q.releasing.isNone &&
  q.pass.isNone)

def routerQuiet (x : Router) : Bool :=
  x.returned.isEmpty && x.ins.toList.all (fun i => i.wire.isEmpty && i.buf.toList.all (·.isEmpty))
def endQuiet (x : SpineEnd) : Bool := x.pail.isEmpty && x.queue.isEmpty && x.tx.isNone && x.lanesIn.isEmpty

def fabricQuiet (s : State) : Bool :=
  s.routers.toList.all routerQuiet && s.spine.toList.all endQuiet && s.nis.toList.all niQuiet
/-- Nothing but the MODE_REQ is started, and nothing is unpublished. -/
def herdQuiet (s : State) : Bool :=
  s.herd.started.all (fun c => s.aon.modeReq.any (fun m => isCmd m.ring m.index c)) &&
  s.herd.rings.toList.all (fun r => r.pending.isEmpty && r.batch == 0) && s.herd.memOut.isEmpty && s.herd.memBusy.isEmpty

/-- The number of NIs that fail a condition, and the lowest such slot or 0xFFFF (R405). -/
def failing (s : State) (ok : NI → Bool) : Nat × Nat :=
  let l := (List.finRange 192).filter (fun n => !ok (nif s n))
  (l.length, ((l.head?).map (·.val)).getD 0xFFFF)

/-! ### Refusal of an entry (R405, R421) -/

def refusedBy (s : State) (m : ModeReq) : Nat × Nat :=
  if m.phase = 3 then failing s niQuiet else failing s (fun x => !postedOpen x)

/-- An entry ends without its mode. -/
def dropEntry (s : State) (m : ModeReq) (detail : BitVec 16) (res : Nat) : State :=
  let s := updAon s (fun a => { a with latch := none, armedLatch := false })
  let s := updCan s (fun c => { c with paused := false })
  releaseHolds (endMode s m .notReady detail (BitVec.ofNat 320 res))

/-- R405: the refusal, with its event. -/
def refuseEntry (s : State) (m : ModeReq) (detail : BitVec 16) (f : Nat × Nat) : State :=
  repDie (dropEntry s m detail (f.1 + f.2 * 2 ^ 16)) .modeRefused (f.1 * 2 ^ 16 + f.2)

/-- A cluster recovery or a lost sector ends an entry that has not reached its last phase (R405). -/
def abortEntry (s : State) : State :=
  match s.aon.modeReq with
  | some m => if m.phase < 4 && s.aon.armedLatch then refuseEntry s m 0x000A (0, 0xFFFF) else s
  | none => s

/-! ### Exit from DROWSE and the return from RETAIN (R402, R407) -/

def srcPin (n : Fin 8) : BitVec 4 := BitVec.ofNat 4 n.val
abbrev srcAlarm : BitVec 4 := 8
abbrev srcEp : BitVec 4 := 9
abbrev srcServe : BitVec 4 := 10
abbrev srcFreeze : BitVec 4 := 11

/-- PWR_LASTWAKE (R416). -/
def recordWake (s : State) (src : BitVec 4) (slot : BitVec 8) (fromRetain replayed : Bool) (epoch : Nat) : State :=
  updAon s (fun a =>
    let w : Word := setField 0 63 1 1
    let w := setField w 62 1 replayed.toNat
    let w := setField w 61 1 fromRetain.toNat
    let w := setField w 57 4 src.toNat
    let w := setField w 49 8 slot.toNat
    { a with lastWake := setField w 0 48 epoch, lastWakeAclk := a.aclk })

/-- R402 step 1. -/
def startExit (s : State) (src : BitVec 4) (slot : BitVec 8) (replayed : Bool) : State :=
  let s := recordWake s src slot false replayed s.herd.epoch
  updAon (sendCodes s .serve) (fun a => { a with exitStep := some 1 })

/-- R407 steps 0 and 1: SUPPLY of TRAIN, under the other RETAIN codes. -/
def startReturn (s : State) (src : BitVec 4) (slot : BitVec 8) (replayed : Bool) : State :=
  let tick := (s.aon.modeReq.map (·.s)).getD s.aon.retS
  let s := recordWake s src slot true replayed tick
  updAon s (fun a => awaitAck (driveCodes { a with
    retStep := some 1, retS := tick, retFrom := a.aclk.toNat, retSource := src, retReplayed := replayed,
    retFailed := false
    stepFrom := a.aclk.toNat } ((codesOf s .train).1, a.bias, a.assist)) .train 640)

/-! ### Wake events (R411–R416) -/

def pinEn (a : Aon) (n : Fin 8) : Bool := a.wakeCfg.getLsbD (3 * n.val + 2)
def pinPol (a : Aon) (n : Fin 8) : Bool := a.wakeCfg.getLsbD (3 * n.val + 1)
def pinEdge (a : Aon) (n : Fin 8) : Bool := a.wakeCfg.getLsbD (3 * n.val)
def epEn (a : Aon) : Bool := a.wakeCfg.getLsbD 24
def alarmEn (a : Aon) : Bool := a.wakeCfg.getLsbD 25

/-- The armed alarm's condition holds (R413). -/
def alarmMet (s : State) : Bool :=
  let w := s.aon.alarm
  w.getLsbD 63 && (if w.getLsbD 62 then decide (field w 0 56 ≤ acl s) else decide (field w 0 48 ≤ s.herd.epoch))

/-- Enabled level sources whose level is present (R415). -/
def pinPresent (a : Aon) (n : Fin 8) : Bool := pinEn a n && !pinEdge a n && a.wakeIn.getLsbD n.val == pinPol a n
def levelPresent (s : State) : Bool :=
  (List.finRange 8).any (pinPresent s.aon) || (epEn s.aon && s.aon.epWake != 0) || (alarmEn s.aon && alarmMet s)

/-- What a wake event does in each mode and phase (R414). -/
def takeWake (s : State) (src : BitVec 4) (slot : BitVec 8) (replayed : Bool) : State :=
  let a := s.aon
  if a.mode == .freeze || a.armedLatch then
    updAon s (fun a => { a with latch := a.latch.or (some (src, slot)) })
  else if a.mode == .drowse && a.exitStep.isNone then startExit s src slot replayed
  else if a.mode == .retain && a.retStep.isNone then startReturn s src slot replayed
  else s

/-- The event latched during an entry is replayed when the entry completes. -/
def replayLatch (s : State) : State :=
  let l := s.aon.latch
  let s := updAon s (fun a => { a with latch := none, armedLatch := false })
  match l with
  | some (src, slot) => takeWake s src slot true
  | none => s

/-- The alarm fires: EN is cleared, and it is a wake event where it is enabled. -/
def fireAlarm (s : State) : State :=
  if alarmMet s && (s.aon.alarm.getLsbD 62 || (s.aon.mode != .retain && s.aon.mode != .freeze)) then
    let s := updAon s (fun a => { a with alarm := setField a.alarm 63 1 0 })
    if alarmEn s.aon then takeWake s srcAlarm 0 false else s
  else s

def lowestSlot (m : BitVec 192) : BitVec 8 :=
  BitVec.ofNat 8 ((((List.finRange 192).filter (fun n => m.getLsbD n.val)).head?.map (·.val)).getD 0)

/-- Detectors run but in RESET and TEST (R414). -/
def execWakeEvent (src : WakeSource) (s : State) : Host.Outcome State Fault Refusal :=
  .next (match src with
    | .pin n level =>
      let was := s.aon.wakeIn.getLsbD n.val
      let s := updAon s (fun a => { a with wakeIn := setField a.wakeIn n.val 1 level.toNat })
      if pinEn s.aon n && was != level && level == pinPol s.aon n then takeWake s (srcPin n) 0 false else s
    | .ep n level =>
      let was := s.aon.epWake
      let s := updAon s (fun a => { a with epWake := setField a.epWake n.val 1 level.toNat })
      if epEn s.aon && was == 0 && level then takeWake s srcEp (lowestSlot s.aon.epWake) false else s
    | .alarm => fireAlarm s)

/-- EPOCH_ALARM (R413). -/
def execEpochAlarm (s : State) : Host.Outcome State Fault Refusal := .next (fireAlarm s)

/-! ### The steps that a handshake ends -/

/-- The mode is DROWSE (R398). -/
def enterDrowse (s : State) (m : ModeReq) : State :=
  let s := enterMode (settled s) .drowse
  let s := endMode (canLog s 5 0xFFFF s.herd.epoch) m .ok 0 (BitVec.ofNat 320 (s.herd.epoch % 2 ^ 48))
  replayLatch s

/-- The mode is RETAIN (R403, R280): lanes stopped, links OFF, every NI closed. -/
def enterRetain (s : State) (m : ModeReq) : State :=
  let s := enterMode (settled s) .retain
  let s := updAllE s (fun _ x => { lanesOff x with lockTimer := false, downEpoch := none })
  let s := updAllR s (fun _ x => { x with spineUp := 0 })
  let s := updAllN (updHerd s (fun h => { h with spineUp := 0 })) (fun _ x => { x with closed := true })
  let s := updAon s (fun a => { a with modeReq := some { m with phase := 5, aclkEnd := a.aclk.toNat } })
  replayLatch (canLog s 3 0xFFFF s.herd.epoch)

/-- SERVE is reached from DROWSE (R402). -/
def finishExit (s : State) : State :=
  let s := setPorts (enterMode (settled s) .serve)
  let s := canLog (updAon s (fun a => { a with exitStep := none })) 6 0xFFFF s.herd.epoch
  let s := match s.aon.modeReq with
    | some m => if m.target == .serve then endMode s m .ok 0 0 else s
    | none => s
  endJoined s .ok 0

/-- Carry the island's work on after a handshake, but while frozen (R427). -/
def aonNext (s : State) : State :=
  if s.aon.mode == .freeze then s
  else match s.aon.exitStep, s.aon.modeReq with
    | some 1, _ =>
      if codesDone s then updAon (settled s) (fun a => { a with exitStep := some 2, stepFrom := a.aclk.toNat }) else s
    | some 3, _ => if rootDone s then finishExit s else s
    | some _, _ => s
    | none, some m =>
      if m.target == .drowse && m.phase == 3 then
        if rootDone s then
          updAon (sendCodes s .drowse) (fun a => { a with modeReq := some { m with phase := 4 } })
        else s
      else if m.target == .drowse && m.phase == 4 && codesDone s then enterDrowse s m
      else if m.target == .retain && m.phase == 4 && codesDone s then enterRetain s m
      else s
    | none, none =>
      -- what a failed entry left lowered is raised again
      if s.aon.rootSel && s.aon.mode != .drowse && s.aon.retStep.isNone && codesDone s && rootDone s then
        updAon s (fun a => { a with rootSel := false })
      else s

/-- PWRC_ACK (R418). -/
def execPwrcAck (level : Bool) (s : State) : Host.Outcome State Fault Refusal :=
  .next (if level then
      if s.aon.pwrReq then aonNext (updAon s (fun a => { a with pwrReq := false, pwrAck := true })) else s
    else
      updAon s (fun a =>
        let a := { a with pwrAck := false }
        match a.want with
        | some c => driveCodes a c
        | none => a))

/-- CLKC_ROOT_ACK (R419, R496). -/
def execClkcRootAck (level : Bool) (s : State) : Host.Outcome State Fault Refusal :=
  .next (aonNext (updAon s (fun a => { a with rootAck := level })))

/-- CLKC_ACK (R423): the acknowledge follows the request. -/
def execClkcAck (n : Fin 26) (level : Bool) (s : State) : Host.Outcome State Fault Refusal :=
  .next (if s.aon.clkReq.getLsbD n.val == level then
      updAon s (fun a => { a with clkAck := setField a.clkAck n.val 1 level.toNat })
    else s)

/-! ### MODE_REQ (R396) -/

/-- What refuses a MODE_REQ before the table: another one, a recovery, a level wake source. -/
def modeFault (s : State) (sleep : Bool) : Option (BitVec 16) :=
  if modeBusy s then some 0x0006
  else if modeUnfit s then some 0x0004
  else if sleep && levelPresent s then some 0x0003
  else none

/-- A MODE_REQ that ends at its start. -/
def endNow (s : State) (c : Cmd) (target : Mode) (st : Status) (detail : BitVec 16) : State :=
  endCmd (if s.aon.modeReq.isNone then noteMode s target st detail else s) c.ring c.index st detail

/-- A wake-caused exit or return that a MODE_REQ SERVE joins. -/
def mayJoin (s : State) : Bool := (s.aon.exitStep.isSome && s.aon.modeReq.isNone) || s.aon.retStep.isSome

def beginMode (s : State) (c : Cmd) (target : Mode) (phase : Nat) : State :=
  updAon (ranCmd s c.ring c.index) (fun a => { a with
    modeReq := some { ring := c.ring, index := c.index, target := target, source := a.mode, phase := phase,
                      drainFrom := a.aclk.toNat, limit := max 32 a.drain.toNat, s := 0, aclkEnd := 0 }
    lastTarget := target })

/-- The first cause that keeps TRAIN from SERVE. -/
def serveFault (s : State) (allowUnready : Bool) : Option (BitVec 16) :=
  if s.spine.toList.any (fun x => x.state == .train) then some 0x0007
  else if !allowUnready && (List.finRange 192).any (fun n => isDram n.val && !(nif s n).ready) then some 0x0008
  else if !s.churn.awaiting.isEmpty then some 0x0009
  else none

def modeReqOf (s : State) (ring : CmdRing) (m : Mode) : Option Cmd :=
  startedCmd s ring (fun c => cmdOp c == 0x1C && dByte c.desc 8 == modeCode m)

/-- MODE_REQ_SERVE (R396, R402). -/
def execModeReqServe (ring : CmdRing) (s : State) : Host.Outcome State Fault Refusal :=
  .next (match modeReqOf s ring .serve with
    | none => s
    | some c =>
      if mayJoin s then updAon (ranCmd s c.ring c.index) (fun a => { a with joined := a.joined ++ [(c.ring, c.index)] })
      else match modeFault s false, s.aon.mode with
        | some d, _ => endNow s c .serve .notReady d
        | none, .serve => endNow s c .serve .ok 0
        | none, .train =>
          (match serveFault s (c.desc.getLsbD 72) with
           | some d => endNow s c .serve .notReady d
           | none => endNow (setPorts (enterMode s .serve)) c .serve .ok 0)
        | none, .drowse => startExit (beginMode s c .serve 1) srcServe 0 false
        | none, _ => endNow s c .serve .notReady 0x0005)

/-- The NIs hold posted writes, or but for slot 188 every request (R398, R403). -/
def holdNis (s : State) (all : Bool) : State :=
  updAllN s (fun n x => if all then { x with holdAll := n != herdSlot } else { x with holdPosted := true })

def armLatch (s : State) : State := updAon s (fun a => { a with armedLatch := true, latch := none })

/-- MODE_REQ_DROWSE (R398). -/
def execModeReqDrowse (ring : CmdRing) (s : State) : Host.Outcome State Fault Refusal :=
  .next (match modeReqOf s ring .drowse with
    | none => s
    | some c => match modeFault s true, s.aon.mode with
      | some d, _ => endNow s c .drowse .notReady d
      | none, .drowse => endNow s c .drowse .ok 0
      | none, .serve => holdNis (armLatch (beginMode s c .drowse 2)) false
      | none, _ => endNow s c .drowse .notReady 0x0005)

/-- Phase 1 of an entry to RETAIN ends when no gather runs (R403). -/
def retainAccept (s : State) : State :=
  match s.aon.modeReq with
  | some m =>
    if m.target == .retain && m.phase == 1 && s.dip.gather.isNone && herdRuns s then
      updAon (holdNis s true) (fun a => { a with
        modeReq := some { m with phase := 2, drainFrom := a.aclk.toNat, limit := max 32 a.drain.toNat } })
    else s
  | none => s

/-- MODE_REQ_RETAIN (R403). -/
def execModeReqRetain (ring : CmdRing) (s : State) : Host.Outcome State Fault Refusal :=
  .next (match modeReqOf s ring .retain with
    | none => s
    | some c => match modeFault s true, s.aon.mode with
      | some d, _ => endNow s c .retain .notReady d
      | none, .retain => endNow s c .retain .ok 0
      | none, .serve =>
        retainAccept (updCan (armLatch (beginMode s c .retain 1)) (fun x => { x with paused := true }))
      | none, .drowse =>
        retainAccept (updCan (armLatch (beginMode s c .retain 1)) (fun x => { x with paused := true }))
      | none, _ => endNow s c .retain .notReady 0x0005)

/-! ### The phases of an entry -/

/-- POSTED_DRAIN_DONE (R167, R398, R403). -/
def execPostedDrainDone (s : State) : Host.Outcome State Fault Refusal :=
  let s := retainAccept s
  .next (match s.aon.modeReq with
    | some m =>
      if herdRuns s && m.phase == 2 && postedDone s then
        if m.target == .drowse then
          aonNext (updAon (releaseHolds s) (fun a => awaitAck { a with
            modeReq := some { m with phase := 3 }, rootSel := true } .drowse stepLimit))
        else updAon s (fun a => { a with modeReq := some { m with phase := 3 } })
      else s
    | none => s)

/-- QUIET_REACHED (R403 phase 4, R404): S is taken, the clock requests fall, the RETAIN codes are sent. -/
def execQuietReached (s : State) : Host.Outcome State Fault Refusal :=
  .next (match s.aon.modeReq with
    | some m =>
      if herdRuns s && m.target == .retain && m.phase == 3 && fabricQuiet s && herdQuiet s then
        updAon (sendCodes (writeCanaries s (s.herd.epoch + 1)) .retain) (fun a => { a with
          modeReq := some { m with phase := 4, s := s.herd.epoch + 1 }, clkReq := 0 })
      else s
    | none => s)

/-- DRAIN_TIMEOUT (R405). -/
def execDrainTimeout (s : State) : Host.Outcome State Fault Refusal :=
  .next (match s.aon.modeReq with
    | some m =>
      if herdRuns s && decide (m.drainFrom + m.limit ≤ acl s) &&
         (m.phase == 2 || (m.phase == 3 && m.target == .retain)) then
        refuseEntry s m (if m.phase = 2 then 0x0001 else 0x0002) (refusedBy s m)
      else s
    | none => s)

/-- DROWSE_EXIT (R402): the settle wait is over and the root is asked for. -/
def execDrowseExit (s : State) : Host.Outcome State Fault Refusal :=
  .next (if s.aon.mode == .drowse && s.aon.exitStep == some 2 && decide (s.aon.stepFrom + 160 ≤ acl s) then
      aonNext (updAon s (fun a => awaitAck { a with exitStep := some 3, rootSel := false } .serve stepLimit))
    else s)

/-! ### The return from RETAIN (R407–R410) -/

/-- Step 3: root and clocks; the mode reads TRAIN. -/
def returnClocks (s : State) : State :=
  let s := setPorts (enterMode s .train)
  let s := updAon s (fun a => awaitAck { a with
    retStep := some 3, rootSel := false, clkReq := liveClocks s, stepFrom := a.aclk.toNat, gated := 0,
    drowseWhey := 0 } .train 160)
  canLog (updCan s (fun c => { c with paused := false })) 4 0xFFFF s.herd.epoch

/-- The endpoints whose reset the record holds are reset once (R410). -/
def replayResets (s : State) : State :=
  (List.finRange 192).foldl (fun s n =>
    if s.aon.epRec.getLsbD n.val then
      let level := (nif s n).reset
      let s := resetEndpoint s n
      if level then s else releaseEndpoint s n
    else s) s

/-- What the return reports (R408). -/
def returnResult (s : State) (m : ModeReq) : BitVec 320 :=
  let a := s.aon
  BitVec.ofNat 320 (a.retS % 2 ^ 48 + (a.retFrom - m.aclkEnd) % 2 ^ 64 * 2 ^ 64 + a.retSource.toNat * 2 ^ 128 +
    a.retReplayed.toNat * 2 ^ 136)

/-- Step 6: epoch counters at S − 1, NIs opened, the end of the return. -/
def returnOpen (s : State) : State :=
  let e := s.aon.retS - 1
  let s := { s with epochs := tabAll 24 e }
  let s := updHerd s (fun h => { h with
    epoch := e, rereadAll := true, govLevel := 0, govLow := 0, govFigures := 0, govSat := none })
  let s := updAllR s (fun _ x => { x with govLevel := 0, govNext := none })
  let bad := s.aon.retFailed
  let s := enterMode s (if bad then .train else .serve)
  let s := setPorts (updAllN s (fun _ x => { x with closed := x.recovering.isSome, holdPosted := false, holdAll := false }))
  let s := replayResets s
  let st : Status := if bad then .notReady else .ok
  let d : BitVec 16 := if bad then 0x0009 else 0
  let s := match s.aon.modeReq with
    | some m => endMode s m st d (returnResult s m)
    | none => s
  let s := endJoined s st d
  resumeAll (updAon s (fun a => { a with retStep := none, epRec := 0, pwrDue := none }))

/-- One step of the return that is over, and the next begun. `failed`: the banks that fail the check of step 4. -/
def returnStep (s : State) (failed : List LostBank) : State :=
  let past (d : Nat) : Bool := decide (s.aon.stepFrom + d ≤ acl s)
  let to_ (n : Nat) (s : State) : State := updAon s (fun a => { a with retStep := some n, stepFrom := a.aclk.toNat })
  match s.aon.retStep with
  | some 1 =>
    if past 640 && codesDone s then
      let c := codesOf s .train
      updAon (to_ 2 s) (fun a => awaitAck (driveCodes a (a.supply, c.2.1, c.2.2)) .train 160)
    else s
  | some 2 => if past 160 && codesDone s then returnClocks (settled s) else s
  | some 3 => if past 160 && rootDone s && clocksDone s then to_ 4 (settled s) else s
  | some 4 =>
    if past 960 then
      let n := s.churn.awaiting.length
      let s := (canaryFails s s.aon.retS ++ failed).foldl bankLost s
      let s := updAon s (fun a => { a with retFailed := decide (n < s.churn.awaiting.length) })
      to_ 5 ((List.finRange 12).foldl startTraining s)
    else s
  | some 5 => if past 256 then returnOpen s else s
  | _ => s

/-! ### FREEZE and THAW (R425–R430) -/

def freezeAsked (s : State) : Bool := s.aon.freezePin || s.aon.freezeHold

/-- The stop tree is driven (R426). -/
def stopTree (s : State) : State :=
  updAon s (fun a => { a with
    freezeFrom := a.mode, mode := .freeze, freezeCount := BitVec.ofNat 32 (min (2 ^ 32 - 1) (a.freezeCount.toNat + 1))
    freezeStop := a.aclk, frozenAt := a.aclk.toNat })

/-- A FREEZE request in the mode it finds: from RETAIN, the first two steps of a return come before it (R427). -/
def freezeNow (s : State) : State :=
  if s.aon.mode == .retain && s.aon.retStep.isNone then startReturn s srcFreeze 0 false
  else if s.aon.mode == .retain && s.aon.retSource == srcFreeze then s
  else match s.aon.mode with
    | .serve | .drowse | .train | .recover | .retain => stopTree s
    | .reset | .test | .freeze => s

/-- RETAIN_RETURN (R407): the step in progress ends. A freeze taken from RETAIN stops before step 3. -/
def execRetainReturn (failed : List LostBank) (s : State) : Host.Outcome State Fault Refusal :=
  .next (if s.aon.mode == .freeze then s
    else if s.aon.retStep == some 2 && freezeAsked s && decide (s.aon.stepFrom + 160 ≤ acl s) && codesDone s then
      stopTree (settled s)
    else returnStep s failed)

/-- FREEZE (R425, R426): FREEZE_N is asserted. -/
def execFreeze (s : State) : Host.Outcome State Fault Refusal :=
  .next (freezeNow (updAon s (fun a => { a with freezePin := true })))

/-- The stop tree is released (R429, R430): timers go on, links retrain, the Can logs, a latched wake is taken. -/
def thawNow (s : State) : State :=
  if s.aon.mode != .freeze || freezeAsked s then s
  else
    let d := acl s - s.aon.frozenAt
    let stop := s.aon.freezeStop.toNat
    let s := updAon s (fun a => { a with
      mode := a.freezeFrom, freezeThaw := a.aclk
      stepFrom := if a.retStep == some 5 then a.aclk.toNat else a.stepFrom + d
      pwrDue := a.pwrDue.map (fun p => (p.1, p.2 + d))
      modeReq := a.modeReq.map (fun m => { m with drainFrom := m.drainFrom + d }) })
    let s := updRecov s (fun v => { v with
      clusters := tmap v.clusters (fun _ o => o.map (fun x => { x with clkAsked := x.clkAsked + d })) })
    let s := canLogAt (canLogAt s 1 0xFFFF s.herd.epoch stop) 2 0xFFFF s.herd.epoch (acl s)
    let s := (List.finRange 12).foldl startRetrain s
    -- a freeze taken from RETAIN goes on from step 3
    let s := if s.aon.mode == .retain && s.aon.retSource == srcFreeze && s.aon.retStep == some 2 then returnClocks s else s
    let s := aonNext s
    if s.aon.armedLatch then s
    else match s.aon.latch with
      | some (src, slot) => takeWake (updAon s (fun a => { a with latch := none })) src slot false
      | none => s

/-- THAW (R429): FREEZE_N is deasserted. -/
def execThaw (s : State) : Host.Outcome State Fault Refusal :=
  .next (thawNow (updAon s (fun a => { a with freezePin := false })))

/-! ### A missing acknowledge (R421, R496) -/

/-- 1 ms in ACLK cycles. -/
abbrev oneMs : Nat := 32000

/-- An event of the island that goes to the Crock alone (R454). -/
def crockOnly (s : State) (code : EventCode) (detail : Nat) : State :=
  toCrock s (mkEvent code .die 0 0 s.herd.epoch (BitVec.ofNat 32 detail) 0)

/-- A handshake is given up and the change with it. -/
def failChange (s : State) (m : Mode) : State :=
  let clear (s : State) : State := updAon (settled s) (fun a => { a with pwrReq := false, want := none })
  if s.aon.retStep.isSome then
    -- back to RETAIN
    let s := updAon (clear s) (fun a => { a with retStep := none, clkReq := 0, mode := .retain })
    let s := updCan (updAllE s (fun _ x => lanesOff x)) (fun c => { c with paused := true })
    crockOnly (sendCodes s .retain) .pwrAckFail (modeCode m)
  else if s.aon.exitStep.isSome then
    let s := updAon (clear s) (fun a => { a with exitStep := none, rootSel := a.rootAck })
    let s := sendCodes s .drowse
    let s := match s.aon.modeReq with
      | some q => endMode s q .notReady 0x000B 0
      | none => s
    endJoined s .notReady 0x000B
  else match s.aon.modeReq with
    | some q =>
      if q.phase < 3 then s
      else if q.target == .drowse then
        dropEntry (sendCodes (updAon (clear s) (fun a => { a with rootSel := a.rootAck })) .serve) q 0x000B 0
      else if q.target == .retain && q.phase == 4 then
        let s := sendCodes (updAon (clear s) (fun a => { a with clkReq := liveClocks s })) q.source
        dropEntry ((List.finRange 12).foldl startRetrain s) q 0x000B 0
      else s
    | none => s

/-- PWR_ACK_LATE (R421): the handshake awaited has passed its step's delay, or 1 ms more. -/
def execPwrAckLate (s : State) : Host.Outcome State Fault Refusal :=
  .next (match (if s.aon.mode == .freeze || handshakesDone s then none else s.aon.pwrDue) with
    | none => s
    | some (m, t) =>
      if acl s < t then s
      else if !s.aon.pwrLate then
        crockOnly (updAon s (fun a => { a with pwrLate := true })) .pwrAckLate (modeCode m)
      else if t + oneMs ≤ acl s then failChange s m
      else s)

/-! ### Cluster gating in DROWSE (R400, R401) -/

def gateExempt (c : ClusterId) : Bool := [1, 4, 8, 14, 19, 22].contains c.val

/-- A router outside holds an output VC into the cluster. -/
def heldInto (s : State) (c : ClusterId) : Bool :=
  (List.finRange 96).any (fun r => clusterOf r != c && (List.finRange 11).any (fun p =>
    (neighbour r p).any (fun t => clusterOf t == c) && (tget (rtr s r).outs p).owner.toList.any (·.isSome)))

def niQuiescent (s : State) (n : Slot) : Bool :=
  let x := nif s n
  x.reqFifo.isEmpty && x.sending.toList.all (·.isNone) && x.store.isEmpty && x.partialReq.isNone && x.inj.isEmpty &&
  x.inq.isEmpty && x.readWait.isEmpty && x.vatSpills.isEmpty && x.vatDrains.isEmpty && x.reqs.isEmpty &&
  x.rspQ.isEmpty && x.skmQ.isEmpty && x.vatQ.isEmpty && x.dbQ.isEmpty && x.taken.isEmpty && x.atoms.isEmpty &&
  x.ej.toList.all (·.isEmpty) && x.tags.isEmpty && x.fences.isEmpty && x.stage.isEmpty &&
  (x.locks.all (fun e => e.owner.isNone) || cfgN s n itLockLease 0 == 0)

def clusterQuiescent (s : State) (c : ClusterId) : Bool :=
  (clusterRouters c).all (fun r => routerQuiet (rtr s r)) && !heldInto s c && (clusterSlots c).all (niQuiescent s) &&
  (clusterSectors c).all (fun x => (tget s.herd.rounds x).awaited.isEmpty)

/-- CLUSTER_GATE (R400): the row stands for the end of 64 consecutive FCLK cycles of quiescence. DESIGN CHOICE: they are
not counted. -/
def execClusterGate (c : ClusterId) (_k : Nat) (s : State) : Host.Outcome State Fault Refusal :=
  .next (if clusterRuns s c && s.aon.mode == .drowse && s.aon.drowseWhey.getLsbD c.val && !gateExempt c &&
        clusterQuiescent s c then
      updAon s (fun a => { a with gated := a.gated ||| (1#24 <<< c.val) })
    else s)

/-- A gated cluster runs again, at the governor level in force (R401). -/
def ungate (s : State) (c : ClusterId) : State :=
  if s.aon.gated.getLsbD c.val then
    let s := updAon s (fun a => { a with gated := a.gated &&& ~~~ (1#24 <<< c.val) })
    (clusterRouters c).foldl (fun s r => updR s r (fun x => { x with govLevel := s.herd.govLevel, govNext := none })) s
  else s

/-- CLUSTER_UNGATE (R401). -/
def execClusterUngate (c : ClusterId) (s : State) : Host.Outcome State Fault Refusal := .next (ungate s c)

/-! ### The PWR_ registers (R412, R413, R416, R417, R519–R521) -/

/-- PWR_WAKE_CFG: a level that is present when its source is enabled is a wake event (R412). -/
def writeWakeCfg (s : State) (v : Word) : State :=
  let old := s.aon
  let s := updAon s (fun a => { a with wakeCfg := setField 0 0 26 (field v 0 26) })
  let s := (List.finRange 8).foldl (fun s n =>
    if pinPresent s.aon n && !pinPresent old n then takeWake s (srcPin n) 0 false else s) s
  let s := if alarmEn s.aon && !alarmEn old && alarmMet s then takeWake s srcAlarm 0 false else s
  if epEn s.aon && !epEn old && s.aon.epWake != 0 then takeWake s srcEp (lowestSlot s.aon.epWake) false else s

def writeAlarm (s : State) (v : Word) : State := updAon s (fun a => { a with alarm := setField v 56 6 0 })
def writeDrain (s : State) (v : Word) : State := updAon s (fun a => { a with drain := bits v 0 16 })

/-- PWR_ writes arrive through the Herdsman (R521). -/
def execPwrWakeCfg (v : Word) (s : State) : Host.Outcome State Fault Refusal :=
  .next (if herdRuns s then writeWakeCfg s v else s)
def execPwrAlarm (v : Word) (s : State) : Host.Outcome State Fault Refusal :=
  .next (if herdRuns s then writeAlarm s v else s)
def execPwrDrain (v : Word) (s : State) : Host.Outcome State Fault Refusal :=
  .next (if herdRuns s then writeDrain s v else s)

/-- PWR_MODE (R519). -/
def pwrMode (a : Aon) : Word :=
  setField (setField (setField (setField (0 : Word) 63 1 a.modeReq.isSome.toNat) 48 3 (modeCode a.lastTarget)) 32 16
    a.lastDetail.toNat) 0 3 (modeCode a.mode)

def pwrFreeze (a : Aon) : Word :=
  setField (setField (setField (setField (0 : Word) 63 1 a.freezePin.toNat) 62 1 a.freezeHold.toNat) 48 3
    (modeCode a.freezeFrom)) 0 32 a.freezeCount.toNat

/-- A register of page PWR_. -/
def readPwr (s : State) (off : Nat) : Word :=
  let a := s.aon
  if off = 0x000 then pwrMode a
  else if off = 0x008 then a.drain.setWidth 64
  else if off = 0x010 then a.aclk
  else if off = 0x018 then a.wakeCfg
  else if off = 0x020 then a.alarm
  else if off = 0x028 then a.lastWake
  else if off = 0x030 then a.lastWakeAclk
  else if off = 0x038 then pwrFreeze a
  else if off = 0x040 then a.freezeStop
  else if off = 0x048 then a.freezeThaw
  else if 0x080 ≤ off ∧ off ≤ 0x0B8 ∧ off % 8 = 0 then tget a.codes (Fin.ofNat 8 ((off - 0x080) / 8))
  else 0

/-- A write of a register of page PWR_; the codes are RWL (R417). -/
def writePwr (s : State) (off : Nat) (v : Word) : State :=
  if off = 0x008 then writeDrain s v
  else if off = 0x018 then writeWakeCfg s v
  else if off = 0x020 then writeAlarm s v
  else if 0x080 ≤ off ∧ off ≤ 0x0B8 ∧ off % 8 = 0 then
    if s.herd.lock then s
    else updAon s (fun a => { a with
      codes := tupd a.codes (Fin.ofNat 8 ((off - 0x080) / 8)) (fun _ => setField 0 0 12 (field v 0 12)) })
  else s

end Sys2Proof.Machine
end

