-- ==== Sys2Proof/Machine/Regs.lean ====
section
/-! DEFINITION. The set-up registers (chapter 17, R9–R11, R477): the window's pages, what reads return and writes do, and
requests to slot 188 that name registers (R505–R508). -/

namespace Sys2Proof.Machine

/-! ### Page FAB_ (R508, R509, R511) -/

/-- Part code 0x2C0C, revision code 1, letter B, number 0. -/
def fabId : Word := 0x2C0C104200000000#64
/-- "ZX-192" from byte 0. -/
def fabName : Word := 0x00003239312D585A#64
def winField (v : Word) : Word := setField 0 16 36 (field v 16 36)

def writeFab (s : State) (off : Nat) (v : Word) : State :=
  if off = 0x010 then updHerd s (fun h => { h with lock := h.lock || v.getLsbD 0 })
  else if off = 0x018 then if s.herd.lock then s else updHerd s (fun h => { h with winNext := some (winField v) })
  else s

/-- The packet that carried a write of FAB_WIN has been answered (R508). -/
def winAnswered (s : State) : State :=
  updHerd s (fun h => { h with win := h.winNext.getD h.win, winNext := none })

def readFab (s : State) (off : Nat) : Word :=
  if off = 0x000 then fabId
  else if off = 0x008 then fabName
  else if off = 0x010 then BitVec.ofNat 64 s.herd.lock.toNat
  else if off = 0x018 then s.herd.win
  else if off = 0x020 then s.herd.bootStatus
  else if off = 0x028 then BitVec.ofNat 64 (s.herd.epoch % 2 ^ 48)
  else 0

/-! ### Page STW_ (R515–R518) -/

/-- The fields that a ring's register has. -/
def ringFields (r : RingId) (v : Word) : Word :=
  let w : Word := setField (setField (setField 0 63 1 (field v 63 1)) 52 4 (field v 52 4)) 12 40 (field v 12 40)
  let w := if r.val < 8 then setField w 56 2 (field v 56 2) else w
  if r.val ≤ 8 then setField w 0 4 (field v 0 4) else w

/-- The window that holds the home words of ring `r` once its register holds `w` (R516, R517). -/
def homeWinWith (s : State) (r : RingId) (w : Word) : Fin 16 :=
  if r.val ≤ 8 then Fin.ofNat 16 (field w 0 4) else homeWin s r

/-- A write of STW_RING_r (R516). -/
def writeRing (s : State) (r : RingId) (v : Word) : State :=
  let w := ringFields r v
  if s.herd.lock || ringEn (hring s r) then s
  else if w.getLsbD 63 then
    if (tget s.herd.windows (homeWinWith s r w)).getLsbD 63 then enableRing s r w else s
  else updRing s r (fun x => { x with word := w })

/-- R338: halted rings resume. -/
def writeRingCtl (s : State) (v : Word) : State :=
  updHerd s (fun h => { h with rings := tmap h.rings (fun r x =>
    if v.getLsbD r.val && x.halted then { x with halted := false } else x) })

/-- An enabled ring has its home words in window `w` (R517). -/
def namesWin (s : State) (w : Fin 16) : Bool :=
  (List.finRange 14).any (fun r => ringEn (hring s r) && homeWin s r == w)

/-- A write of STW_DBW_w (R517). -/
def writeDbw (s : State) (w : Fin 16) (v : Word) : State :=
  if s.herd.lock || namesWin s w then s
  else updHerd s (fun h => { h with
    windows := tupd h.windows w (fun _ => setField (setField 0 63 1 (field v 63 1)) 12 40 (field v 12 40)) })

def writeIrqMask (s : State) (v : Word) : State := updHerd s (fun h => { h with irqMask := v })
/-- The two sticky causes are cleared by writing 1 (R340). -/
def writeIrqCause (s : State) (v : Word) : State :=
  updHerd s (fun h => { h with
    causeDropped := h.causeDropped && !v.getLsbD 9, causeFatal := h.causeFatal && !v.getLsbD 7 })
def writeIntr (s : State) (k : Fin 6) (isVal : Bool) (v : Word) : State :=
  updHerd s (fun h => if isVal then { h with intrVal := tupd h.intrVal k (fun _ => v) }
    else { h with intrAddr := tupd h.intrAddr k (fun _ => setField (setField v 52 3 0) 0 3 0) })

def haltedMask (s : State) : Nat :=
  (List.finRange 14).foldl (fun n r => n + (hring s r).halted.toNat * 2 ^ r.val) 0

def writeStw (s : State) (off : Nat) (v : Word) : State :=
  if off = 0x000 then
    if s.herd.lock then s else updHerd s (fun h => { h with ctl := setField 0 0 8 (field v 0 8) })
  else if off = 0x008 then writeRingCtl s v
  else if 0x040 ≤ off ∧ off ≤ 0x0A8 then writeRing s (Fin.ofNat 14 ((off - 0x040) / 8)) v
  else if 0x100 ≤ off ∧ off ≤ 0x128 then writeIntr s (Fin.ofNat 6 ((off - 0x100) / 8)) false v
  else if 0x140 ≤ off ∧ off ≤ 0x168 then writeIntr s (Fin.ofNat 6 ((off - 0x140) / 8)) true v
  else if off = 0x180 then writeIrqMask s v
  else if off = 0x188 then writeIrqCause s v
  else if 0x200 ≤ off ∧ off ≤ 0x278 then writeDbw s (Fin.ofNat 16 ((off - 0x200) / 8)) v
  else s

def readStw (s : State) (off : Nat) : Word :=
  if off = 0x000 then s.herd.ctl
  else if off = 0x010 then BitVec.ofNat 64 (haltedMask s)
  else if 0x040 ≤ off ∧ off ≤ 0x0A8 then (hring s (Fin.ofNat 14 ((off - 0x040) / 8))).word
  else if 0x100 ≤ off ∧ off ≤ 0x128 then tget s.herd.intrAddr (Fin.ofNat 6 ((off - 0x100) / 8))
  else if 0x140 ≤ off ∧ off ≤ 0x168 then tget s.herd.intrVal (Fin.ofNat 6 ((off - 0x140) / 8))
  else if off = 0x180 then s.herd.irqMask
  else if off = 0x188 then (irqCauses s).setWidth 64
  else if 0x200 ≤ off ∧ off ≤ 0x278 then tget s.herd.windows (Fin.ofNat 16 ((off - 0x200) / 8))
  else 0

/-! ### Page CRK_ (R473, R477) -/

def validCount (c : Crock) : Nat := (c.valid.filter (·.2)).length
/-- The oldest valid entry: the first valid one from NEXT on. -/
def crockOldest (c : Crock) : Nat :=
  ((List.range 4096).map (fun i => (c.next + i) % 4096)).find? (crockValid c) |>.getD 0

def writeCrk (s : State) (off : Nat) (v : Word) : State :=
  if off = 0x008 then
    updCrock s (fun c =>
      let c := { c with arm := v.getLsbD 0 }
      if v.getLsbD 1 then { c with stopped := false, triggered := false, postLeft := 0, lost := 0 } else c)
  else s

def readCrk (s : State) (off : Nat) : Word :=
  let c := s.crock
  if off = 0x000 then
    setField (setField (setField (setField (setField (setField (0 : Word) 63 1 c.stopped.toNat) 62 1 c.triggered.toNat)
      44 13 (validCount c)) 32 12 c.trigIdx) 16 12 (crockOldest c)) 0 12 c.next
  else if off = 0x008 then BitVec.ofNat 64 c.arm.toNat
  else if off = 0x010 then BitVec.ofNat 64 (c.lost * 2 ^ 32 + c.suppressed)
  else 0

/-! ### Page DIP_ -/

def writeDip (s : State) (off : Nat) (v : Word) : State :=
  if off = 0x000 then writeDipReg s .privBase v
  else if off = 0x008 then writeDipReg s .userBase v
  else if off = 0x010 then writeDipReg s .userCtl v
  else if off = 0x018 then updDip s (fun d => { d with selAddr := bits v 0 12 })
  else if off = 0x020 then writeSel s v
  else if off = 0x028 then writeSelStatus s v
  else s

/-! ### The window (R503–R507) -/

/-- A read of the register at window offset `off`; `dbg`: the access comes from slot 191 (R369, R505). -/
def readReg (s : State) (off : Nat) (dbg : Bool) : State × Word :=
  let p := off / 4096 % 16
  let o := off % 4096 / 8 * 8
  if p = 0 then (s, readFab s o)
  else if p = 1 then (s, readStw s o)
  else if p = 2 then (s, readPwr s o)
  else if p = 3 then (s, readDip s o)
  else if p = 4 then (s, readCrk s o)
  else if p = 5 then
    if dbg then (debugAccess s o, 0) else if canRuns s then (s, readMtr s o) else (s, 0)
  else (s, 0)

/-- A write of the register at window offset `off`. -/
def writeReg (s : State) (off : Nat) (v : Word) (dbg : Bool) : State :=
  let p := off / 4096 % 16
  let o := off % 4096 / 8 * 8
  if p = 0 then writeFab s o v
  else if p = 1 then writeStw s o v
  else if p = 2 then writePwr s o v
  else if p = 3 then writeDip s o v
  else if p = 4 then writeCrk s o v
  else if p = 5 then
    if dbg then debugAccess s o else if canRuns s then writeMtr s o v else s
  else s

/-! ### Requests to slot 188 (R505–R507) -/

/-- A line lies in the window: its window offset. -/
def winOffset (s : State) (line : Nat) : Option Nat :=
  if line / 1024 = field s.herd.win 16 36 then some (line % 1024 * 64) else none

/-- The eight registers of a line, in ascending order. -/
def readRegLine (s : State) (off : Nat) (dbg : Bool) : State × BitVec 512 :=
  (List.range 8).foldl (fun (acc : State × BitVec 512) i =>
    let r := readReg acc.1 (off + 8 * i) dbg
    (r.1, setLineWord acc.2 i r.2)) (s, 0)

/-- A line written under a byte mask: the flag tells that a register's mask was partial (R507). -/
def writeRegLine (s : State) (off : Nat) (d : BitVec 512) (mask : BitVec 64) (dbg : Bool) : State × Bool :=
  (List.range 8).foldl (fun (acc : State × Bool) i =>
    let m := field mask (8 * i) 8
    if m = 255 then (writeReg acc.1 (off + 8 * i) (lineWord d i) dbg, acc.2)
    else (acc.1, acc.2 || decide (m ≠ 0))) (s, false)

/-- One line of a read of slot 188. -/
def regReadLine (s : State) (line : Nat) (code : Status) (dbg : Bool) : State × LineRes :=
  if code != .ok then (s, noLine code .ok 0)
  else match winOffset s line with
    | none => (s, noLine .poison .ok 0)
    | some o =>
      let r := readRegLine s o dbg
      (r.1, { line := goodLine r.2, code := .ok, whole := .ok, src := 0 })

/-- One line of a write of slot 188. -/
def regWriteLine (s : State) (line : Nat) (w : Line × BitVec 64) (code : Status) (bad dbg : Bool) : State × LineRes :=
  if code != .ok then (s, noLine code .ok 0)
  else if bad then (s, noLine .poison .ok 0)
  else match winOffset s line with
    | none => (s, noLine .poison .ok 0)
    | some o =>
      let r := writeRegLine s o w.1.data w.2 dbg
      (r.1, noLine (if r.2 then .poison else .ok) .ok 0)

/-- A request packet that slot 188 takes from its inbound queue (R506), answered. -/
def regRequest (s : State) (p : InPkt) : State :=
  let h := hd p.pkt
  let op := fOp h
  let dbg := fSrc h == 191
  if isRead op then
    let r := p.codes.zipIdx.foldl (fun (acc : State × List LineRes) (c, i) =>
      let x := regReadLine acc.1 ((fAddr h + i) % 2 ^ 46) c dbg
      (x.1, acc.2 ++ [x.2])) (s, [])
    sendRsp r.1 herdSlot (answerOf p.pkt r.2 .ok)
  else if isWrite op then
    let ls := writeLines op p.pkt
    let r := p.codes.zipIdx.foldl (fun (acc : State × List LineRes) (c, i) =>
      let x := regWriteLine acc.1 ((fAddr h + i) % 2 ^ 46) (ls.getD i (zeroLine, 0)) c (p.bad.getD i false) dbg
      (x.1, acc.2 ++ [x.2])) (s, [])
    winAnswered (sendRsp r.1 herdSlot (answerOf p.pkt r.2 .ok))
  else sendRsp s herdSlot (refuseAll p .poison)

/-! ### The rows of single registers -/

def atHerd (s t : State) : Host.Outcome State Fault Refusal := .next (if herdRuns s then t else s)

def execFabLock (v : Word) (s : State) : Host.Outcome State Fault Refusal := atHerd s (writeFab s 0x010 v)
def execFabWin (v : Word) (s : State) : Host.Outcome State Fault Refusal := atHerd s (winAnswered (writeFab s 0x018 v))
def execStwRing (r : RingId) (v : Word) (s : State) : Host.Outcome State Fault Refusal := atHerd s (writeRing s r v)
def execStwRingCtl (v : Word) (s : State) : Host.Outcome State Fault Refusal := atHerd s (writeRingCtl s v)
def execStwDbw (w : Fin 16) (v : Word) (s : State) : Host.Outcome State Fault Refusal := atHerd s (writeDbw s w v)
def execStwIrqMask (v : Word) (s : State) : Host.Outcome State Fault Refusal := atHerd s (writeIrqMask s v)
def execStwIrqCause (v : Word) (s : State) : Host.Outcome State Fault Refusal := atHerd s (writeIrqCause s v)
def execStwIntr (ring : Fin 6) (isVal : Bool) (v : Word) (s : State) : Host.Outcome State Fault Refusal :=
  atHerd s (writeIntr s ring isVal v)
def execCrkRearm (v : Word) (s : State) : Host.Outcome State Fault Refusal := atHerd s (writeCrk s 0x008 v)

/-- REGISTER_WRITE (R507): a masked write of the register that holds window offset `off`, in a packet of its own. -/
def execRegisterWrite (off : BitVec 16) (v : Word) (mask : BitVec 8) (s : State) : Host.Outcome State Fault Refusal :=
  atHerd s (if mask = 0xFF then winAnswered (writeReg s off.toNat v false) else s)

end Sys2Proof.Machine
end

