-- ==== Sys2Proof/Machine/TargetRows.lean ====
section
/-! DEFINITION. How packets leave the inbound queues of a target NI (R136, R149): to the endpoint, to the atomic unit
(R157), to the lock table (R170), or to the registers at slot 188 (R506). -/

namespace Sys2Proof.Machine

/-- The lines that a request is held to by R149; mail names none. -/
def namesLine (p : Packet) (line : Nat) : Bool :=
  let h := hd p
  if fOp h == opMsgMail then false
  else (List.range (max 1 (inLines p))).any (fun i => decide ((fAddr h + i) % 2 ^ 46 = line))

def linesOf (p : Packet) : List Nat :=
  let h := hd p
  if fOp h == opMsgMail then [] else (List.range (max 1 (inLines p))).map (fun i => (fAddr h + i) % 2 ^ 46)

/-- A run of a request that R296 withholds until an earlier one has been answered names a line. -/
def withheldLine (t : Taken) (line : Nat) : Bool :=
  t.kind == .request && t.rest.any (fun r =>
    (List.range r.2).any (fun i => decide ((fAddr (hd t.pkt) + r.1 + i) % 2 ^ 46 = line)))

/-- Next for its lines: no packet that became deliverable earlier waits for one of them, in the queue or in part withheld
from the endpoint, and no atomic is in progress on one (R149, R157). -/
def nextForLine (x : NI) (p : InPkt) : Bool :=
  (linesOf p.pkt).all (fun l =>
    x.inq.all (fun q => q.early || decide (p.stamp ≤ q.stamp) || !namesLine q.pkt l) &&
    x.taken.all (fun t => !withheldLine t l) && !atomOn x l)

/-- The next packet of a kind: Cream first, then in order of arrival (R136). -/
def nextInbound (x : NI) (kind : InPkt → Bool) : Option InPkt :=
  let c := x.inq.filter (fun p => !p.early && kind p && nextForLine x p)
  let oldest (l : List InPkt) : Option InPkt := l.foldl (fun acc p => match acc with
    | none => some p
    | some a => if p.arrived < a.arrived then some p else some a) none
  (oldest (c.filter (·.cream))).or (oldest c)

/-- The opcode of a queued packet. -/
abbrev inOp (p : InPkt) : BitVec 6 := fOp (hd p.pkt)

def leaveQueue (s : State) (n : Slot) (p : InPkt) : State :=
  updN s n (fun x => { x with inq := x.inq.filter (fun q => q.stamp != p.stamp) })

/-- The next packet of a kind leaves its queue, to `f`; slot 188's own rules come first, and its endpoint, the Herdsman,
takes what it is given (R103). -/
def takeInbound (s : State) (n : Slot) (kind : InPkt → Bool) (f : State → InPkt → State) : State :=
  match (if niRuns s n then nextInbound (nif s n) kind else none) with
  | none => s
  | some p =>
    let s := leaveQueue s n p
    if n == herdSlot then (if herdRuns s then
        regRequest (updN s n (fun x => { x with idle := 0, discarding := false })) p
      else sendRsp s n (refuseAll p .notReady)) else f s p

/-- INBOUND_OFFER (R146, R149, R296). -/
def execInboundOffer (n : Slot) (s : State) : Host.Outcome State Fault Refusal :=
  .next (takeInbound s n (fun p => !isAtomic (inOp p) && !isLock (inOp p)) (fun s p =>
    if !delivers (nif s n) n then sendRsp s n (refuseAll p .notReady)
    else if isRead (fOp (hd p.pkt)) then takeRead s n p
    else takeWrite s n p))

/-- An atomic that takes an entry of the atomic unit at once: its gate admitted it, and it is not canonical. -/
def needsEntry (s : State) (n : Slot) (p : InPkt) : Bool :=
  p.codes.headD .ok == .ok && judgeWrite s n (hd p.pkt) (fAddr (hd p.pkt)) == .ordinary

/-- ATOMIC_EXECUTE (R157, R184, R186): an ordinary atomic needs a free entry of the sixteen; a canonical one is judged
and staged without. -/
def execAtomicExecute (n : Slot) (s : State) : Host.Outcome State Fault Refusal :=
  let free := decide ((nif s n).atoms.length < 16)
  .next (takeInbound s n (fun p => isAtomic (inOp p) && (free || !delivers (nif s n) n || !needsEntry s n p)) (fun s p =>
      if !delivers (nif s n) n then sendRsp s n (refuseAll p .notReady) else takeAtomic s n p))

/-- The answer to the read or write-back of an atomic-unit entry. -/
def atomAnswer (s : State) (n : Slot) (kind : OfferKind) (line : Line) (st : Status) : State :=
  match (if takesAnswer s n then takeFirst (fun t => t.kind == kind) (nif s n).taken else none) with
  | none => s
  | some (t, rest) =>
    let st := takenStatus (some st) true
    answerWork (updN s n (fun x => { x with taken := rest })) n t st
      [{ line := line, code := if st == .ok then .ok else .poison, whole := .ok, src := 0 }]

/-- ATOMIC_READ_RETURN (R158). -/
def execAtomicReadReturn (n : Slot) (entry : Nat) (line : Line) (st : Status) (s : State) :
    Host.Outcome State Fault Refusal := .next (atomAnswer s n (.atomicRead entry) line st)

/-- ATOMIC_WRITEBACK_ACK (R157). -/
def execAtomicWritebackAck (n : Slot) (entry : Nat) (st : Status) (s : State) : Host.Outcome State Fault Refusal :=
  .next (atomAnswer s n (.atomicWrite entry) zeroLine st)

/-- A lock request at the table; a gate's refusal leaves the table untouched (R296). -/
def lockRow (s : State) (n : Slot) (op : BitVec 6) (f : State → Slot → Flit → State) : State :=
  takeInbound s n (fun p => inOp p == op) (fun s p =>
    let h := hd p.pkt
    let c := p.codes.headD .ok
    if c != .ok then sendRsp s n (rspBare h opLkResp c [c] 0) else f s n h)

/-- LOCK_TABLE_ACQUIRE (R170). -/
def execLockTableAcquire (n : Slot) (s : State) : Host.Outcome State Fault Refusal :=
  .next (lockRow s n opLkAcq lockAcquire)

/-- LOCK_TABLE_RELEASE (R170). -/
def execLockTableRelease (n : Slot) (s : State) : Host.Outcome State Fault Refusal :=
  .next (lockRow s n opLkRel lockRelease)

end Sys2Proof.Machine
end

