-- ==== Sys2Proof/Machine/Cfg.lean ====
section
/-! DEFINITION. Configuration sets (R328–R333), gate loads and swaps (R300–R304), and flow entries (R227): the commands
that write the units. -/

namespace Sys2Proof.Machine

/-! ### Items (R330) -/

inductive ItemKind where
  | router | ni | die
deriving DecidableEq, Repr

/-- Kind of unit, number of INDEX values, entry bytes. -/
structure ItemInfo where
  kind : ItemKind
  indices : Nat
  bytes : Nat
  port : Bool
  host : Bool
deriving DecidableEq, Repr

def itemInfo (item : Nat) : Option ItemInfo :=
  let r (n b : Nat) (p : Bool) : Option ItemInfo := some { kind := .router, indices := n, bytes := b, port := p, host := false }
  let i (n b : Nat) : Option ItemInfo := some { kind := .ni, indices := n, bytes := b, port := false, host := false }
  if item = itSpineChoice then r 96 1 false
  else if item = itDetourEn then r 4 1 false
  else if item = itEscWait then r 1 1 false
  else if item = itAgeN then r 1 1 true
  else if item = itOutSlots then r 128 1 true
  else if item = itGateList then r 64 2 true
  else if item = itGov then some { kind := .die, indices := 7, bytes := 2, port := false, host := false }
  else if item = itSprayEntry then i 8 8
  else if item = itTargetTable then i 128 1
  else if item = itRspOrder then i 3 1
  else if item = itAbandon then i 1 2
  else if item = itOrdGap then i 1 2
  else if item = itStoreLoss then i 1 2
  else if item = itLockLease then i 1 2
  else if item = itNiSlots then i 128 1
  else if item = itDefaultMap then i 2 1
  else if item = itMeterProfile then some { kind := .ni, indices := 64, bytes := 16, port := false, host := true }
  else if item = itBankMap then r 6 8 false
  else none

def within (lo hi v : Nat) : Option Nat := if lo ≤ v ∧ v ≤ hi then some v else none
def keep (mask v : Nat) : Option Nat := some (v &&& mask)

/-- An entry as it is stored: none where its value lies outside its range (R325); reserved fields read zero (R10). -/
def itemValue (item index v : Nat) : Option Nat :=
  if item = itSpineChoice ∨ item = itDetourEn then some (v % 2)
  else if item = itEscWait then within 0 63 v
  else if item = itAgeN then within 4 64 v
  else if item = itOutSlots then keep 0x8F v
  else if item = itGateList then keep 0xC3FF v
  else if item = itGov then
    if index = 0 then within 80 352 v else if index = 1 then within 0 63 v else within 0 255 v
  else if item = itSprayEntry then keep 0xFFFF0FFFFFFFFFFF v
  else if item = itRspOrder then within 0 1 v
  else if item = itAbandon then within 1 65535 v
  else if item = itOrdGap then within 16 4095 v
  else if item = itStoreLoss then within 16 65535 v
  else if item = itNiSlots then keep 0xC0 v
  else if item = itDefaultMap then keep 0x3F v
  else if item = itMeterProfile then keep 0xFFFFFFFFFFFF000003FFFFFFFFFF v
  else if item = itBankMap then some (v % 2 ^ 32)
  else some v

/-! ### What CFG_WRITE and CFG_READ address (R328) -/

/-- The fields of R328. -/
structure CfgArgs where
  set : Nat
  item : Nat
  unit : Nat
  port : Nat
  index : Nat
  count : Nat
  source : Nat
deriving DecidableEq, Repr

def cfgArgs (c : Cmd) : CfgArgs :=
  { set := dByte c.desc 8, item := dField c.desc 10 2, unit := dField c.desc 12 2, port := dByte c.desc 14,
    index := dField c.desc 16 2, count := dField c.desc 18 2, source := dField c.desc 24 8 }

/-- One entry's place: the unit, the number under which a set holds it, the output, the index. -/
structure CfgPlace where
  unit : Option TabUnit
  num : Nat
  port : Nat
  index : Nat
deriving DecidableEq, Repr

/-- The output of a place is there (R21); every place of an item that is not held per output is. -/
def placePresent (p : CfgPlace) : Bool :=
  match p.unit with
  | some (.router r) => hasPort r (Fin.ofNat 11 p.port)
  | _ => true

def outPorts (r : RouterId) : List Nat := ((List.range 10).filter (fun p => hasPort r (Fin.ofNat 11 p)))

/-- The units that hold bank maps. DESIGN CHOICE: routers stand before NIs in the unit order of R331. -/
def bankUnits : List TabUnit := (List.finRange 96).map TabUnit.router ++ (List.finRange 192).map TabUnit.ni

/-- The units that UNIT names for an item, at one index; a BANK_MAP is held where its table is (R444). -/
def unitsFor (a : CfgArgs) (i : ItemInfo) (index : Nat) : List (Option TabUnit) :=
  if a.item = itBankMap then
    (bankUnits.filter (fun u => holdsTable u index && (a.unit == 0xFFFF || a.unit == (match u with
      | .router r => r.val
      | .ni n => n.val)))).map some
  else match i.kind with
    | .die => [none]
    | .router => if a.unit = 0xFFFF then (List.finRange 96).map (fun r => some (.router r))
      else if h : a.unit < 96 then [some (.router ⟨a.unit, h⟩)] else []
    | .ni =>
      let all := if i.host then (List.finRange 192).filter (fun n => isHostLink n.val) else List.finRange 192
      if a.unit = 0xFFFF then all.map (fun n => some (.ni n))
      else (all.filter (fun n => n.val = a.unit)).map (fun n => some (.ni n))

/-- The outputs that PORT names: those present for 0xFF, or one of R21's, present or not. -/
def portsFor (a : CfgArgs) (i : ItemInfo) (u : Option TabUnit) : List Nat :=
  if !i.port then [0]
  else match u with
    | some (.router r) => if a.port = 0xFF then outPorts r else if a.port ≤ 10 then [a.port] else []
    | _ => []

def placeNum (u : Option TabUnit) (bank : Bool) : Nat :=
  match u with
  | none => 0
  | some (.router r) => r.val
  | some (.ni n) => if bank then 256 + n.val else n.val

/-- Every entry addressed, in the order of R331, with the number of the value it takes. -/
def cfgPlaces (a : CfgArgs) (i : ItemInfo) : List (CfgPlace × Nat) :=
  let bank := decide (a.item = itBankMap)
  let at_ (u : Option TabUnit) (p j : Nat) : CfgPlace × Nat :=
    ({ unit := u, num := placeNum u bank, port := p, index := a.index + j }, j)
  if bank then
    bankUnits.flatMap (fun u => ((List.range a.count).filter (fun j =>
      (unitsFor a i (a.index + j)).contains (some u))).map (at_ (some u) 0))
  else (unitsFor a i a.index).flatMap (fun u => (portsFor a i u).flatMap (fun p => (List.range a.count).map (at_ u p)))

/-- A named field outside its stated range (R325). -/
def cfgMalformed (a : CfgArgs) (i : ItemInfo) (inline : Bool) : Bool :=
  let lo := if a.item = itSprayEntry then 1 else 0
  decide (1 < a.set) || decide (a.count = 0) || decide (a.index < lo) || decide (i.indices < a.index + a.count) ||
  (cfgPlaces a i).isEmpty ||
  (a.item == itBankMap && (List.range a.count).any (fun j => (unitsFor a i (a.index + j)).isEmpty)) ||
  (inline && a.source == 0 && decide (32 < a.count * i.bytes))

/-- The sector through which a place is reached; a die item is the Herdsman's own. -/
def placeSector (p : CfgPlace) : Option SectorId := p.unit.map (fun u => sectorOf (tabRouter u))
def placeReached (s : State) (p : CfgPlace) : Bool := (placeSector p).all (sectorOk s)
/-- DETAIL bits [7:0]: the sectors that a list of places misses. -/
def missedOf (s : State) (ps : List (CfgPlace × Nat)) : BitVec 8 :=
  (List.finRange 8).foldl (fun m n =>
    if !sectorOk s n && ps.any (fun p => placeSector p.1 == some n) then m ||| secBit n else m) 0

def markDirty (s : State) (m : BitVec 8) : State :=
  updHerd s (fun h => { h with rounds := tmap h.rounds (fun n x => if m.getLsbD n.val then { x with dirty := true } else x) })

/-! ### Data blocks (R326) -/

/-- Lines of a block needed are all good. -/
def blockGood (b : Block) (n : Nat) : Bool := decide (n ≤ b.length) && (b.take n).all (fun l => l.state == .good)
/-- Entry `j` of packed entries of `w` bytes, from a block or from the 32 inline bytes (R328). -/
def packedEntry (c : Cmd) (b : Block) (inline : Bool) (w j : Nat) : Nat :=
  if inline then dField c.desc (32 + j * w) w
  else match b[j * w / 64]? with
    | some l => field l.data (8 * (j * w % 64)) (8 * w)
    | none => 0

/-! ### CFG_WRITE (R331, R232, R444) -/

/-- A gate list as a set holds it (R229). -/
def gateListIn (s : State) (set : Bool) (r p cls : Nat) : List (Nat × Nat × Bool) :=
  (List.range 16).filterMap (fun i =>
    let w : BitVec 16 := BitVec.ofNat 16 (cfgGet s set itGateList r p (cls * 16 + i))
    if w.getLsbD 15 then some (field w 0 10, i, w.getLsbD 14) else none)

/-- R232: an open run of at least 16 cycles, across the epoch boundary too; one starts at some entry's START, or the
list is always open. -/
def openRun (l : List (Nat × Nat × Bool)) : Bool :=
  l.isEmpty || l.any (fun e => (List.range 16).all (fun i => gateOpenIn l ((e.1 + i) % 1024)))

/-- R232 over the lists addressed; one of an absent output has no effect (R21). -/
def gateListsOk (s : State) (set : Bool) (ps : List (CfgPlace × Nat)) : Bool :=
  ps.all (fun p => !placePresent p.1 || openRun (gateListIn s set p.1.num p.1.port (p.1.index / 16)))

/-- The first entry whose value is out of range, or whose BANK_MAP is not valid. -/
def firstBad (s : State) (a : CfgArgs) (ps : List (CfgPlace × Nat)) (val : Nat → Nat) : Option Nat :=
  ((List.range a.count).find? (fun j => (itemValue a.item (a.index + j) (val j)).isNone ||
    (a.item == itBankMap && ps.any (fun p => p.2 == j && (match p.1.unit with
      | some u => !mapValid (bankMapOf s (activeSet s u) u p.1.index) (val j % 2 ^ 32)
      | none => false)))))

/-- Write the entries addressed into a set. -/
def cfgWriteAll (s : State) (set : Bool) (item : Nat) (ps : List (CfgPlace × Nat)) (val : Nat → Nat) : State :=
  ps.foldl (fun s p => cfgPut s set item p.1.num p.1.port p.1.index
    ((itemValue item p.1.index (val p.2)).getD 0)) s

/-- A BANK_MAP of the inactive set was written (R445). -/
def mapsWritten (s : State) (item : Nat) (ps : List (CfgPlace × Nat)) : State :=
  if item = itBankMap then
    ps.foldl (fun s p => match p.1.unit with
      | some u => mapWritten s u p.1.index
      | none => s) s
  else s

/-- DETAIL of a CFG_WRITE that is malformed, whose block cannot be read, or one of whose values is out of range
(R325, R326). -/
def cfgWriteFault (s : State) (c : Cmd) (block : Block) (a : CfgArgs) (i : ItemInfo) : Option (BitVec 16) :=
  let inline := a.source == 0
  if cfgMalformed a i true || addrBad a.source then some 0xFFFF
  else if !inline && !blockGood block ((a.count * i.bytes + 63) / 64) then some 0xFFFC
  else (firstBad s a (cfgPlaces a i) (packedEntry c block inline i.bytes)).map (BitVec.ofNat 16)

/-- CFG_WRITE (R331, R13). -/
def cfgWriteCmd (s : State) (c : Cmd) (block : Block) : State :=
  let a := cfgArgs c
  let set := a.set == 1
  let fin (s : State) (st : Status) (d : BitVec 16) : State := endCmd s c.ring c.index st d
  if decide (a.set ≤ 1) && set == s.herd.active then fin s .staleSet 0
  else if decide (a.set ≤ 1) && s.herd.swap.any (fun w => w.toB == set) then fin s .notReady 0
  else match itemInfo a.item with
  | none => fin s .poison 0xFFFF
  | some i =>
    let ps := cfgPlaces a i
    let m := missedOf s ps
    match cfgWriteFault s c block a i with
    | some d => if m = 0 then fin s .poison d else fin s .notReady (m.setWidth 16)
    | none =>
      let val := packedEntry c block (a.source == 0) i.bytes
      let here := ps.filter (fun p => placeReached s p.1)
      let t := mapsWritten (cfgWriteAll s set a.item here val) a.item here
      if a.item == itGateList && !gateListsOk t set here then fin s .notReady 0
      else if m = 0 then fin t .ok 0
      else fin (markDirty t m) .notReady (m.setWidth 16)

def execCfgWrite (ring : CmdRing) (block : Block) (s : State) : Host.Outcome State Fault Refusal :=
  .next (match startedOp s ring 0x01 with
    | some c => cfgWriteCmd s c block
    | none => s)

/-! ### CFG_COPY (R331) -/

/-- The set that is active at the unit of an entry (R333); a die item follows the Herdsman. -/
def keyActive (s : State) (key : Nat) : Bool :=
  let item := key / 2 ^ 32
  let unit := key / 2 ^ 20 % 4096
  if item = itGov then s.herd.active
  else if item = itBankMap ∧ 256 ≤ unit then activeSet s (.ni (Fin.ofNat 192 (unit - 256)))
  else if item < 0x10 ∨ item = itBankMap then activeSet s (.router (Fin.ofNat 96 unit))
  else activeSet s (.ni (Fin.ofNat 192 unit))

/-- Every unit's active set, in both sets. -/
def copySets (s : State) : State :=
  let a := s.cfgA.filter (fun e => !keyActive s e.1)
  let m := (s.cfgB.filter (fun e => keyActive s e.1)).foldl (fun m e => sput cfgBoot e.1 e.2 m) a
  updChurn { s with cfgA := m, cfgB := m } (fun c => { c with copying := [], copied := [] })

/-- CFG_COPY (R331). Every unit copies at once; the row stewards acknowledge by the next tick. A second CFG_COPY waits for
them. -/
def execCfgCopy (ring : CmdRing) (s : State) : Host.Outcome State Fault Refusal :=
  .next (match startedOp s ring 0x02 with
    | none => s
    | some c =>
      if s.herd.copy.isSome then s
      else if s.herd.swap.isSome || sectorsMissed s != 0 then
        endCmd s ring c.index .notReady ((sectorsMissed s).setWidth 16)
      else updHerd (ranCmd (copySets s) ring c.index) (fun h => { h with
        copy := some { ring := ring, index := c.index } }))

/-- The end of a CFG_COPY at the Herdsman's next tick: the sectors that are reachable have acknowledged (R331). -/
def copyTick (s : State) : State :=
  match s.herd.copy with
  | none => s
  | some w =>
    let m := sectorsMissed s
    let t := updHerd s (fun h => { h with
      copy := none, rounds := tmap h.rounds (fun n x => { x with dirty := m.getLsbD n.val }) })
    endCmd t w.ring w.index (if m = 0 then .ok else .notReady) (m.setWidth 16)

/-! ### CFG_SWAP (R332, R333, R446) -/

def sectorRouters (n : SectorId) : List RouterId := (List.finRange 96).filter (fun r => sectorOf r == n)
def sectorSlots (n : SectorId) : List Slot := (List.finRange 192).filter (fun o => slotSector o == n)

/-- The row stewards that have acknowledged a swap: those that had, and those reachable all of whose agents are armed. -/
def swapAcks (s : State) (w : Swap) : BitVec 8 :=
  (List.finRange 8).foldl (fun m n =>
    if sectorOk s n && (sectorRouters n).all (fun r => (rtr s r).armed == some (w.tick, w.toB)) then m ||| secBit n
    else m) w.acked

/-- The agents that may arm a pending swap arm themselves, and their row stewards acknowledge. -/
def armAgents (s : State) : State :=
  match s.herd.swap with
  | none => s
  | some w =>
    let s := updAllR s (fun r x =>
      if x.armed.isNone && routerReached s r && agentMayArm s r then { x with armed := some (w.tick, w.toB) } else x)
    updHerd s (fun h => { h with swap := some { w with acked := swapAcks s w } })

/-- All eight row stewards have acknowledged; a sector lost since changes nothing (R37). -/
def swapAcked (w : Swap) : Bool := w.acked == 0xFF#8

/-- CFG_SWAP (R332, R13). -/
def execCfgSwap (ring : CmdRing) (s : State) : Host.Outcome State Fault Refusal :=
  .next (match startedOp s ring 0x03 with
    | none => s
    | some c =>
      let t := dField c.desc 8 6
      let to_ := dByte c.desc 14
      let toB := to_ == 1
      if (decide (to_ ≤ 1) && toB == s.herd.active) || decide (t < s.herd.epoch + 4) then
        endCmd s ring c.index .staleSet 0
      else if s.herd.swap.isSome || sectorsMissed s != 0 || s.herd.rounds.toList.any (·.dirty) then
        endCmd s ring c.index .notReady 0
      else if 1 < to_ then endCmd s ring c.index .poison 0xFFFF
      else
        armAgents (updHerd (ranCmd s ring c.index) (fun h => { h with
          swap := some { tick := t, toB := toB, ring := ring, index := c.index, acked := 0 } })))

/-- The cancellation at tick T − 2 (R332). -/
def swapCancel (s : State) : State :=
  match s.herd.swap with
  | some w =>
    if w.tick ≤ s.herd.epoch + 2 && !swapAcked w && decide (s.herd.epoch < w.tick) then
      let s := updAllR s (fun r x => if routerReached s r then { x with armed := none } else x)
      let s := updHerd s (fun h => { h with
        swap := none
        rounds := tmap h.rounds (fun _ x => if x.reachable then x else { x with split := some w.tick }) })
      endCmd s w.ring w.index .notReady 0
    else s
  | none => s

/-- CFG_SWAP_CANCEL (R332): no swap stands that was not acknowledged by tick T − 2. -/
def execCfgSwapCancel (s : State) : Host.Outcome State Fault Refusal :=
  .next (if herdRuns s && s.herd.swap.any (fun w => w.tick == s.herd.epoch + 2) then swapCancel s else s)

/-- The Herdsman's arrival of tick T: a swap that stands completes (R332). -/
def swapDone (s : State) : State :=
  match s.herd.swap with
  | some w =>
    if w.tick ≤ s.herd.epoch then
      endCmd (updHerd s (fun h => { h with active := w.toB, swap := none })) w.ring w.index .ok 0
        (BitVec.ofNat 320 w.tick)
    else s
  | none => s

/-- The words of a unit's configuration that were known as bad are no longer those in force. -/
def freshConfig (s : State) (r : RouterId) : State :=
  updChurn s (fun c => { c with
    bad := c.bad.filter (fun b => !(decide (tabRouter b.1 = r) && (match b.2.2 with
      | .cfgItem _ _ _ | .sprayEntry _ | .targetTable _ | .defaultMap => true
      | _ => false))) })

/-- A waiting head under a new ESC_WAIT: its count carries across the swap, and is compared with the new value (R93). -/
def recheckEsc (now wait : Nat) (x : Router) : Router :=
  { x with ins := tmap x.ins (fun _ i => { i with
      buf := tmap i.buf (fun _ l => match l with
        | b :: rest => { b with esc := b.esc && decide (b.since + wait ≤ now) } :: rest
        | [] => []) }) }

/-- A router and its two NIs change set where a swap of theirs is due (R333): the outputs' ageing counts restart (R93). -/
def swapApply (s : State) (r : RouterId) : State :=
  match (rtr s r).armed with
  | some (t, toB) =>
    if t ≤ epochR s r then
      let s := freshConfig (copiesSwapped (updR s r (fun x => { x with
        active := toB, armed := none, outs := tmap x.outs (fun _ o => { o with age := 0 }) })) r) r
      let s := updR s r (recheckEsc (timeR s r 0) (cfgR s r itEscWait 0 0))
      ([slotAt r 0, slotAt r 1]).foldl (fun s n => resumeStore (refreshOrder s n) n) s
    else s
  | none => s

/-- CFG_SWAP_APPLY (R333): a router and its two NIs at their own tick T. -/
def execCfgSwapApply (r : RouterId) (s : State) : Host.Outcome State Fault Refusal :=
  .next (if routerRuns s r then swapApply s r else s)

/-! ### CFG_READ (R331) -/

/-- Bytes of a number, least significant first. -/
def bytesOf (v w : Nat) : List Nat := (List.range w).map (fun i => v / 256 ^ i % 256)
def natOfBytes (l : List Nat) : Nat := l.foldr (fun b n => b + 256 * n) 0

/-- Lines of packed bytes, from a line address: the last under a mask of its bytes. -/
def packLines (s : State) (use : MemUse) : Nat → Nat → List Nat → List MemAcc
  | 0, _, _ => []
  | fuel + 1, line, bs =>
    if bs.isEmpty then []
    else
      let d : BitVec 512 := BitVec.ofNat 512 (natOfBytes (bs.take 64))
      if bs.length < 64 then
        [linesAcc s use opWrPartNp line [BitVec.ofNat 512 (2 ^ bs.length - 1), d]]
      else fullLine s use line d :: packLines s use fuel (line + 1) (bs.drop 64)

/-- The bytes that a CFG_READ returns, those of a sector that cannot be reached zero. -/
def cfgBytes (s : State) (a : CfgArgs) (i : ItemInfo) : List Nat :=
  (cfgPlaces a i).flatMap (fun p =>
    bytesOf (if placeReached s p.1 then cfgGet s (a.set == 1) a.item p.1.num p.1.port p.1.index else 0) i.bytes)

/-- CFG_READ (R331, R13): it ends when memory has answered its writes. -/
def execCfgRead (ring : CmdRing) (s : State) : Host.Outcome State Fault Refusal :=
  .next (match startedOp s ring 0x04 with
    | none => s
    | some c =>
      let a := cfgArgs c
      match itemInfo a.item with
      | none => endCmd s ring c.index .poison 0xFFFF
      | some i =>
        let m := missedOf s (cfgPlaces a i)
        let st : Status := if m = 0 then .ok else .notReady
        if cfgMalformed a i false || addrBad a.source then
          (if m = 0 then endCmd s ring c.index .poison 0xFFFF else endCmd s ring c.index .notReady (m.setWidth 16))
        else
          let bs := cfgBytes s a i
          memWrites (ranCmdAs s ring c.index (st, m.setWidth 16, 0))
            (packLines s (.cmd ring c.index) (bs.length + 1) (a.source / 64) bs))

/-! ### Gate commands (R300–R303, R327) -/

/-- End a gate command with the GENs of R302, which the Herdsman keeps. -/
def endGate (s : State) (c : Cmd) (n : Slot) (st : Status) (detail : BitVec 16) : State :=
  let g := gensNow s n
  endCmd (updHerd s (fun h => { h with gens2 := tupd h.gens2 n (fun _ => g) })) c.ring c.index st detail (gensResult g)

/-- Reserved fields of a region and of a control word (R284, R285). -/
def regionWords (lo hi : Word) : Word × Word := (setField lo 40 13 0, setField hi 40 8 0)
def controlWord (w : Word) : Word := setField (setField w 0 46 0) 32 14 0

/-- Image `j` of a GATE_LOAD. -/
def gateImage (b : Block) (j : Nat) : Word × Word :=
  match b[j / 4]? with
  | some l => (bits l.data (128 * (j % 4)) 64, bits l.data (128 * (j % 4) + 64) 64)
  | none => (0, 0)

/-- Write region `i`, or at 32 the control word, of an NI's set. -/
def putGate (s : State) (n : Slot) (set : Fin 2) (i : Nat) (w : Word × Word) : State :=
  if h : i < 32 then
    clearBad (updN s n (fun x => { x with
      gates := tupd x.gates set (fun g => { g with regions := tupd g.regions ⟨i, h⟩ (fun _ => regionWords w.1 w.2) })
      gateEcc := x.gateEcc.filter (· != (set, ⟨i, h⟩)) })) (.ni n) (.gateRegion (set == 1) ⟨i, h⟩)
  else
    clearBad (updN s n (fun x => { x with
      gates := tupd x.gates set (fun g => { g with ctl := controlWord w.1 }) })) (.ni n) (.gateCtl (set == 1))

def bumpGate (s : State) (n : Slot) (set : Fin 2) : State :=
  updN s n (fun x => { x with gates := tupd x.gates set (fun g => { g with gen := g.gen + 1 }) })

/-- GATE_LOAD (R301, R303, R13). -/
def execGateLoad (ring : CmdRing) (block : Block) (s : State) : Host.Outcome State Fault Refusal :=
  .next (match startedOp s ring 0x08 with
    | none => s
    | some c =>
      let slot := dField c.desc 8 2
      let first := dByte c.desc 10
      let count := dByte c.desc 11
      let gen := dField c.desc 12 2
      if h : slot < 192 then
        let n : Slot := ⟨slot, h⟩
        let set := loadSet (nif s n) n
        if !niReached s n then endGate s c n .notReady 0
        else if (tget (nif s n).gates set).gen.toNat ≠ gen then endGate s c n .staleSet 0
        else if first > 32 ∨ count = 0 ∨ 33 < first + count ∨ addrBad (dField c.desc 16 8) then
          endGate s c n .poison 0xFFFF
        else
          if !blockGood block ((count * 16 + 63) / 64) then endGate s c n .poison 0xFFFC
          else
            let t := (List.range count).foldl (fun s j => putGate s n set (first + j) (gateImage block j)) s
            let t := bumpGate t n set
            endGate (if hasOneSet n then resumeStore t n else t) c n .ok 0
      else endCmd s ring c.index .poison 0xFFFF)

/-- GATE_SWAP (R300, R301). -/
def execGateSwap (ring : CmdRing) (s : State) : Host.Outcome State Fault Refusal :=
  .next (match startedOp s ring 0x09 with
    | none => s
    | some c =>
      let slot := dField c.desc 8 2
      if h : slot < 192 then
        let n : Slot := ⟨slot, h⟩
        if hasOneSet n || !niReached s n then endGate s c n .notReady 0
        else
          let set := loadSet (nif s n) n
          if (tget (nif s n).gates set).gen.toNat ≠ dField c.desc 12 2 then endGate s c n .staleSet 0
          else
            let t := bumpGate (updN s n (fun x => { x with gateActive := set })) n set
            endGate (resumeStore t n) c n .ok 0
      else endCmd s ring c.index .poison 0xFFFF)

/-- GATE_FENCE (R303). -/
def execGateFence (ring : CmdRing) (s : State) : Host.Outcome State Fault Refusal :=
  .next (match startedOp s ring 0x0A with
    | none => s
    | some c =>
      let slot := dField c.desc 8 2
      if h : slot < 192 then
        let n : Slot := ⟨slot, h⟩
        endGate s c n (if niReached s n then .ok else .notReady) 0
      else endCmd s ring c.index .poison 0xFFFF)

/-! ### METER_PROG (R227, R327) -/

/-- Entry `j` of a METER_PROG. -/
def meterEntry (s : State) (c : Cmd) (block : Block) (j : Nat) : MeterWrite :=
  { tenant := Fin.ofNat 4096 (dField c.desc 10 2 + j), w0 := (gateImage block j).1, fill := (dByte c.desc 9) % 2 == 1
    epoch := epochN s (Fin.ofNat 192 (dByte c.desc 8)), cmd := some (c.ring, c.index) }

/-- METER_PROG (R13): the entries are written at the NI and wait for its next tick. -/
def execMeterProg (ring : CmdRing) (block : Block) (s : State) : Host.Outcome State Fault Refusal :=
  .next (match startedOp s ring 0x0C with
    | none => s
    | some c =>
      let slot := dByte c.desc 8
      let first := dField c.desc 10 2
      let count := dField c.desc 12 2
      let n : Slot := Fin.ofNat 192 slot
      if slot < 16 ∧ !niReached s n then endCmd s ring c.index .notReady 0
      else if 16 ≤ slot ∨ 4096 ≤ first ∨ count = 0 ∨ 4096 < first + count ∨ addrBad (dField c.desc 16 8) then
        endCmd s ring c.index .poison 0xFFFF
      else if !blockGood block ((count * 16 + 63) / 64) then endCmd s ring c.index .poison 0xFFFC
      else ranCmd (updN s n (fun x => { x with
        meterNext := x.meterNext ++ (List.range count).map (meterEntry s c block) })) ring c.index)

/-- The METER_PROG commands none of whose entries still waits for an NI's tick. -/
def meterDone (s : State) (n : Slot) : List Cmd :=
  s.herd.started.filter (fun c => cmdOp c == 0x0C && c.ran && c.result.isNone && dByte c.desc 8 == n.val &&
    !(nif s n).meterNext.any (fun w => w.cmd == some (c.ring, c.index)))

/-- Flow entries at an NI's tick (R227): those written before it are in force, and the commands that wrote them end. -/
def meterTick (s : State) (n : Slot) : State :=
  let s := meterApply s n
  (meterDone s n).foldl (fun s c => endCmd s c.ring c.index .ok 0) s

/-- METER_ENTRY_APPLY (R227): the NI's first tick after the write. -/
def execMeterEntryApply (n : Slot) (s : State) : Host.Outcome State Fault Refusal :=
  .next (if niRuns s n && !(nif s n).meterNext.isEmpty then resumeStore (meterTick s n) n else s)

end Sys2Proof.Machine
end

