-- ==== Sys2Proof/Machine/Commands.lean ====
section
/-! DEFINITION. The commands of the rings that are left (R327): NOP, CROCK_DRAIN (R474), LINK_CTL (R329), CURD_SETUP
(R178–R180, R527), MSG_SEND and RING_MOVE (R341–R343). -/

namespace Sys2Proof.Machine

/-- NOP (R327). -/
def execNop (ring : CmdRing) (s : State) : Host.Outcome State Fault Refusal :=
  .next (match startedOp s ring 0x00 with
    | some c => endCmd s ring c.index .ok 0
    | none => s)

/-! ### CROCK_DRAIN (R474) -/

/-- The valid entries, oldest first. -/
def crockValids (c : Crock) : List Nat :=
  ((List.range 4096).map (fun i => (c.next + i) % 4096)).filter (crockValid c)

/-- The 32-byte record of an entry. -/
def crockRecord (s : State) (i : Nat) : BitVec 256 :=
  let c := s.crock
  let bad (hi : Bool) : Bool := wordBad s (.ni herdSlot) (.crockWord (Fin.ofNat 4096 i) hi)
  let flags := (bad false).toNat + 2 * (bad true).toNat + 8 * (sget (fun _ => false) c.post i).toNat +
    16 * (crockIsCont c i).toNat
  let w : BitVec 256 := (crockGet c i).setWidth 256
  setField (setField w 128 16 i) 144 8 flags

/-- The lines of a drain, each with the entries that it holds. -/
def drainLines (s : State) : List Nat → List (BitVec 512 × List Nat)
  | [] => []
  | [i] => [((crockRecord s i).setWidth 512, [i])]
  | i :: j :: rest => ((crockRecord s j ++ crockRecord s i : BitVec 512), [i, j]) :: drainLines s rest

/-- The writes of a drain, each after the answer to the one before it. -/
def drainWrites (s : State) (ring : CmdRing) (index line : Nat) : Option MemUse → List (BitVec 512 × List Nat) →
    List MemAcc
  | _, [] => []
  | prev, l :: ls =>
    let use : MemUse := .drain ring index l.2
    { fullLine s use line l.1 with after := prev } :: drainWrites s ring index (line + 1) (some use) ls

/-- CROCK_DRAIN (R474): the records of the entries go to memory, line by line. -/
def execCrockDrain (ring : CmdRing) (s : State) : Host.Outcome State Fault Refusal :=
  .next (match startedOp s ring 0x15 with
    | none => s
    | some c =>
      let n := dField c.desc 8 2
      let dest := dField c.desc 16 8
      if 4096 < n ∨ addrBad dest then endCmd s ring c.index .poison 0xFFFF
      else
        let all := crockValids s.crock
        match drainLines s (if n = 0 then all else all.take n) with
        | [] => endCmd s ring c.index .ok 0 (drainResult s.crock 0)
        | ls => memWrites (ranCmd s ring c.index) (drainWrites s ring c.index (dest / 64) none ls))

/-! ### LINK_CTL (R329) -/

/-- A link end that the Herdsman reaches. -/
def endReached (s : State) (e : LinkEnd) : Bool := routerReached s (hubAt e) && endRuns s e

/-- An item of a LINK_CTL that its mask writes lies outside its range. -/
def linkCtlBad (d : BitVec 512) : Bool :=
  let m := dByte d 9
  let on (b : Nat) : Bool := m.testBit b
  let lock := dField d 12 2
  (on 2 && (lock == 0 || decide (1000 < lock))) || (on 3 && dByte d 14 == 0) ||
  (on 4 && (dByte d 15 == 0 || decide (64 < dByte d 15)))

/-- The items whose mask bit is set, written at both ends (R277). -/
def writeLinkItems (s : State) (l : LinkId) (d : BitVec 512) : State :=
  let on (b : Nat) : Bool := (dByte d 9).testBit b
  (bothEnds l).foldl (fun s e => updE s e (fun x => { x with
    en := if on 0 then (dByte d 10).testBit 0 else x.en
    compress := if on 1 then (dByte d 11).testBit (e.val % 2) else x.compress
    lockLoss := if on 2 then dField d 12 2 else x.lockLoss
    laneErrMax := if on 3 then dByte d 14 else x.laneErrMax
    returnWait := if on 4 then dByte d 15 else x.returnWait })) s

/-- What a LINK_CTL does when both ends are reached (R276, R277). -/
def linkCtl (s : State) (l : LinkId) (d : BitVec 512) : State :=
  let t := writeLinkItems s l d
  let t := if (dByte d 9).testBit 0 then
      (if !(dByte d 10).testBit 0 then linkEnOff t l
       else if trainModes t.aon.mode then (bothEnds l).foldl startTraining t
       else t)
    else t
  if (dByte d 9).testBit 5 then (bothEnds l).foldl startRetrain t else t

/-- LINK_CTL (R329, R13). -/
def execLinkCtl (ring : CmdRing) (s : State) : Host.Outcome State Fault Refusal :=
  .next (match startedOp s ring 0x18 with
    | none => s
    | some c =>
      let l : LinkId := Fin.ofNat 6 (dByte c.desc 8)
      let ok := (bothEnds l).all (endReached s)
      if 5 < dByte c.desc 8 ∨ (ok ∧ linkCtlBad c.desc) then endCmd s ring c.index .poison 0xFFFF
      else
        let t := if ok then linkCtl s l c.desc else s
        let word (e : LinkEnd) : Nat := if endReached s e then (linkStatus (spn t e)).toNat else 0
        endCmd t ring c.index (if ok then .ok else .notReady) 0 (BitVec.ofNat 320
          (word (Fin.ofNat 12 (2 * l.val)) + word (Fin.ofNat 12 (2 * l.val + 1)) * 2 ^ 64)))

/-! ### CURD_SETUP (R178–R180, R527) -/

/-- The block of R527. -/
structure CurdItems where
  members : BitVec 192
  targets : BitVec 192
  start : Nat
  notify : Bool
  nreg : Nat
  vatSlot : Nat
  vatBase : Nat
  vatSlice : Nat
deriving DecidableEq, Repr

/-- Bits 188–191 of a mask are ignored (R179). -/
def maskNis (m : BitVec 192) : BitVec 192 := m &&& BitVec.ofNat 192 (2 ^ 188 - 1)

def curdItems (d : BitVec 512) : CurdItems :=
  { members := maskNis (bits d 0 192), targets := maskNis (bits d 192 192), start := field d 384 48,
    notify := d.getLsbD 432, nreg := field d 433 7, vatSlot := field d 440 8, vatBase := field d 448 40,
    vatSlice := field d 496 16 }

def blockLine (b : Block) (i : Nat) : BitVec 512 := ((b[i]?).map (·.data)).getD 0
def regionWord (b : Block) (k : Nat) : Word := lineWord (blockLine b (1 + k / 8)) (k % 8)

/-- DETAIL of the first failing word of a block. -/
def curdBlockBad (it : CurdItems) (b : Block) (g : Nat) : Option Nat :=
  if it.vatSlot < 16 ∨ 79 < it.vatSlot ∨ 64 < it.nreg then some 6
  else ((List.range it.nreg).find? (fun k =>
    !(regionWord b k).getLsbD 63 || field (regionWord b k) 58 5 != g)).map (8 + ·)

def spans (a b : Nat × Nat) : Bool := decide (a.1 < b.1 + b.2) && decide (b.1 < a.1 + a.2)
def regionSpan (r : CRegion) : Nat × Nat := (r.base, r.size)

/-- R178: entries that overlap each other or a valid one, or a Vat that overlaps any of them. -/
def curdOverlaps (s : State) (it : CurdItems) (rs : List CRegion) : Bool :=
  let old := (cRegions s).map regionSpan
  let new := rs.map regionSpan
  let vat : Nat × Nat := (it.vatBase * 4096, (maskSlots it.targets).length * it.vatSlice * 128)
  let clash (a : Nat × Nat) (l : List (Nat × Nat)) : Bool := l.any (spans a)
  new.any (fun a => clash a old) ||
  (List.range new.length).any (fun i => clash (new.getD i (0, 0)) (new.drop (i + 1))) ||
  (decide (0 < vat.2) && clash vat (old ++ new))

/-- Load words into the free entries of the region table, in ascending order. -/
def loadRegions (t : Vector Word 64) (ws : List Word) : Vector Word 64 :=
  ((List.finRange 64).foldl (fun (acc : Vector Word 64 × List Word) i =>
    if (tget acc.1 i).getLsbD 63 then acc
    else match acc.2 with
      | [] => acc
      | w :: rest => (tupd acc.1 i (fun _ => setField w 0 12 0), rest)) (t, ws)).1

def freeRegions (s : State) : Nat := (s.herd.regions.toList.filter (fun w => !w.getLsbD 63)).length

/-- An NI's state for a group that is enabled. -/
def niGroupOf (it : CurdItems) (n : Slot) : NiGroup :=
  { NiGroup.reset with
    state := .active, member := it.members.getLsbD n.val, target := it.targets.getLsbD n.val
    k := it.start, cm := it.start, ct := it.start, through := it.start
    vatSlot := it.vatSlot, vatBase := it.vatBase, vatSlice := it.vatSlice
    rank := ((maskSlots it.targets).takeWhile (fun m => decide (m.val < n.val))).length }

/-- R180: load the items and regions; everything starts from START. -/
def enableGroup (s : State) (g : GroupId) (it : CurdItems) (ws : List Word) : State :=
  let s := updCo s g (fun _ => { CoGroup.reset with
    state := .active, members := it.members, targets := it.targets, start := it.start, vatSlot := it.vatSlot
    vatBase := it.vatBase, vatSlice := it.vatSlice, notify := it.notify, c := it.start
    ks := tabAll 192 it.start })
  let s := updHerd s (fun h => { h with regions := loadRegions h.regions ws })
  updAllN s (fun n x =>
    if it.members.getLsbD n.val || it.targets.getLsbD n.val then
      { x with groups := tupd x.groups g (fun _ => niGroupOf it n), stage := x.stage.filter (fun e => e.group != g) }
    else x)

/-- An enable, or a change of a DISABLED group (R180): OVERLAP stands above POISON (R13). DESIGN CHOICE: an enable of a
group that is ACTIVE or FAILED ends NOT_READY, as a change of it does, before its block is judged; and one that names a
member or target in an unreachable sector ends NOT_READY, with nothing loaded. -/
def curdEnable (s : State) (c : Cmd) (block : Block) : State :=
  let gn := dByte c.desc 8
  let fin (s : State) (st : Status) (d : BitVec 16) : State := endCmd s c.ring c.index st d
  if 32 ≤ gn then fin s .poison 0xFFFF
  else
    let g : GroupId := Fin.ofNat 32 gn
    let it := curdItems (blockLine block 0)
    let n := min 64 it.nreg
    let ws := (List.range n).map (regionWord block)
    if (tget s.herd.groups g).state != .disabled then fin s .notReady 0
    else if addrBad (dField c.desc 16 8) then fin s .poison 0xFFFF
    else if !blockGood block (1 + (n + 7) / 8) then fin s .poison 0xFFFC
    else if curdOverlaps s it (ws.filterMap regionOf) then fin s .overlap 0
    else match curdBlockBad it block gn with
      | some k => fin s .poison (BitVec.ofNat 16 k)
      | none =>
        if freeRegions s < it.nreg || !(maskSlots (it.members ||| it.targets)).all (niReached s) then
          fin s .notReady 0
        else fin (enableGroup s g it ws) .ok 0

def setupCmd (s : State) (ring : CmdRing) (action : Nat) : Option Cmd :=
  startedCmd s ring (fun c => cmdOp c == 0x20 && dByte c.desc 9 == action)

/-- CURD_SETUP enable. -/
def execEnable (ring : CmdRing) (block : Block) (s : State) : Host.Outcome State Fault Refusal :=
  .next (match setupCmd s ring 0 with
    | some c => curdEnable s c block
    | none => s)

/-- CURD_SETUP change. -/
def execChange (ring : CmdRing) (block : Block) (s : State) : Host.Outcome State Fault Refusal :=
  .next (match setupCmd s ring 1 with
    | some c => curdEnable s c block
    | none => s)

/-- Every K equals C and every target has released through C (R180). -/
def groupIdle (s : State) (g : GroupId) : Bool :=
  let co := tget s.herd.groups g
  (maskSlots co.members).all (fun n => tget co.ks n == co.c) &&
  (maskSlots co.targets).all (fun n => let q := grpOf (nif s n) g; q.ct == co.c && q.releasing.isNone)

/-- Staged entries and Vat records of logical epochs above C (R180). -/
def groupLeft (s : State) (g : GroupId) : Nat :=
  let c := (tget s.herd.groups g).c
  s.nis.toList.foldl (fun n x =>
    n + (x.stage.filter (fun e => e.group == g && lepLt c e.lep)).length +
    ((grpOf x g).vatRecs.filter (fun r => lepLt c r.2)).length) 0

/-- Clear a group's items and region entries, at the coordinator and at every NI that is reached (R180); the others take
the change up later (R37, R184). -/
def disableGroup (s : State) (g : GroupId) : State :=
  let s := updCo s g (fun _ => CoGroup.reset)
  let s := updHerd s (fun h => { h with regions := tmap h.regions (fun _ w =>
    if w.getLsbD 63 && field w 58 5 == g.val then regionReset else w) })
  (List.finRange 192).foldl (fun s n => if niRuns s n && niReached s n then takeGroupState s n g else s) s

/-- CURD_SETUP disable (R180). -/
def execDisable (ring : CmdRing) (s : State) : Host.Outcome State Fault Refusal :=
  .next (match setupCmd s ring 2 with
    | none => s
    | some c =>
      let gn := dByte c.desc 8
      if 32 ≤ gn then endCmd s ring c.index .poison 0xFFFF
      else
        let g : GroupId := Fin.ofNat 32 gn
        let co := tget s.herd.groups g
        match co.state with
        | .disabled => endCmd s ring c.index .ok 0
        | .active =>
          if groupIdle s g then endCmd (disableGroup s g) ring c.index .ok 0
          else endCmd s ring c.index .notReady 0
        | .failed => endCmd (disableGroup s g) ring c.index .ok 0 (BitVec.ofNat 320 (groupLeft s g % 2 ^ 32)))

/-! ### MSG_SEND (R327) -/

def msgCmd (s : State) (ring : CmdRing) (kind : Nat) : Option Cmd :=
  startedCmd s ring (fun c => cmdOp c == 0x24 && dByte c.desc 9 == kind)

/-- MSG_SEND leaves slot 188, with PRIV from rings 0–3 (R327), and ends with the answer. -/
def sendMsg (s : State) (c : Cmd) (a : MemUse → Bool → MemAcc) : State :=
  memWrite (ranCmd s c.ring c.index) (a (.cmd c.ring c.index) (decide (c.ring.val < 4)))

/-- MSG_SEND of an interrupt. -/
def execMsgSendIntr (ring : CmdRing) (s : State) : Host.Outcome State Fault Refusal :=
  .next (match msgCmd s ring 0 with
    | none => s
    | some c =>
      let w := dByte c.desc 12
      let addr := dField c.desc 16 8
      if 192 ≤ dByte c.desc 8 ∨ 7 < w ∨ addrBad addr then endCmd s ring c.index .poison 0xFFFF
      else sendMsg s c (fun u p => intrAcc u (dByte c.desc 8) (addr / 64) w (bits c.desc 192 64) p))

/-- MSG_SEND of mail: the lines that were read from SOURCE. -/
def execMsgSendMail (ring : CmdRing) (block : Block) (s : State) : Host.Outcome State Fault Refusal :=
  .next (match msgCmd s ring 1 with
    | none => s
    | some c =>
      let n := dByte c.desc 12
      let box := dField c.desc 10 2
      if 192 ≤ dByte c.desc 8 ∨ n = 0 ∨ 4 < n ∨ 1023 < box ∨ addrBad (dField c.desc 16 8) then
        endCmd s ring c.index .poison 0xFFFF
      else if !blockGood block n then endCmd s ring c.index .poison 0xFFFC
      else sendMsg s c (fun u p => mailAcc u (dByte c.desc 8) box ((block.take n).map (·.data)) p))

/-! ### RING_MOVE (R341–R343) -/

/-- Word `r` of a block, as the Herdsman takes it: base, size, enable and window. -/
def moveWord (b : Block) (r : RingId) : Word := lineWord (blockLine b (r.val / 8)) (r.val % 8)
/-- Bits [11:0] that name the window of a ring's home words. -/
def moveWin (b : Block) (r : RingId) : Nat := field (moveWord b (if r.val < 8 then r else 8)) 0 12
def moveBad (s : State) (b : Block) (r : RingId) : Bool :=
  let w := moveWin b r
  (moveWord b r).getLsbD 63 && (decide (16 ≤ w) || !(tget s.herd.windows (Fin.ofNat 16 w)).getLsbD 63)

/-- RING_MOVE (R342, R13): judged, and its steps begun. -/
def execRingMove (ring : CmdRing) (block : Block) (s : State) : Host.Outcome State Fault Refusal :=
  .next (match startedOp s ring 0x28 with
    | none => s
    | some c =>
      if s.herd.swap.isSome || sectorsMissed s != 0 then endCmd s ring c.index .notReady 0
      else if addrBad (dField c.desc 16 8) then endCmd s ring c.index .poison 0xFFFF
      else if !blockGood block 2 then endCmd s ring c.index .poison 0xFFFC
      else match (List.finRange 14).find? (moveBad s block) with
        | some r => endCmd s ring c.index .poison (BitVec.ofNat 16 r.val)
        | none => updHerd (ranCmd s ring c.index) (fun h => { h with
            moving := some (tabOf (fun i => if i.val < 14 then moveWord block (Fin.ofNat 14 i.val) else 0)),
            accept := false }))

/-- Every entry is published. -/
def allPublished (s : State) : Bool := s.herd.rings.toList.all (fun x => x.pending.isEmpty && x.batch == 0)

/-- Step 4 of R343 for one ring. -/
def moveRing (s : State) (r : RingId) (w : Word) : State :=
  let w := setField (ringFields r w) 56 2 (field (hring s r).word 56 2)
  if w.getLsbD 63 then enableRing s r w
  else updRing s r (fun x => { x.idle with word := w, prod := 0, cons := 0, halted := false, fresh := false })

/-- The steps of a move that can be taken now (R343). -/
def ringMoveNext (s : State) : State :=
  match s.herd.moving with
  | none => s
  | some ws =>
    if s.herd.started.isEmpty && s.herd.fetched.isEmpty && allPublished s then
      let s := (List.finRange 14).foldl (fun s r => moveRing s r (tget ws (Fin.ofNat 16 r.val))) s
      updHerd s (fun h => { h with moving := none, accept := true })
    else if s.herd.fetched.isEmpty && allPublished s then
      match s.herd.started with
      | [c] => if cmdOp c == 0x28 && c.ran && c.result.isNone then endCmd s c.ring c.index .ok 0 else s
      | _ => s
    else s

end Sys2Proof.Machine
end

