-- ==== Sys2Proof/Machine/Milk.lean ====
section
/-! DEFINITION. The milk rounds: frames of R334 and what a stop does with them (R335), a lost row steward (R36, R465) and
the return of its sector (R37, R333). -/

namespace Sys2Proof.Machine

/-! ### Frames (R334) -/

abbrev opMgRd : Nat := 0x30
abbrev opMgWr : Nat := 0x31
abbrev opMgResp : Nat := 0x32
abbrev opMgEvent : Nat := 0x33
/-- Stop 12 is the row steward. -/
abbrev stopSteward : Nat := 12

/-- CRC-16, polynomial 0x1021, most significant bit first. -/
def crc16Step (r : BitVec 16) (b : Bool) : BitVec 16 :=
  if r.getLsbD 15 != b then (r <<< 1) ^^^ 0x1021#16 else r <<< 1
def crc16 (ws : List (BitVec 32)) : BitVec 16 := (ws.flatMap bitsMsb).foldl crc16Step 0xFFFF#16

/-- A frame, taken apart. -/
structure Frame where
  op : Nat
  dst : Nat
  src : Nat
  tag : BitVec 8
  second : BitVec 32
  data : List (BitVec 32)
deriving DecidableEq, Repr

/-- Read a frame; none where its header parity, its length or its CRC fails. -/
def readFrame (ws : List (BitVec 32)) : Option Frame :=
  match ws with
  | h :: w :: rest =>
    let n := field h 14 4
    let f : Frame := { op := field h 26 6, dst := field h 22 4, src := field h 18 4, tag := bits h 6 8, second := w,
                       data := rest.take n }
    if parity h then none
    else if n = 0 then (if rest.isEmpty then some f else none)
    else if rest.length = n + 1 ∧ n ≤ 14 then
      (if (rest.getD n 0).setWidth 16 = crc16 (h :: w :: rest.take n) then some f else none)
    else none
  | _ => none

/-- Write a frame. -/
def writeFrame (f : Frame) : List (BitVec 32) :=
  let h : BitVec 32 := setField (setField (setField (setField (setField 0 26 6 f.op) 22 4 f.dst) 18 4 f.src) 14 4
    f.data.length) 6 8 f.tag.toNat
  let h := setField h 0 1 (parity h).toNat
  if f.data.isEmpty then [h, f.second]
  else h :: f.second :: f.data ++ [(crc16 (h :: f.second :: f.data)).setWidth 32]

/-! ### Rounds -/

def round (s : State) (n : SectorId) : MilkRound := tget s.herd.rounds n
def updRound (s : State) (n : SectorId) (f : MilkRound → MilkRound) : State :=
  updHerd s (fun h => { h with rounds := tupd h.rounds n f })

/-- The row steward of a sector works: clocked, and not being reset. -/
def stewardRuns (s : State) (n : SectorId) : Bool := herdRuns s && sectorOk s n
/-- A frame is discarded, and counted at the stop that finds it (R335). -/
def badFrame (s : State) (n : SectorId) (stop : StopId) : State :=
  updRound s n (fun x => { x with badFrames := tupd x.badFrames stop (· + 1) })

/-- A frame as it arrives: `dist` flips bits of its words on the way. -/
def distort (words dist : List (BitVec 32)) : List (BitVec 32) := words.zipIdx.map (fun (w, i) => w ^^^ dist.getD i 0)

/-- The row steward awaits the answer to a frame that it has sent. -/
def awaitFrame (s : State) (n : SectorId) (f : Frame) (ws : List (BitVec 32)) : State :=
  if (round s n).awaited.any (fun a => a.1 == f.tag) then s
  else updRound s n (fun x => { x with awaited := x.awaited ++ [(f.tag, ws, 0)] })

def stopRouter (n : SectorId) (x : Nat) : RouterId := rid x n.val

/-- MG_RESP from a stop. -/
def answerFrame (s : State) (n : SectorId) (stop : Nat) (tag : BitVec 8) (st : Status) (data : List (BitVec 32)) :
    State :=
  updRound s n (fun x => { x with
    toSteward := x.toSteward ++ [writeFrame { op := opMgResp, dst := stopSteward, src := stop, tag := tag
                                              second := BitVec.ofNat 32 (stCode st * 2 ^ 28), data := data }] })

/-! ### The address word -/

def adBlock (f : Frame) : Nat := field f.second 28 4
def adSet (f : Frame) : Bool := f.second.getLsbD 27
def adSpace (f : Frame) : Nat := field f.second 16 11
def adIndex (f : Frame) : Nat := field f.second 0 16

/-- The unit that BLOCK names at a stop. -/
def adUnit (r : RouterId) (f : Frame) : Option TabUnit :=
  match adBlock f with
  | 0 => some (.router r)
  | 1 => some (.ni (slotAt r 0))
  | 2 => some (.ni (slotAt r 1))
  | _ => none

/-- The place of a configuration item that a frame names: the output of an item held per output, present or not (R21), is
INDEX [15:12]. -/
def adPlace (r : RouterId) (f : Frame) : Option (ItemInfo × CfgPlace) :=
  match adUnit r f, itemInfo (adSpace f) with
  | some u, some i =>
    let bank := adSpace f == itBankMap
    let port := if i.port then adIndex f / 4096 else 0
    let index := if i.port then adIndex f % 4096 else adIndex f
    let kindOk := match u, i.kind with
      | .router _, .router => true
      | .ni n, .ni => !i.host || isHostLink n.val
      | _, .router => bank
      | _, _ => false
    if kindOk && decide (index < i.indices) && decide (port ≤ 10) && (!bank || holdsTable u index) then
      some (i, { unit := some u, num := placeNum (some u) bank, port := port, index := index })
    else none
  | _, _ => none

/-- Words of a number, least significant first, and back. -/
def wordsOf (v n : Nat) : List (BitVec 32) := (List.range n).map (fun i => BitVec.ofNat 32 (v / 2 ^ (32 * i)))
def ofWords (l : List (BitVec 32)) : Nat := l.foldr (fun w n => w.toNat + 2 ^ 32 * n) 0
def wordCount (bytes : Nat) : Nat := (bytes + 3) / 4

/-! ### What a stop reads and writes -/

def niOf : Option TabUnit → Option Slot
  | some (.ni n) => some n
  | _ => none

/-- The answer of a stop to MG_RD. -/
def frameRead (s : State) (r : RouterId) (f : Frame) : Status × List (BitVec 32) :=
  match adPlace r f with
  | some (i, p) =>
    (.ok, wordsOf (cfgGet s (adSet f) (adSpace f) p.num p.port p.index) (wordCount i.bytes))
  | none =>
    match niOf (adUnit r f) with
    | some n =>
      let x := nif s n
      if adSpace f = 0x7F8 ∧ adIndex f ≤ 32 then
        let g := tget x.gates (loadSet x n)
        if h : adIndex f < 32 then
          let w := tget g.regions ⟨adIndex f, h⟩
          (.ok, wordsOf w.1.toNat 2 ++ wordsOf w.2.toNat 2)
        else (.ok, wordsOf (g.ctl.toNat + g.gen.toNat * 2 ^ 32) 2)
      else if adSpace f = 0x7FC ∧ adIndex f < 4096 ∧ isHostLink n.val then
        (.ok, wordsOf (meterWord x (adIndex f) false).toNat 2 ++ wordsOf (meterWord x (adIndex f) true).toNat 2)
      else (.poison, [])
    | none => (.poison, [])

/-- Write one entry of a configuration item at a unit (R335): whole or not at all. -/
def frameItem (s : State) (f : Frame) (p : CfgPlace) : State × Status :=
  match itemValue (adSpace f) p.index (ofWords f.data) with
  | none => (s, .poison)
  | some v =>
    let ok := match p.unit with
      | some u => adSpace f != itBankMap || mapValid (bankMapOf s (activeSet s u) u p.index) v
      | none => false
    if !ok then (s, .poison)
    else
      let t := mapsWritten (cfgPut s (adSet f) (adSpace f) p.num p.port p.index v) (adSpace f) [(p, 0)]
      if adSpace f = itGateList ∧ !gateListsOk t (adSet f) [(p, 0)] then (s, .notReady) else (t, .ok)

/-- Copy the active set of one router and its NIs (R331). -/
def copyUnit (s : State) (r : RouterId) : State :=
  let us : List TabUnit := [.router r, .ni (slotAt r 0), .ni (slotAt r 1)]
  let mine (e : Nat × Nat) : Bool := us.any (fun u => unitItem u e.1)
  let move (a b : Sparse Nat) : Sparse Nat :=
    (a.filter mine).foldl (fun m e => sput cfgBoot e.1 e.2 m) (b.filter (fun e => !mine e))
  let s := if (rtr s r).active then { s with cfgA := move s.cfgB s.cfgA } else { s with cfgB := move s.cfgA s.cfgB }
  updChurn s (fun c => { c with
    copying := c.copying.filter (fun x => decide (tabRouter x.1.unit ≠ r))
    copied := c.copied.filter (fun x => decide (tabRouter x.1.unit ≠ r)) })

/-- What a stop does with MG_WR, and its STATUS. -/
def frameWrite (s : State) (r : RouterId) (f : Frame) : State × Status :=
  match adPlace r f with
  | some (i, p) => if f.data.length = wordCount i.bytes then frameItem s f p else (s, .poison)
  | none =>
    if adSpace f = 0x7F0 then
      (if agentMayArm s r then (updR s r (fun x => { x with armed := some (ofWords f.data % 2 ^ 48, !x.active) }), .ok)
       else (s, .notReady))
    else if adSpace f = 0x7F1 then (updR s r (fun x => { x with armed := none }), .ok)
    else if adSpace f = 0x7F2 then (copyUnit s r, .ok)
    else match niOf (adUnit r f) with
      | none => (s, .poison)
      | some n =>
        if adSpace f = 0x7F8 ∧ adIndex f ≤ 32 then
          (putGate s n (loadSet (nif s n) n) (adIndex f)
            (BitVec.ofNat 64 (ofWords (f.data.take 2)), BitVec.ofNat 64 (ofWords (f.data.drop 2))), .ok)
        else if adSpace f = 0x7F9 then
          (if hasOneSet n then (s, .notReady)
           else
            let set := loadSet (nif s n) n
            (resumeStore (bumpGate (updN s n (fun x => { x with gateActive := set })) n set) n, .ok))
        else if adSpace f = 0x7FA then (s, .ok)
        else if adSpace f = 0x7FC ∧ adIndex f < 4096 ∧ isHostLink n.val then
          let w : MeterWrite := { tenant := Fin.ofNat 4096 (adIndex f), w0 := BitVec.ofNat 64 (ofWords (f.data.take 2)),
                                  fill := false, epoch := epochN s n, cmd := none }
          (updN s n (fun x => { x with meterNext := x.meterNext ++ [w] }), .ok)
        else (s, .poison)

/-- The frame `words` that the row steward of `sec` has sent round reaches a stop, distorted by `dist`: the stop takes it
where it is addressed to it, or to every router agent, and discards it where its checks fail. The row steward awaits the
answer either way. -/
def takeFrame (s : State) (sec : SectorId) (stop : StopId) (words dist : List (BitVec 32)) (op : Nat)
    (act : State → RouterId → Frame → State × Status × List (BitVec 32)) : State :=
  if !stewardRuns s sec then s
  else
    let s := match readFrame words with
      | some f => if f.op = op then awaitFrame s sec f words else s
      | none => s
    match readFrame (distort words dist) with
    | none => badFrame s sec stop
    | some f =>
      if f.op ≠ op ∨ !(f.dst = stop.val ∨ (f.dst = 15 ∧ stop.val < 12)) then s
      else if stop.val = stopSteward then answerFrame s sec stopSteward f.tag .ok []
      else
        let r := stopRouter sec stop.val
        -- a frame starts a gated cluster (R401)
        let s := ungate s (clusterOf r)
        if !routerRuns s r then s
        else
          let (t, st, d) := act s r f
          answerFrame t sec stop.val f.tag st d

/-- MG_RD (R334, R335). -/
def execMgRd (sec : SectorId) (stop : StopId) (words dist : List (BitVec 32)) (s : State) :
    Host.Outcome State Fault Refusal :=
  .next (takeFrame s sec stop words dist opMgRd (fun s r f => (s, frameRead s r f)))

/-- MG_WR (R334, R335). -/
def execMgWr (sec : SectorId) (stop : StopId) (words dist : List (BitVec 32)) (s : State) :
    Host.Outcome State Fault Refusal :=
  .next (takeFrame s sec stop words dist opMgWr (fun s r f =>
    let (t, st) := frameWrite s r f
    (t, st, [])))

/-- MG_RESP (R335): the first answer on its way reaches the row steward, distorted by `dist`. -/
def execMgResp (sec : SectorId) (dist : List (BitVec 32)) (s : State) : Host.Outcome State Fault Refusal :=
  .next (match (if stewardRuns s sec then (round s sec).toSteward else []) with
    | [] => s
    | words :: rest =>
      let s := updRound s sec (fun x => { x with toSteward := rest })
      match readFrame (distort words dist) with
      | none => badFrame s sec 12
      | some f =>
        if f.op = opMgResp ∧ f.dst = stopSteward then
          updRound s sec (fun x => { x with awaited := x.awaited.filter (fun a => a.1 != f.tag) })
        else s)

/-- The event that a code names (R453). -/
def eventOf (n : Nat) : Option EventCode :=
  ([.malformed, .dataUncorrectable, .ctrlParity, .inboundDiscard, .abandon, .sprayBad, .tickSlip, .govSaturated,
    .cdcPulseOvf, .ordLate, .ordGap, .lockBreak, .lockLease, .lockNotOwner,
    .curdNonmember, .curdUnordered, .curdLate, .curdWindow, .curdNotTarget, .curdOverflow, .curdCloseOrder,
    .curdGroupFailed, .curdCommit, .curdInexact, .curdVatPoison, .curdStageEcc, .curdFailed,
    .gateViolation, .gateEcc, .linkUp, .linkRetrain, .linkDown, .linkReturn, .linkMiswired, .laneSpared,
    .sparesExhausted, .spineNoRoute, .ringOverrun, .ringHalt, .cfgSplit, .stewardLost, .clusterClockLost,
    .routerStateUe, .herdStateUe, .tickLost, .modeRefused, .retentionLost, .pwrAckLate, .pwrAckFail,
    .eccRepeat, .eccUncorrectable, .meterEcc, .meterTallyParity, .meterSealedWrite, .meterReport,
    .meterReportFail, .meterClock, .counterWrap, .niStateParity, .cdcPtr, .recoverDone, .clusterDead,
    .recoverFailed, .epResetDiscard] : List EventCode).find? (fun c => evNum c == n)

/-- The ring token that the row steward sends itself (R335): LEN 0, from stop 12 to stop 12. -/
def isToken (f : Frame) : Bool := f.op == opMgEvent && f.data.isEmpty && f.dst == stopSteward && f.src == stopSteward

/-- A frame that reaches the row steward at the end of its round: the ring token, or an agent's event. -/
def stewardTakes (s : State) (sec : SectorId) (f : Frame) : State :=
  if isToken f then updRound s sec (fun x => { x with token := s.herd.epoch })
  else if f.op ≠ opMgEvent ∨ f.data.isEmpty then s
  else match eventOf (field f.second 16 16) with
    | some c => if f.src < 12 then repRouter s (stopRouter sec f.src) c 0 (ofWords (f.data.take 4)) else s
    | none => s

/-- MG_EVENT (R334, R335): the ring token, of which one is on its way since each tick, or an agent's event `words`,
reaches the row steward, distorted by `dist`. The agent will send again an event that was discarded. -/
def execMgEvent (sec : SectorId) (words dist : List (BitVec 32)) (s : State) : Host.Outcome State Fault Refusal :=
  let token := (readFrame words).any isToken
  .next (if !stewardRuns s sec || (token && (round s sec).tokens == 0) then s
    else
      let s := if token then updRound s sec (fun x => { x with tokens := x.tokens - 1 }) else s
      match readFrame (distort words dist) with
      | some f => stewardTakes (updRound s sec (fun x => { x with
          agentSent := x.agentSent.filter (fun a => a.1 != words) })) sec f
      | none => badFrame (if token || (round s sec).agentSent.any (fun a => a.1 == words) then s
          else updRound s sec (fun x => { x with agentSent := x.agentSent ++ [(words, 0)] })) sec 12)

/-- TAG of a frame. -/
def wordsTag (ws : List (BitVec 32)) : BitVec 8 := bits (ws.headD 0) 6 8

/-- An agent whose event has not been taken sends it again, up to three times (R335). -/
def agentTimeout (s : State) (sec : SectorId) (tag : BitVec 8) : State :=
  updRound s sec (fun x => { x with
    agentSent := (x.agentSent.filter (fun a => !(wordsTag a.1 == tag && decide (3 ≤ a.2)))).map (fun a =>
      if wordsTag a.1 == tag then (a.1, a.2 + 1) else a) })

/-- MG_FRAME_TIMEOUT (R335): 256 HCLK cycles without an answer. -/
def execMgFrameTimeout (sec : SectorId) (tag : BitVec 8) (s : State) : Host.Outcome State Fault Refusal :=
  .next (if !stewardRuns s sec then s
    else match (round s sec).awaited.find? (fun a => a.1 == tag) with
      | none => agentTimeout s sec tag
      | some (_, ws, n) =>
        if 2 ≤ n then
          updRound s sec (fun x => { x with
            awaited := x.awaited.filter (fun a => a.1 != tag), tokenStopped := true, lost := true })
        else updRound s sec (fun x => { x with
          awaited := updFirst (fun a => a.1 == tag) (fun _ => (tag, ws, n + 1)) x.awaited, sent := x.sent ++ [ws] }))

/-! ### A lost row steward (R36, R465) -/

/-- A write to the sector is among the frames whose answer is awaited. -/
def writeMissed (x : MilkRound) : Bool :=
  x.awaited.any (fun a => match a.2.1 with
    | h :: _ => field h 26 6 == opMgWr
    | [] => false)

/-- STEWARD_LOST (R36, R465): on no reply over the star link (`silent`), a retry-failure notice, or 4 epochs without
the ring token. -/
def execStewardLost (sec : SectorId) (silent : Bool) (s : State) : Host.Outcome State Fault Refusal :=
  let x := round s sec
  .next (if !herdRuns s then s
    else if !x.reachable then
      -- the reset repeats
      (if x.resetAt + 4 ≤ s.herd.epoch then updRound s sec (fun x => { x with resetAt := s.herd.epoch }) else s)
    else if silent || x.lost || decide (x.token + 4 ≤ s.herd.epoch) then
      let s := report s (mkEvent .stewardLost .sector sec.val 0 s.herd.epoch 0 0)
      let s := updRound s sec (fun x => { x with
        reachable := false, lost := false, tokenStopped := false, resetAt := s.herd.epoch, awaited := [], toSteward := []
        tokens := 0, agentSent := [], sent := [], dirty := x.dirty || writeMissed x })
      abortEntry s
    else s)

/-! ### The return of a sector (R37, R333) -/

/-- What one NI has missed. -/
def catchUpNi (s : State) (n : Slot) : State :=
  if !niRuns s n then s
  else
    let s := (List.finRange 192).foldl (fun s o => takeGeneration s n o) s
    let s := updN s n (fun x => { x with windows := s.herd.windows, homes := tabOf (homesOf s) })
    (List.finRange 32).foldl (fun s g => takeGroupState s n g) s

/-- R333: a sector that swapped on its own is swapped back at the first tick at least 4 epochs ahead. -/
def mendSplit (s : State) (n : SectorId) : State :=
  let rs := sectorRouters n
  let s := if s.herd.swap.isNone then rs.foldl (fun s r => updR s r (fun x => { x with armed := none })) s else s
  let s' := updRound s n (fun x => { x with split := none })
  match rs.find? (fun r => (rtr s r).active != s.herd.active) with
  | none => s'
  | some r =>
    let from_ := ((round s n).split).getD s.herd.epoch
    let to_ := s.herd.epoch + 4
    let t := rs.foldl (fun s r => updR s r (fun x => { x with armed := some (to_, s.herd.active) })) s'
    report t (mkEvent .cfgSplit .sector n.val 0 s.herd.epoch (BitVec.ofNat 32 (rtr s r).active.toNat)
      (BitVec.ofNat 128 (from_ % 2 ^ 48 * 2 ^ 48 + to_ % 2 ^ 48)))

/-- SECTOR_RETURN (R37): every relayed change that the sector missed is delivered, and it counts as reachable. -/
def execSectorReturn (sec : SectorId) (s : State) : Host.Outcome State Fault Refusal :=
  .next (if !herdRuns s || sectorOk s sec then s
    else
      let late (h : Herd) : Herd := { h with
        gens := tmap h.gens (fun o g => if slotSector o == sec then g + tget h.gensLate o else g)
        gensLate := tmap h.gensLate (fun o g => if slotSector o == sec then 0 else g) }
      let s := updHerd s late
      -- the frames that deliver the changes start the sector's gated clusters (R401)
      let s := (sectorRouters sec).foldl (fun s r => ungate s (clusterOf r)) s
      let s := (sectorRouters sec).foldl (fun s r =>
        if routerRuns s r then updR s r (fun x => { x with
          spineUp := s.herd.spineUp, govLevel := s.herd.govLevel, govNext := none }) else s) s
      let s := (sectorSlots sec).foldl catchUpNi s
      let s := updRound s sec (fun x => { x with reachable := true, token := s.herd.epoch })
      let s := resendSels s (fun u => sectorOf (unitRouter u) == sec)
      mendSplit s sec)

end Sys2Proof.Machine
end

