-- ==== Sys2Proof/Machine/Recovery.lean ====
section
/-! DEFINITION. Recovery (chapter 15): what a recovered NI keeps and loses (R457), NI scope (R460), cluster scope
(R461–R464), die scope (R466, R467), and how reported events are written and start it (R34, R452). -/

namespace Sys2Proof.Machine

/-! ### A recovered NI (R457) -/

/-- What a recovery has discarded and quarantined (R469). -/
structure Lost where
  packets : Nat
  stores : Nat
  tags : Nat
deriving DecidableEq, Repr

def Lost.zero : Lost := { packets := 0, stores := 0, tags := 0 }
def Lost.add (a b : Lost) : Lost :=
  { packets := a.packets + b.packets, stores := a.stores + b.stores, tags := a.tags + b.tags }

def countHeads (l : List Flit) : Nat := (l.filter isHead).length

/-- The requests whose head is still in the request FIFO, with the flits that came with it. -/
def fifoHeads (x : NI) : List FifoFlits := x.reqFifo.filter (fun c => isHead (hd c.flits))

/-- Packets, accepted stores not yet injected, and tags of an NI. -/
def niHolds (x : NI) : Lost :=
  { packets := (fifoHeads x).length + x.store.length + x.partialReq.toList.length + x.inj.length + x.rspQ.length + x.skmQ.length +
      x.vatQ.length + x.dbQ.length + x.inq.length + x.taken.length + x.readWait.length + x.vatSpills.length +
      x.vatDrains.length + x.spillAcks.length + x.atoms.length +
      x.ej.toList.foldl (fun n l => n + countHeads l) 0
    stores := (x.inj.filter (fun p => isStore (fOp (hd p.pkt)) && !p.own)).length
    tags := (x.tags.filter (fun t => !t.quarantined)).length }

/-- An outstanding request, completed locally with LOST (R66). -/
def lostReq (r : ReqEnt) : ReqEnt :=
  { r with
    lines := r.lines.zipIdx.map (fun (l, i) => if i < r.done then l else some (noLine .poison .lost (fDest r.head)))
    whole := .lost, aux := if isFence r.op || r.op == opEpochClose then 0xFFFF else 0, slot := false }

/-- A request that the request store held, completed locally with LOST; a posted one has no completion. -/
def lostPend (n : Slot) (x : NI) (e : PendReq) : NI :=
  if isPosted e.op then x
  else
    let lines := if presentable e.op then max 1 (reqLines e.op e.pkt) else 1
    addLocal x (if presentable e.op then e.op else 0x00) (normHead n (hd e.pkt)) (List.replicate lines .poison) .lost
      (if isFence e.op || e.op == opEpochClose then 0xFFFF else 0) (!e.bad)

/-- A request whose head the request FIFO held, completed locally with LOST. -/
def lostFifo (n : Slot) (x : NI) (c : FifoFlits) : NI :=
  lostPend n x { op := c.op, fetch := c.fetch, pkt := c.flits, metered := .no, parity := [], tagFree := true
                 bad := tagBusy x (fTag (hd c.flits)), plan := [] }

/-- The flits still to come of the packet presented last, and its opcode. -/
def toCome (x : NI) : Nat × BitVec 6 :=
  match (fifoHeads x).getLast? with
  | some c =>
    let got := ((x.reqFifo.reverse.takeWhile (fun d => !isHead (hd d.flits))).foldl (fun a d => a + d.flits.length) 0)
    (fLen (hd c.flits) + 1 - c.flits.length - got, c.op)
  | none => match x.partialReq with
    | some e => (fLen (hd e.pkt) + 1 - e.pkt.length - fifoFlits x, e.op)
    | none => (x.remainder - fifoFlits x, x.remainderOp)

/-- The state that a recovery takes from an NI. -/
def wipeNi (n : Slot) (epoch : Nat) (x : NI) : NI :=
  let x := { x with reqs := x.reqs.map lostReq }
  let x := (x.store ++ x.partialReq.toList).foldl (lostPend n) x
  let more := toCome x
  let x := (fifoHeads x).foldl (lostFifo n) x
  { x with
    reqFifo := [], reqDrop := x.reqDrop - fifoFlits x, partialReq := none, partialTicks := 0, remainder := more.1,
    remainderOp := more.2, store := []
    inj := [], fences := [], lostStores := tabAll 192 0, oseq := tabAll 192 0
    tags := x.tags.map (fun t => { t with
      quarantined := true, injected := true, epoch := if t.injected then t.epoch else epoch })
    rspQ := [], skmQ := [], vatQ := [], dbQ := []
    ej := tabAll 8 [], ejGate := tabAll 8 [], exp := tabAll 192 none, gone := tabAll 192 [], inq := [], taken := [],
    discarding := false, idle := 0, atoms := []
    locks := [], groups := tmap x.groups (fun _ q => { q with
      state := if q.state == .active then .failed else q.state, close := none, pass := none, releasing := none })
    stage := [], readWait := [], vatSpills := [], vatDrains := [], spillAcks := [], spilledHeads := [] }

/-- R180, R204: the groups that lose a member's state or a target's stage. -/
def failGroups (s : State) (n : Slot) : State :=
  (groupsOf s n).foldl (fun s g =>
    groupFail s g ((tget s.herd.groups g).targets.getLsbD n.val)
      ((nif s n).stage.filter (fun e => e.group == g)).length) s

/-- R457 for one NI: it is closed, and loses what it loses. -/
def applyLoss (s : State) (n : Slot) : State :=
  let s := failGroups s n
  let s := updN s n (fun x => { wipeNi n (epochN s n) x with closed := true })
  let s := if n = herdSlot then memWiped s else if n = canSlot then canWiped s else s
  let s := if isHostLink n.val then noneOwed s n else s
  restartUnit s (.ni n)

/-- R528: the commit groups of a reopened NI, from the coordinator. -/
def coordGroup (s : State) (n : Slot) (g : GroupId) : NiGroup :=
  let c := tget s.herd.groups g
  if c.state != .disabled && (c.members.getLsbD n.val || c.targets.getLsbD n.val) then
    { niGroupOf { members := c.members, targets := c.targets, start := c.c, notify := c.notify, nreg := 0
                  vatSlot := c.vatSlot, vatBase := c.vatBase, vatSlice := c.vatSlice } n with state := c.state }
  else NiGroup.reset

/-- The NI reopens (R457, R458, R174). -/
def reopenNi (s : State) (n : Slot) : State :=
  let e := epochN s n
  updN s n (fun x => { x with
    closed := false, recovering := none, orderedFrom := e + 8, lockReopen := some e
    groups := tabOf (coordGroup s n) })

/-- RECORD of RECOVER_DONE (R469). -/
def doneRecord (packets stores tags attempts : Nat) : Nat :=
  let f (n : Nat) : Nat := min (2 ^ 32 - 1) n
  f packets * 2 ^ 96 + f stores * 2 ^ 64 + f tags * 2 ^ 32 + f attempts

/-! ### Routers that are emptied -/

def routerPackets (x : Router) : Nat :=
  x.returned.length + x.ins.toList.foldl (fun n i => n + countHeads (i.wire.map (·.flit)) +
    i.buf.toList.foldl (fun n l => n + countHeads (l.map (·.flit))) 0) 0

/-- An emptied router: its configuration, governor level and SPINE_UP vector stand. -/
def emptyRouter (s : State) (r : RouterId) : Router :=
  let x := rtr s r
  { x with
    ins := tabAll 11 RouterIn.reset
    outs := tabOf (fun p => { RouterOut.reset r p with down := (tget x.outs p).down })
    returned := [], eMesh := 0, eExpr := 0, eOut := 0, eLocIn := 0, eLocOut := 0
    bwIn := tabAll 10 0, bwOut := tabAll 10 0 }

/-- An emptied link end: its items, its lanes and its counts stand. -/
def emptyEnd (e : LinkEnd) (x : SpineEnd) : SpineEnd :=
  { SpineEnd.reset e with
    en := x.en, compress := x.compress, lockLoss := x.lockLoss, laneErrMax := x.laneErrMax, returnWait := x.returnWait
    lanes := x.lanes, spareNoted := x.spareNoted, creditLeaks := x.creditLeaks }

/-- Restart the counters of the units at a router and load their selections (R379). -/
def restartRouter (s : State) (r : RouterId) : State := (routerUnits r).foldl restartUnit s

/-! ### Cluster scope: isolation (R461, R462) -/

def inCluster (c : ClusterId) (r : RouterId) : Bool := clusterOf r == c

/-- The outputs that lead into a cluster from outside. -/
def linksInto (c : ClusterId) : List (RouterId × PortId) :=
  ((List.finRange 96).filter (fun r => !inCluster c r)).flatMap (fun r =>
    ((List.finRange 11).filter (fun p => (neighbour r p).any (inCluster c))).map (fun p => (r, p)))

def clusterEnds (c : ClusterId) : List LinkEnd := (List.finRange 12).filter (fun e => inCluster c (hubAt e))

def updInVc (s : State) (r : RouterId) (p : PortId) (f : RouterIn → RouterIn) : State :=
  updR s r (fun x => updIn x p f)

/-- The rest of a packet whose head has gone into the cluster is discarded at the neighbour that holds it. -/
def dropRest (s : State) (r : RouterId) (inP : PortId) (bvc : BufVc) (left : Nat) : State :=
  let l := tget (tget (rtr s r).ins inP).buf bvc
  let here := (l.takeWhile (fun b => !isHead b.flit)).take left
  let s := here.foldl (fun s b => freeCell s r inP bvc b.pool (timeR s r 0)) s
  let more := left - here.length
  updInVc s r inP (fun i => { i with
    buf := tupd i.buf bvc (fun l => l.drop here.length)
    drop := tupd i.drop bvc (fun d => if more = 0 then d else more)
    left := tupd i.left bvc (fun d => if more = 0 then d else 0)
    poisonRest := tupd i.poisonRest bvc (fun b => b && more == 0) })

/-- The packets that hold an output into the cluster. -/
def dropInto (s : State) (r : RouterId) (p : PortId) : State :=
  let s := bufVcs.foldl (fun s v => match tget (outOf s r p).owner v with
    | some o => dropRest s r o.inPort o.inVc o.left
    | none => s) s
  updR s r (fun x => updOut x p (fun o => { o with down := true, owner := tabAll 16 none }))

/-- One VC of an input that the cluster feeds: a packet whose head has gone on is completed with poisoned bodies, one
whose head is still here is discarded. -/
def finishVc (i : RouterIn) (v : BufVc) (now : Nat) : RouterIn :=
  let left := tget i.left v
  let i := { i with drop := tupd i.drop v (fun _ => 0), dropTail := tupd i.dropTail v (fun _ => false) }
  if left = 0 then i
  else
    let l := tget i.buf v
    let got := tget i.total v - left
    let tailEnd := l.drop (l.length - got)
    let held := decide (got ≤ l.length) && (match tailEnd with
      | b :: _ => isHead b.flit
      | [] => false)
    let i := { i with left := tupd i.left v (fun _ => 0), poisonRest := tupd i.poisonRest v (fun _ => false) }
    if held then { i with buf := tupd i.buf v (fun l => l.take (l.length - got)) }
    else
      let h := tget i.head v
      let len := field h 92 2
      let pads : List BufFlit := (List.range left).map (fun j =>
        let c := bodyCtl h (len - left + 1 + j) len true
        { flit := { ctl := c, par := ctlParity c, chk := 0, dat := 0 }, phase := .mesh, la := none, since := now,
          esc := false
          escOnly := false, pool := none })
      { i with buf := tupd i.buf v (fun l => l ++ pads) }

def finishFrom (s : State) (r : RouterId) (p : PortId) : State :=
  updInVc s r p (fun i => bufVcs.foldl (fun i v => finishVc i v (timeR s r 0)) { i with wire := [] })

/-- Step 1 (R461): links into the cluster are down, its spine link ends stop, its clock request falls. -/
def isolate (s : State) (c : ClusterId) : State :=
  let s := (linksInto c).foldl (fun s (r, p) => finishFrom (dropInto s r p) r p) s
  let s := (clusterEnds c).foldl (fun s e => updE s e (lanesOff)) s
  updAon s (fun a => { a with clkReq := setField a.clkReq c.val 1 0 })

/-- The far end of a link into an emptied hub gives up what it holds, as when E cannot be read (R275). -/
def farGivesUp (s : State) (e : LinkEnd) : State :=
  let f := farEnd e
  let s := if (spn s f).state == .up || (spn s f).state == .retrain then declareDown s (linkOf e) else s
  if (spn s f).downEpoch.isSome then
    let disc := ((pendingRecs (spn s f) (spn s f).o).filter (fun r => isHead r.2.flit)).length
    let s := updE s f (fun x => { emptyTx x with returning := ownersLeft s f })
    let (s, pads) := padAll s f
    repReturn s f 0 disc pads
  else s

/-- Step 3 (R461): routers emptied, R457 applied. -/
def clusterCheck (s : State) (c : ClusterId) : State :=
  let held := (clusterRouters c).foldl (fun n r => n + routerPackets (rtr s r)) 0
  let lost := (clusterSlots c).foldl (fun a n => a.add (niHolds (nif s n))) Lost.zero
  let s := (clusterEnds c).foldl (fun s e => updE (farGivesUp s e) e (emptyEnd e)) s
  let s := (clusterRouters c).foldl (fun s r => updR s r (fun _ => emptyRouter s r)) s
  let s := (clusterSlots c).foldl (fun s n =>
    updN (applyLoss s n) n (fun x => { x with
      credit := depthLocal, returning := tabAll 8 0, sending := tabAll 8 none, recovering := none })) s
  let s := (clusterRouters c).foldl restartRouter s
  updRecov s (fun v => { v with clusters := tupd v.clusters c (fun o => o.map (fun x => { x with
    discarded := x.discarded + held + lost.packets, stores := x.stores + lost.stores
    quarantined := x.quarantined + lost.tags })) })

/-- What a loaded NI takes from the Herdsman (R461, R466). -/
def loadNi (s : State) (n : Slot) : State :=
  updN s n (fun x => { x with
    gens := s.herd.gens, windows := s.herd.windows, homes := tabOf (homesOf s), exp := tabAll 192 none })

/-- A cluster whose epoch counter is loaded has no tick on its way to it. -/
def tickLoaded (s : State) (c : ClusterId) : State :=
  updRecov (updHerd s (fun h => { h with tickDue := setField h.tickDue c.val 1 0 }))
    (fun v => { v with epochTop := tupd v.epochTop c (fun _ => s.herd.epoch) })

/-- Step 4 (R461): epoch counter, generations, selections and governor level; credits of R80. -/
def clusterLoad (s : State) (c : ClusterId) : State :=
  let s := { s with epochs := tupd s.epochs c (fun _ => s.herd.epoch) }
  let s := tickLoaded s c
  let s := (clusterSlots c).foldl loadNi s
  let s := (clusterRouters c).foldl (fun s r => updR s r (fun x => { x with
    govLevel := s.herd.govLevel, govNext := none, spineUp := s.herd.spineUp
    outs := tmap x.outs (fun p o => { o with credit := outDepth r p, returning := tabAll 8 0 }) })) s
  (linksInto c).foldl (fun s (r, p) => updR s r (fun x => updOut x p (fun o => { o with
    credit := outDepth r p, returning := tabAll 8 0 }))) s

/-- Step 5 (R461): the links are up again, and a hub's spine links train. -/
def clusterRejoin (s : State) (c : ClusterId) : State :=
  let s := (linksInto c).foldl (fun s (r, p) => updR s r (fun x => updOut x p (fun o => { o with down := false }))) s
  (clusterEnds c).foldl startTraining s

/-! ### Cluster scope: the sequence (R461–R464) -/

def clusterRec (s : State) (c : ClusterId) : Option ClusterRec := tget s.recov.clusters c
def putCluster (s : State) (c : ClusterId) (x : Option ClusterRec) : State :=
  updRecov s (fun v => { v with clusters := tupd v.clusters c (fun _ => x) })

/-- RECOVER is logged at the Can (R357). -/
def canRecover (s : State) (arg : Nat) : State := canLog s 8 arg (s.herd.epoch % 2 ^ 32)

/-! ### Die scope: its start (R466, R467) -/

/-- What an entry, an exit or a return in progress leaves: the supply and the clocks of SERVE (R395, R405). -/
def endChange (s : State) : State :=
  let busy := s.aon.modeReq.isSome || s.aon.exitStep.isSome || s.aon.retStep.isSome || s.aon.mode == .drowse
  let s := match s.aon.modeReq with
    | some m => noteMode s m.target .notReady 0x000A
    | none => s
  let s := if s.aon.mode == .drowse then canLog s 6 0xFFFF s.herd.epoch else s
  let s := if busy then
      updAon (sendCodes s .serve) (fun a => { a with rootSel := false, clkReq := liveClocks s })
    else s
  let s := updAon s (fun a => { a with
    modeReq := none, latch := none, armedLatch := false, exitStep := none, retStep := none, joined := [] })
  updCan (updAllN s (fun _ x => { x with holdPosted := false, holdAll := false })) (fun c => { c with paused := false })

/-- Step 1 (R466): every NI closes. -/
def dieStop (s : State) : State := setPorts (updAllN (enterMode s .recover) (fun _ x => { x with closed := true }))

/-- Die-scope RECOVER starts, or starts again; it absorbs the smaller scopes (R468). -/
def startDie (s : State) : State :=
  if s.recov.failed || !clocksRun s then s
  else
    let e := s.herd.epoch
    match s.recov.die with
    | some d =>
      if 3 ≤ d.restarts then
        repDie (updRecov s (fun v => { v with failed := true })) .recoverFailed ((d.restarts + 1) % 16)
      else dieStop (updRecov s (fun v => { v with die := some { d with step := 1, restarts := d.restarts + 1, since := e } }))
    | none =>
      let s := canRecover (endChange s) 0xFFFF
      let s := (List.finRange 24).foldl ungate s
      let s := updRecov s (fun v => { v with
        clusters := tabAll 24 none
        die := some { step := 1, restarts := 0, start := e, since := e, discarded := 0, stores := 0, quarantined := 0 } })
      let s := updAon s (fun a => { a with clkReq := liveClocks s })
      dieStop (updAllN s (fun _ x => { x with recovering := none }))

/-- The attempt at a cluster fails: another, or after three the cluster is dead (R463, R464). -/
def clusterAgain (s : State) (c : ClusterId) (x : ClusterRec) : State :=
  if 3 ≤ x.attempts then
    let s := putCluster (updRecov s (fun v => { v with dead := setField v.dead c.val 1 1 })) c none
    let s := (clusterEnds c).foldl (fun s e => updE s e (fun y => { y with state := .down })) s
    let s := updAon s (fun a => { a with clkReq := setField a.clkReq c.val 1 0 })
    report s (mkEvent .clusterDead .cluster c.val 0 s.herd.epoch (BitVec.ofNat 32 x.attempts) 0)
  else isolate (putCluster s c (some { x with step := 1, attempts := x.attempts + 1 })) c

/-- Cluster-scope recovery starts, or a fault that arrives before step 6 restarts its attempt (R461, R463). -/
def startCluster (s : State) (c : ClusterId) : State :=
  if s.recov.dead.getLsbD c.val || s.recov.die.isSome || s.recov.failed then s
  else match clusterRec s c with
    | some x => if x.step < 6 then clusterAgain s c x else s
    | none =>
      let s := ungate (canRecover (abortEntry s) c.val) c
      let s := (clusterSlots c).foldl (fun s n => updN (bumpGen s n true) n (fun x => { x with closed := true })) s
      isolate (putCluster s c (some { step := 1, attempts := 1, start := s.herd.epoch, discarded := 0, stores := 0
                                      quarantined := 0, clkAsked := 0 })) c

/-! ### NI scope (R456, R460) -/

/-- The first `k` flits of a VC on a link, and every flit of the others. -/
def keepFirst (v : BufVc) : Nat → List WireFlit → List WireFlit
  | _, [] => []
  | k, w :: rest =>
    if w.bvc = v then
      match k with
      | 0 => keepFirst v 0 rest
      | j + 1 => w :: keepFirst v j rest
    else w :: keepFirst v k rest

/-- The flits that a partly injected packet still lacks, poisoned. -/
def padsOf (y : Sending) : List Flit :=
  let len := fLen y.head
  (List.range y.left.length).map (fun j =>
    let c := bodyCtl y.head.ctl (len + 1 - y.left.length + j) len true
    { ctl := c, par := ctlParity c, chk := 0, dat := 0 })

/-- The router discards the packet that an NI has partly injected on a VC, and returns the credits of what it discards
(R460). DESIGN CHOICE: a packet whose head has left the local input is completed with poisoned zero body flits. -/
def cutVc (s : State) (n : Slot) (v : VcId) : State :=
  match tget (nif s n).sending v with
  | none => s
  | some y =>
    let r := routerOf n
    let p := localPort n
    let b : BufVc := Fin.ofNat 16 v.val
    let i := tget (rtr s r).ins p
    let wired := (i.wire.filter (fun w => decide (w.bvc = b))).length
    let stored := (tget i.buf b).length
    let unsent := y.left.length
    let sent := fLen y.head + 1 - unsent
    let back (s : State) (k : Nat) : State := updN s n (fun x => { x with returning := tupd x.returning v (· + k) })
    let s := updN s n (fun x => { x with sending := tupd x.sending v (fun _ => none) })
    if sent ≤ wired then
      back (updInVc s r p (fun i => { i with wire := keepFirst b (wired - sent) i.wire })) (fLen y.head + 1)
    else if 0 < tget i.drop b then
      -- its head has been discarded already
      back (updInVc s r p (fun i => { i with
        drop := tupd i.drop b (fun _ => wired), dropTail := tupd i.dropTail b (fun _ => false) })) unsent
    else if sent - wired ≤ stored then
      back (updInVc s r p (fun i => { i with
        wire := keepFirst b 0 i.wire, buf := tupd i.buf b (fun l => l.take (stored - (sent - wired)))
        left := tupd i.left b (fun _ => 0), poisonRest := tupd i.poisonRest b (fun _ => false) })) (fLen y.head + 1)
    else (padsOf y).foldl (fun s f => driveFlit s n y.head f) s

/-- Every packet that an NI has partly injected. -/
def cutSending (s : State) (n : Slot) : State := (List.finRange 8).foldl (fun s v => cutVc s n v) s
def partlySent (x : NI) : Nat := (x.sending.toList.filter (·.isSome)).length

/-- An NI's fault: its recovery starts; a second one, or one that lasts, is the cluster's (R460). -/
def niFault (s : State) (n : Slot) (ev : EventCode) (detail : Nat) : State :=
  if !niRuns s n || s.recov.die.isSome || s.recov.failed then s
  else
    let s := repNi s n ev detail
    if (clusterRec s (slotCluster n)).isSome then s
    else if (nif s n).recovering.isSome then startCluster s (slotCluster n)
    else
      let k := niHolds (nif s n)
      let cut := partlySent (nif s n)
      let s := cutSending s n
      -- what the ejection buffer held goes back as credits
      let s := (List.finRange 8).foldl (fun s v => ejPop s n v (tget (nif s n).ej v).length) (bumpGen s n true)
      updN (applyLoss s n) n (fun x => { x with
        recovering := some { start := epochN s n, discarded := k.packets + cut, stores := k.stores, quarantined := k.tags } })

/-- NI_STATE_PARITY (R456). -/
def execNiStateParity (n : Slot) (s : State) : Host.Outcome State Fault Refusal :=
  .next (niFault s n .niStateParity 0)

/-- CDC_PTR (R456). -/
def execCdcPtr (n : Slot) (fifo : CdcFifo) (s : State) : Host.Outcome State Fault Refusal :=
  .next (niFault s n .cdcPtr (match fifo with
    | .request => 0
    | .response => 1))

/-- The banks of a check that belong to a unit of some routers. -/
def checkBanks (s : State) (mine : RouterId → Bool) (failed : List LostBank) : State :=
  (failed.filter (fun l => mine (tabRouter l.bank.unit))).foldl bankLost s

/-- NI_RECOVERY_DONE (R460): the unit bank is checked and the NI reopens, or the cluster is recovered. -/
def execNiRecoveryDone (n : Slot) (failed : List LostBank) (s : State) : Host.Outcome State Fault Refusal :=
  .next (match (if niRuns s n then (nif s n).recovering else none) with
    | none => s
    | some x =>
      let e := epochN s n
      if x.start + 8 < e then startCluster s (slotCluster n)
      else
        let s := (failed.filter (fun l => decide (l.bank.unit = .ni n))).foldl bankLost s
        let s := reopenNi s n
        repNi s n .recoverDone (min 65535 (e - x.start)) (doneRecord x.discarded x.stores x.quarantined 1))

/-! ### Cluster scope: the rows -/

def clusterReached (s : State) (c : ClusterId) : Bool := (clusterSectors c).all (sectorOk s)

/-- CLUSTER_RECOVERY_STEP (R461): the step in progress is complete. -/
def execClusterRecoveryStep (c : ClusterId) (failed : List LostBank) (s : State) :
    Host.Outcome State Fault Refusal :=
  .next (match (if herdRuns s && clusterReached s c then clusterRec s c else none) with
    | none => s
    | some x =>
      let to_ (s : State) (k : Nat) : State := updRecov s (fun v => { v with
        clusters := tupd v.clusters c (fun o => o.map (fun x => { x with step := k })) })
      match x.step with
      | 1 =>
        let s := updAon s (fun a => { a with clkReq := setField a.clkReq c.val 1 1 })
        putCluster s c (some { x with step := 2, clkAsked := acl s })
      | 2 => if s.aon.clkAck.getLsbD c.val then clusterCheck (to_ s 3) c else s
      | 3 => clusterLoad (to_ (checkBanks s (inCluster c) failed) 4) c
      | 4 => clusterRejoin (to_ s 5) c
      | 5 => (clusterSlots c).foldl reopenNi (to_ s 6)
      | _ =>
        let s := putCluster s c none
        let s := if c = 8 then updHerd s (fun h => { h with rereadAll := true }) else s
        let s := resendSels s (fun u => inCluster c (unitRouter u))
        report s (mkEvent .recoverDone .cluster c.val 0 s.herd.epoch
          (BitVec.ofNat 32 (min 65535 (s.herd.epoch - x.start)))
          (BitVec.ofNat 128 (doneRecord x.discarded x.stores x.quarantined x.attempts))))

/-- CLUSTER_RECOVERY_RESTART (R463): CLKC_ACK has not come within 10 µs. -/
def execClusterRecoveryRestart (c : ClusterId) (s : State) : Host.Outcome State Fault Refusal :=
  .next (match (if herdRuns s then clusterRec s c else none) with
    | some x =>
      if x.step = 2 && !s.aon.clkAck.getLsbD c.val && decide (x.clkAsked + 320 ≤ acl s) then clusterAgain s c x else s
    | none => s)

/-- The neighbours treat every mesh and express link into a cluster as down (R36). -/
def markDown (s : State) (c : ClusterId) : State :=
  (linksInto c).foldl (fun s (r, p) => updR s r (fun x => updOut x p (fun o => { o with down := true }))) s

/-- CLUSTER_CLOCK_LOST (R36): the neighbours' crossings see it at once, and both row stewards of the cluster report. -/
def execClusterClockLost (c : ClusterId) (s : State) : Host.Outcome State Fault Refusal :=
  .next (if clusterRuns s c then
      let s := markDown s c
      (clusterSectors c).foldl (fun s n =>
        report s (mkEvent .clusterClockLost .cluster c.val (secBit n) (tget s.epochs c) 0 0)) s
    else s)

/-- ROUTER_STATE_UE (R36). -/
def execRouterStateUe (r : RouterId) (s : State) : Host.Outcome State Fault Refusal :=
  .next (if clocksRun s && !s.recov.dead.getLsbD (clusterOf r).val then repRouter s r .routerStateUe 0 else s)

/-! ### Die scope: the rows -/

/-- HERD_STATE_UE (R466). -/
def execHerdStateUe (s : State) : Host.Outcome State Fault Refusal :=
  .next (if herdRuns s then repDie s .herdStateUe 0 else s)

/-- SPINE_NO_ROUTE (R91): a deterministic-class packet waits at its hub without a route. -/
def execSpineNoRoute (q : QuadId) (s : State) : Host.Outcome State Fault Refusal :=
  let r := hubOf q
  .next (match (if routerRuns s r && s.recov.die.isNone then noRoute s r else []) with
    | d :: _ =>
      if s.herd.reports.any (fun ev => ev.code == .spineNoRoute && ev.num == r.val) then s
      else repRouter s r .spineNoRoute d
    | [] => s)

/-- Nothing is left in routers, links and ejection buffers. -/
def dieDrained (s : State) : Bool :=
  s.routers.toList.all routerQuiet && s.spine.toList.all endQuiet && s.nis.toList.all (fun x => x.ej.toList.all (·.isEmpty))

/-- Step 3 (R466). -/
def dieDiscard (s : State) : State :=
  let held := s.routers.toList.foldl (fun n x => n + routerPackets x) 0
  let lost := s.nis.toList.foldl (fun a x => a.add (niHolds x)) Lost.zero
  let s := updAllE s emptyEnd
  let s := updAllR s (fun r _ => emptyRouter s r)
  let s := updAllR s (fun r x => { x with
    spineUp := 0, outs := tmap x.outs (fun p o => { o with down := beyondDead s r p }) })
  let s := updHerd s (fun h => { h with spineUp := 0 })
  let s := (List.finRange 192).foldl (fun s n =>
    updN (applyLoss (bumpGen s n true) n) n (fun x => { x with
      credit := depthLocal, returning := tabAll 8 0, sending := tabAll 8 none })) s
  updRecov s (fun v => { v with die := v.die.map (fun d => { d with
    discarded := d.discarded + held + lost.packets, stores := d.stores + lost.stores
    quarantined := d.quarantined + lost.tags }) })

/-- Step 5 (R466): banks checked, counters, generations and selections loaded, held commands end NOT_READY. -/
def dieReload (s : State) (failed : List LostBank) : State :=
  let s := checkBanks s (fun _ => true) failed
  let s := (List.finRange 24).foldl tickLoaded { s with epochs := tabAll 24 s.herd.epoch }
  let s := (List.finRange 192).foldl loadNi s
  let s := (List.finRange 96).foldl restartRouter s
  let s := updAllR s (fun _ x => { x with armed := none, govLevel := s.herd.govLevel, govNext := none })
  let s := s.herd.started.foldl (fun s c => if c.result.isSome then s else endCmd s c.ring c.index .notReady 0) s
  let s := updHerd s (fun h => { h with
    swap := none, copy := none, moving := none, accept := true
    memOut := h.memOut.filter (fun a => ofNoCommand a.use), memBusy := h.memBusy.filter (fun b => ofNoCommand b.use) })
  updDip s (fun d => { d with seq := none, gather := none })

/-- Step 6 (R466): TRAIN, and the NIs open. -/
def dieOpen (s : State) (d : DieRec) : State :=
  let s := enterMode (updRecov s (fun v => { v with die := none })) .train
  let s := (List.finRange 192).foldl (fun s n =>
    if s.recov.dead.getLsbD (slotCluster n).val then s else reopenNi s n) (setPorts s)
  repDie (updHerd s (fun h => { h with rereadAll := true })) .recoverDone (min 65535 (s.herd.epoch - d.start))
    (doneRecord d.discarded d.stores d.quarantined (d.restarts + 1))

/-- DIE_RECOVERY_STEP (R466): the step in progress is complete. -/
def execDieRecoveryStep (failed : List LostBank) (s : State) : Host.Outcome State Fault Refusal :=
  .next (match (if herdRuns s && !s.recov.failed then s.recov.die else none) with
    | none => s
    | some d =>
      let to_ (s : State) (k : Nat) : State := updRecov s (fun v => { v with
        die := v.die.map (fun x => { x with step := k, since := s.herd.epoch }) })
      match d.step with
      | 1 => to_ s 2
      | 2 => if dieDrained s || decide (d.since + 16 ≤ s.herd.epoch) then dieDiscard (to_ s 3) else s
      | 3 => (List.finRange 12).foldl (fun s e => if endRuns s e then startTraining s e else s) (to_ s 4)
      | 4 => if s.spine.toList.any (fun x => x.state == .train) then s else to_ s 5
      | _ => dieOpen (dieReload s failed) d)

/-! ### Events at the Herdsman (R34, R36, R452) -/

def mergeable (c : EventCode) : Bool := c == .clusterClockLost || c == .routerStateUe || c == .linkDown

/-- The cluster that a unit lies in. -/
def eventCluster (ev : Event) : Option ClusterId :=
  match ev.kind with
  | .router => some (clusterOf (Fin.ofNat 96 ev.num))
  | .ni => some (slotCluster (Fin.ofNat 192 ev.num))
  | .spineEnd => some (clusterOf (hubAt (Fin.ofNat 12 ev.num)))
  | .cluster => some (Fin.ofNat 24 ev.num)
  | _ => none

/-- The recovery that an event starts (R36, R452, R463, R464, R467). -/
def eventStarts (s : State) (ev : Event) : State :=
  let fatal := evClass ev.code == .fatal
  if evDie ev.code || (ev.code == .clusterDead && ev.num == 8) || (fatal && s.recov.die.isSome && ev.code != .recoverFailed) then
    startDie s
  else match eventCluster ev with
    | some c =>
      if ev.code == .routerStateUe then startCluster s c
      else if ev.code == .clusterClockLost then (if (clusterRec s c).isNone then startCluster s c else s)
      else if fatal && ev.code != .clusterDead && (clusterRec s c).isSome then startCluster s c
      else s
    | none => s

/-- An open merge that a report joins. -/
def joinsMerge (s : State) (ev : Event) (m : Merge) : Bool :=
  m.ev.code == ev.code && m.ev.kind == ev.kind && m.ev.num == ev.num && decide (s.herd.epoch ≤ m.opened + 4)

/-- EVENT_REPORT (R34): the first report that can reach the Herdsman. -/
def execEventReport (s : State) : Host.Outcome State Fault Refusal :=
  .next (match (if herdRuns s then takeFirst (fun ev : Event => ev.sectors &&& sectorsMissed s == 0) s.herd.reports else none) with
    | none => s
    | some (ev, rest) =>
      let s := updHerd s (fun h => { h with reports := rest })
      if !mergeable ev.code then eventStarts (writeEvent s ev) ev
      else if s.herd.merges.any (joinsMerge s ev) then
        updHerd s (fun h => { h with merges := updFirst (joinsMerge s ev) (fun m => { m with
          count := m.count + 1, ev := { m.ev with sectors := m.ev.sectors ||| ev.sectors } }) h.merges })
      else
        eventStarts (updHerd s (fun h => { h with merges := h.merges ++ [{ ev := ev, opened := h.epoch, count := 1 }] })) ev)

/-- EVENT_MERGE_CLOSE (R34): four epochs after a merged event opened. -/
def execEventMergeClose (s : State) : Host.Outcome State Fault Refusal :=
  .next (match (if herdRuns s then takeFirst (fun m : Merge => decide (m.opened + 4 ≤ s.herd.epoch)) s.herd.merges else none) with
    | none => s
    | some (m, rest) =>
      writeEvent (updHerd s (fun h => { h with merges := rest })) { m.ev with merged := m.count })

end Sys2Proof.Machine
end

