-- ==== Sys2Proof/Machine/Ticks.lean ====
section
/-! DEFINITION. Ticks: the Herdsman's issue of one (R210), a cluster's arrival of one (R211, R213), and the power governor
(R234–R236). -/

namespace Sys2Proof.Machine

/-! ### The governor (R234, R235) -/

/-- The die items of R218: cap and hysteresis and static power in quarter watts, weights in pJ a flit. -/
abbrev govCap (s : State) : Nat := cfgDie s 0
abbrev govHyst (s : State) : Nat := cfgDie s 1
abbrev govStatic (s : State) : Nat := cfgDie s 2

/-- A router's energy figure (R234). -/
def energyOf (s : State) (mesh express out loc : Nat) : Nat :=
  (cfgDie s 3 * mesh + cfgDie s 4 * express + cfgDie s 5 * out + cfgDie s 6 * loc) % 2 ^ 24

/-- The figure of a router that is missing: every port busy throughout. -/
def energyBusy (s : State) (r : RouterId) : Nat :=
  let has (f : PortId → Bool) : Nat :=
    1024 * ((List.finRange 11).filter (fun p => decide (p.val < 10) && hasPort r p && f p)).length
  energyOf s (has isMesh) (has (isExpress r)) (has (fun _ => true)) (2 * has isLocal)

/-- A router agent sends its figure and counts anew. -/
def sendEnergy (s : State) (r : RouterId) : State :=
  let x := rtr s r
  let s := if routerReached s r then
      updHerd s (fun h => { h with
        govFigures := h.govFigures + energyOf s x.eMesh x.eExpr x.eOut (x.eLocIn + x.eLocOut) })
    else s
  updR s r (fun x => { x with eMesh := 0, eExpr := 0, eOut := 0, eLocIn := 0, eLocOut := 0 })

/-- 1,024 FCLK periods make 1 quarter watt of this many pJ, as a fraction over 3 (R6, R234). -/
def quarterWatt (s : State) : Nat := if s.aon.rootAck then 640000 else 320000

/-- The new level from the old, and whether the load was low (R235). -/
def govLevelOf (level low num unit cap hyst : Nat) : Nat × Nat :=
  let low := if num + hyst * unit < cap * unit then low + 1 else 0
  if 5 * cap * unit < 4 * num then (min 15 (level + 4), low)
  else if cap * unit < num then (min 15 (level + 1), low)
  else if 4 ≤ low then (level - 1, low)
  else (level, low)

/-- The decision for the epoch whose figures are in, and the level relayed to every router reached. `t`: the tick at which
it applies. -/
def governor (s : State) (t : Nat) : State :=
  let unit := quarterWatt s
  let missing := (List.finRange 96).foldl (fun n r => if routerReached s r then n else n + energyBusy s r) 0
  let num := govStatic s * unit + 3 * (s.herd.govFigures + missing)
  let r := govLevelOf s.herd.govLevel s.herd.govLow num unit (govCap s) (govHyst s)
  let hot := s.herd.govLevel == 15 && decide (govCap s * unit < num) &&
    (match s.herd.govSat with
     | some e => decide (e + 1024 ≤ s.herd.epoch)
     | none => true)
  let s := if hot then
      updHerd (repDie s .govSaturated (num / unit % 65536)) (fun h => { h with govSat := some h.epoch })
    else s
  let s := updHerd s (fun h => { h with govLevel := r.1, govLow := r.2, govFigures := 0 })
  updAllR s (fun q x => if routerReached s q then { x with govNext := some (r.1, t) } else x)

/-- A relayed level whose tick has come is in force (R235). -/
def applyLevel (s : State) (r : RouterId) : State :=
  match (rtr s r).govNext with
  | some (l, t) => if t ≤ epochR s r then updR s r (fun x => { x with govLevel := l, govNext := none }) else s
  | none => s

/-- GOVERNOR_LEVEL_APPLY (R235): the router's own arrival of the tick. -/
def execGovernorLevelApply (r : RouterId) (s : State) : Host.Outcome State Fault Refusal :=
  .next (if routerRuns s r then applyLevel s r else s)

/-! ### The Herdsman's tick (R210) -/

/-- The tick is on its way to every cluster (R210), and a ring token to every sector's milk round (R335). -/
def sendTick (s : State) : State :=
  updHerd s (fun h => { h with
    tickDue := BitVec.allOnes 24
    rounds := tmap h.rounds (fun _ x =>
      if x.reachable && !x.tokenStopped then { x with tokens := x.tokens + 1 } else x) })

/-- HERDSMAN_TICK (R210): no tick is issued in a return from RETAIN before its last step (R407). -/
def execHerdsmanTick (s : State) : Host.Outcome State Fault Refusal :=
  .next (if !herdRuns s || s.aon.retStep.isSome then s
    else
      let t := (s.herd.epoch + 1) % 2 ^ 48
      let s := governor s t
      let s := updHerd s (fun h => { h with epoch := t, tickDbg := h.dbgAuth })
      let s := armUnits (coordTick s t)
      let s := flushCan s
      let s := crockTick s
      let s := swapDone (swapCancel (armAgents (copyTick (sendTick s))))
      ringMoveNext (retainAccept s))

/-! ### A cluster's tick (R211, R213) -/

/-- The counter after a tick that carries `low`: the nearest value with those bits, the higher of two (R211). -/
def tickTo (count low : Nat) : Nat :=
  let d := (low + 16 - count % 16) % 16
  if d ≤ 8 then count + d else if count + d < 16 then count + d else count + d - 16

/-- What an NI whose clock runs does at its tick: it sees its reset input and the debug input, counts its idle and its
partial packet's time, and puts flow entries in force (R169, R103, R142, R227). -/
def tickNi (s : State) (n : Slot) : State :=
  let s := meterTick (syncReset s n) n
  resumeStore (updN s n (fun x => { x with
    dbgAuth := s.herd.tickDbg, idle := x.idle + 1
    partialTicks := if x.partialReq.isSome then x.partialTicks + 1 else 0 })) n

/-- What a router does at its tick, its NIs' configuration with it (R213, R333, R235). -/
def tickRouter (s : State) (r : RouterId) : State :=
  let s := applyLevel (swapApply s r) r
  (routerUnits r).foldl applySels s

/-- The retrain that a FAILING lane has asked for (R269). -/
def tickEnd (s : State) (e : LinkEnd) : State :=
  match (spn s e).retrainAt with
  | some t => if t ≤ epochR s (hubAt e) then startRetrain s e else s
  | none => s

/-- Something is armed for this tick at a gated cluster (R401). -/
def armedHere (s : State) (c : ClusterId) : Bool :=
  (clusterRouters c).any (fun r => (rtr s r).armed.any (fun a => decide (a.1 ≤ epochR s r)) || (latchDue s r).isSome)

/-- The latch of a snapshot tick that a correction has skipped (R211). -/
def skippedLatch (s : State) (c : ClusterId) (from_ to_ : Nat) : State :=
  match s.dip.seq.bind (fun q => q.armed.map (fun a => (q, a.1))) with
  | some (q, t) =>
    if from_ ≤ t ∧ t < to_ then
      (clusterRouters c).foldl (fun s r =>
        if armedFor q r t && tget s.dip.latched r != t + 1 then latchRouter s t r else s) s
    else s
  | none => s

/-- The sector whose row steward carries a cluster's report (R34). DESIGN CHOICE: the lower-numbered of the cluster's two
that the Herdsman reaches. -/
def clusterVoice (s : State) (c : ClusterId) : BitVec 8 :=
  let secs := clusterSectors c
  match (secs.find? (sectorOk s)).or secs.head? with
  | some n => secBit n
  | none => 0

/-- A tick whose epoch number modulo 64 is 32 has come or was skipped, and has not come before: closes are due again
(R191, R211). -/
def repeatsDue (s : State) (c : ClusterId) (t : Nat) : State :=
  let top := tget s.recov.epochTop c
  let s := updRecov s (fun v => { v with epochTop := tupd v.epochTop c (fun e => max e t) })
  if (top + 32) / 64 < (t + 32) / 64 then
    (clusterSlots c).foldl (fun s n => updN s n (fun x => { x with repeatDue := true })) s
  else s

/-- The counter at a tick that carries `low` (R211, R466): a correction is reported, the second in succession as
TICK_LOST. -/
def countTick (s : State) (c : ClusterId) (low : Nat) : State :=
  let count := tget s.epochs c + 1
  let t := tickTo count low
  let slip := t != count
  let again := slip && s.recov.slipped.getLsbD c.val
  let s := { s with epochs := tupd s.epochs c (fun _ => t % 2 ^ 48) }
  let s := updRecov s (fun v => { v with slipped := setField v.slipped c.val 1 slip.toNat })
  let rep (s : State) (ev : EventCode) (d : Nat) : State :=
    report s (mkEvent ev .cluster c.val (clusterVoice s c) t (BitVec.ofNat 32 d) 0)
  let s := if slip then rep s .tickSlip (count % 65536 * 65536 + low) else s
  repeatsDue (if again then rep s .tickLost 0 else s) c t

/-- What a running cluster does at its tick (R213): latches first, then what the tick puts in force. -/
def tickWork (s : State) (c : ClusterId) (from_ to_ : Nat) : State :=
  let s := latchCluster (skippedLatch s c from_ to_) c
  let s := (clusterRouters c).foldl tickRouter s
  let s := (clusterSlots c).foldl tickNi s
  let s := (clusterRouters c).foldl sendEnergy s
  churnTick ((clusterEnds c).foldl tickEnd s) c

/-- A cluster takes the tick that carries `low`. Its host-link NIs write their markers while it is gated too (R353). -/
def clusterTick (s : State) (c : ClusterId) (low : Nat) : State :=
  let count := tget s.epochs c + 1
  let s := countTick s c low
  let drowse := s.aon.mode == .drowse
  let s := if drowse && !armedHere s c then s else ungate s c
  let s := updAon s (fun a => { a with drowseWhey := setField a.drowseWhey c.val 1 drowse.toNat })
  let s := (clusterSlots c).foldl (fun s n => putMarkers s n (mkMarker (epochN s n))) s
  if clusterRuns s c then tickWork s c count (tickTo count low) else s

/-- CLUSTER_TICK (R210, R211): the tick that the Herdsman sent reaches the cluster. A gated cluster counts it too
(R400); one held in reset does not. -/
def execClusterTick (c : ClusterId) (s : State) : Host.Outcome State Fault Refusal :=
  .next (if clocksRun s && !s.recov.dead.getLsbD c.val && (clusterRec s c).all (fun x => decide (5 ≤ x.step)) &&
        s.herd.tickDue.getLsbD c.val then
      clusterTick (updHerd s (fun h => { h with tickDue := setField h.tickDue c.val 1 0 })) c (s.herd.epoch % 16)
    else s)

/-! ### The always-on clock -/

/-- One cycle of the free-running ACLK counter (R406), the one thing that moves when no command waits. -/
def aclkCycle (s : State) : State := updAon s (fun a => { a with aclk := a.aclk + 1 })

end Sys2Proof.Machine
end

