-- ==== Sys2Proof/Machine/Boot.lean ====
section
/-! DEFINITION. Hard and warm reset (R395, R433, R510), the boot-default load (R499, R512–R514), and the test port
(R500, R501). -/

namespace Sys2Proof.Machine

/-! ### Resets (R395) -/

/-- What every reset of the fabric does: routers, NIs, links, Herdsman and Dipper at their reset values; the levels that
endpoints and the debug input drive stand, and so does what the Crock holds. -/
def resetFabric (s : State) : State :=
  { s with
    routers := tabOf Router.reset
    nis := tmap s.nis (fun _ x => { NI.reset0 with reset := x.resetPin, resetPin := x.resetPin, ready := x.ready })
    spine := tabOf SpineEnd.reset
    epochs := tabAll 24 0, cfgA := [], cfgB := []
    herd := { Herd.reset with dbgAuth := s.aon.dbgAuth }
    dip := Dipper.reset
    can := { (canWiped s).can with
      resetNotice := true, paused := false, lanes := tmap s.can.lanes (fun _ l => { l with owed := [] }) }
    churn := { Churn.reset with bad := s.churn.bad.filter (fun b => b.2.1 == 5) }
    recov := Recovery.reset }

/-- MCLK is stopped for RETAIN alone (R495). -/
def mclkOnly (a : Aon) : BitVec 26 := setField 0 25 1 (a.clkReq.getLsbD 25 || a.mode == .retain).toNat

/-- HARD_RESET (R395): the always-on island is reset too, and with it the test port; input levels stand. -/
def execHardReset (s : State) : Host.Outcome State Fault Refusal :=
  let a := s.aon
  .next { resetFabric s with
    aon := { Aon.reset with
      wakeIn := a.wakeIn, epWake := a.epWake, freezePin := a.freezePin, dbgAuth := a.dbgAuth, pwrAck := a.pwrAck
      clkReq := mclkOnly a, clkAck := a.clkAck, rootAck := a.rootAck, crkBoot := a.crkBoot } }

/-- WARM_RESET (R395): the island keeps its registers and goes to RESET. In TEST, which a hard reset alone ends, the
assertion of FAB_RST_N raises its notice to the Can (R354) and does nothing else. RATE and the pause stand (R442). -/
def execWarmReset (s : State) : Host.Outcome State Fault Refusal :=
  let a := s.aon
  .next (if a.mode == .test then updCan s (fun c => { c with resetNotice := true })
    else
      let f := resetFabric s
      let t : State := { f with
        churn := { f.churn with rate := s.churn.rate, paused := s.churn.paused }
        aon := { a with
          mode := .reset, warm := true, resetDone := false, clkReq := mclkOnly a, rootSel := false, epRec := 0
          bootWords := [], bootFailed := 0, bootFirst := 0, modeReq := none, latch := none, armedLatch := false
          exitStep := none, retStep := none, joined := [], gated := 0, drowseWhey := 0, pwrDue := none } }
      updAon t (fun b => driveCodes b (codesOf t .reset)))

/-- SUPPLY_POWER_ON (R473): the Crock's contents, valid bits and registers are cleared. -/
def execSupplyPowerOn (s : State) : Host.Outcome State Fault Refusal :=
  .next (updAon (updChurn { s with crock := Crock.reset } (fun c => { c with
    bad := c.bad.filter (fun b => b.2.1 != 5), engines := c.engines.filter (fun e => e.bank.table != 5) }))
    (fun a => { a with crkBoot := true }))

/-! ### The boot-default load (R499, R511–R514) -/

/-- The next boot-default word is answered, or is not. -/
def bootWord (s : State) (ans : OtsAnswer) : State :=
  if s.aon.mode != .reset || decide (256 ≤ s.aon.bootWords.length) then s
  else updAon s (fun a => match ans with
    | .data w => { a with bootWords := a.bootWords ++ [some w] }
    | _ => { a with
        bootWords := a.bootWords ++ [none], bootFailed := satAdd 255 a.bootFailed 1
        bootFirst := if a.bootFailed = 0 then a.bootWords.length else a.bootFirst })

/-- BOOT_WORD_READ (R499). -/
def execBootWordRead (ans : OtsAnswer) (s : State) : Host.Outcome State Fault Refusal := .next (bootWord s ans)

/-- OTS_TIMEOUT (R497): an operation that is not acknowledged within 1 ms has failed. -/
def execOtsTimeout (port : OtsPort) (s : State) : Host.Outcome State Fault Refusal :=
  .next (match port with
    | .can => if canRuns s then otsAnswer s .timeout else s
    | .boot => bootWord s .timeout)

/-- The records that are valid and whole: window offset and value (R512). -/
def bootRecords (ws : List (Option Word)) : List (Nat × Word) :=
  (List.range 128).filterMap (fun i => match ws.getD (2 * i) none, ws.getD (2 * i + 1) none with
    | some a, some v => if a.getLsbD 63 then some (field a 0 16, v) else none
    | _, _ => none)

/-- What becomes of a record: none where it is rejected, false where R510 skips it (R514). -/
def bootTakes (a : Aon) (off : Nat) : Option Bool :=
  let p := off / 4096
  if 5 ≤ p then none
  else if p = 2 then some (!a.warm)
  else if p = 4 then some a.crkBoot
  else some true

/-- Apply one record (R513); the counts are those of records applied and rejected. -/
def bootRecord (acc : State × Nat × Nat) (r : Nat × Word) : State × Nat × Nat :=
  match bootTakes acc.1.aon r.1 with
  | none => (acc.1, acc.2.1, acc.2.2 + 1)
  | some false => acc
  | some true => (winAnswered (writeReg acc.1 r.1 r.2 false), acc.2.1 + 1, acc.2.2)

/-- FAB_BOOT_STATUS (R511). -/
def bootStatus (a : Aon) (applied rejected : Nat) : Word :=
  let w : Word := setField 0 63 1 1
  let w := setField w 62 1 (decide (0 < a.bootFailed)).toNat
  let w := setField w 48 8 a.bootFailed
  let w := setField w 40 8 a.bootFirst
  setField (setField w 8 8 rejected) 0 8 applied

/-- RESET_SEQUENCE_COMPLETE (R395): every boot word has been asked for; defaults are loaded, clocks start, links train,
the mode is TRAIN, and a FREEZE request that waited is taken (R425). -/
def execResetSequenceComplete (s : State) : Host.Outcome State Fault Refusal :=
  .next (if s.aon.mode != .reset || decide (s.aon.bootWords.length < 256) then s
    else
      let r := (bootRecords s.aon.bootWords).foldl bootRecord (s, 0, 0)
      let s := updHerd r.1 (fun h => { h with bootStatus := bootStatus r.1.aon r.2.1 r.2.2 })
      let s := updAon s (fun a => { a with
        mode := .train, resetDone := true, crkBoot := false, warm := false
        clkReq := BitVec.allOnes 26, clkAck := BitVec.allOnes 26 })
      let s := (List.finRange 12).foldl startTraining (setPorts s)
      if freezeAsked s then freezeNow s else s)

/-! ### The test port (R500, R501) -/

def tapSelect (s : State) (code : BitVec 8) (dr : BitVec 714) : State :=
  updAon s (fun a => { a with tapIr := code, tapDr := dr })

/-- IDCODE (R501). -/
def idcodeWord : BitVec 32 := 0x1#4 ++ 0x2C0C#16 ++ Config.tapMfr ++ 1#1
def execIdcode (s : State) : Host.Outcome State Fault Refusal := .next (tapSelect s 0x01 (idcodeWord.setWidth 714))

/-- TEST_ENTRY (R501, R395). -/
def execTestEntry (bit : Bool) (s : State) : Host.Outcome State Fault Refusal :=
  let t := tapSelect s 0x10 (BitVec.ofNat 714 bit.toNat)
  .next (if bit && s.aon.mode == .reset then enterMode t .test else t)

/-- FRZ_HOLD (R425, R501): a hold set without authorisation is ignored. -/
def execFrzHold (bit : Bool) (s : State) : Host.Outcome State Fault Refusal :=
  let t := if bit then
      (if s.aon.dbgAuth then freezeNow (updAon s (fun a => { a with freezeHold := true })) else s)
    else thawNow (updAon s (fun a => { a with freezeHold := false }))
  .next (tapSelect t 0x20 (BitVec.ofNat 714 t.aon.freezeHold.toNat))

/-- The Crock's entries with their valid bits (R476). -/
def openEntries (s : State) : List (Nat × BitVec 128 × Bool) :=
  (List.range 4096).map (fun i => (i, crockGet s.crock i, crockValid s.crock i))

/-- The other values that a readout yields without authorisation (R428, R476, R368): NEXT, OLDEST, TRIG_IDX, CRK_LOST, the
PWR_ registers, and the Can's digest. -/
def openFields (s : State) : List Nat :=
  let c := s.can
  [s.crock.next, crockOldest s.crock, s.crock.trigIdx, s.crock.lost] ++
  (List.range 24).map (fun i => (readPwr s (8 * i)).toNat) ++
  [3, c.sealed.toNat, c.keyOk.toNat, c.sealEvents.toNat, c.session.toNat, c.lastDone.toNat, c.lastMac.toNat]

/-- FRZ_READ (R428, R476): in FREEZE the chain of a segment, whose layout the manual does not give: of all state while
debug is authorised, else of the open fields; in any other mode zeros. -/
def execFrzRead (seg : BitVec 16) (s : State) : Host.Outcome State Fault Refusal :=
  .next (if s.aon.mode == .freeze then
      if s.aon.dbgAuth then { tapSelect s 0x21 (Config.readout s.drawn) with drawn := s.drawn + 1 }
      else tapSelect s 0x21 (Config.openChain seg (openEntries s) (openFields s))
    else tapSelect s 0x21 0)

/-- The 712 wires of a flit (R39). -/
def flitWires (f : Flit) : BitVec 712 := f.par ++ f.ctl ++ f.chk ++ f.dat

/-- The next flit on slot 191's response channel, and the channel without it. -/
def nextOut : List EpOut → Option (Flit × List EpOut)
  | .rsp (f :: g :: t) :: rest => some (f, .rsp (g :: t) :: rest)
  | .rsp [f] :: rest => some (f, rest)
  | .inb (f :: g :: t) :: rest => some (f, .inb (g :: t) :: rest)
  | .inb [f] :: rest => some (f, rest)
  | .err k st op lost :: rest => (nextOut rest).map (fun r => (r.1, .err k st op lost :: r.2))
  | _ => none

/-- A flit that slot 191 sends with ANS set: the answer is acted on when it is whole (R485). -/
def tapAnswer (s : State) (flit : Flit) : State :=
  let p := if isHead flit then [flit] else s.aon.tapAns ++ [flit]
  if p.length ≤ fLen (hd p) then updAon s (fun a => { a with tapAns := p })
  else answerStep (updAon s (fun a => { a with tapAns := [] })) 191 p

/-- DBG_MASTER (R501): Update-DR presents a flit for slot 191, Capture-DR takes the next flit of its response channel. -/
def execDbgMaster (flit : Flit) (ans : Bool) (fetch : Bool) (s : State) : Host.Outcome State Fault Refusal :=
  let t := if ans then tapAnswer s flit
    else if isHead flit then presentAny s 191 fetch [flit]
    else match openOp (nif s 191) with
      | some op => present s 191 op fetch [flit]
      | none => presentAny s 191 fetch [flit]
  let r := nextOut (nif t 191).out
  .next (match r with
    | some (f, rest) =>
      tapSelect (updN t 191 (fun x => { x with out := rest })) 0x30 ((flitWires f).setWidth 714)
    | none => tapSelect t 0x30 0)

/-- BYPASS (R501): also every code that the table does not list. -/
def execBypass (code : BitVec 8) (s : State) : Host.Outcome State Fault Refusal :=
  .next (if [0x01, 0x10, 0x20, 0x21, 0x30].contains code.toNat then s else tapSelect s code 0)

/-- TAP_RESET (R500): the port's registers return to their reset values, and a debug freeze hold is gone. -/
def execTapReset (s : State) : Host.Outcome State Fault Refusal :=
  .next (thawNow (updAon s (fun a => { a with tapIr := 0x01, tapDr := 0, tapAns := [], freezeHold := false })))

end Sys2Proof.Machine
end

