-- ==== Sys2Proof/Machine/Dispatch.lean ====
section
/-! DEFINITION. The meaning of each command: one arm a constructor. -/

namespace Sys2Proof.Machine

def exec (i : Instr) (s : State) : Host.Outcome State Fault Refusal :=
  match i with
  | .hardReset => Sys2Proof.Machine.execHardReset s
  | .warmReset => Sys2Proof.Machine.execWarmReset s
  | .resetSequenceComplete => Sys2Proof.Machine.execResetSequenceComplete s
  | .bootWordRead ans => Sys2Proof.Machine.execBootWordRead ans s
  | .mtrRst => Sys2Proof.Machine.execMtrRst s
  | .otsMAnswer ans => Sys2Proof.Machine.execOtsMAnswer ans s
  | .otsTimeout port => Sys2Proof.Machine.execOtsTimeout port s
  | .herdsmanTick => Sys2Proof.Machine.execHerdsmanTick s
  | .clusterTick c => Sys2Proof.Machine.execClusterTick c s
  | .governorLevelApply r => Sys2Proof.Machine.execGovernorLevelApply r s
  | .headFlitArrival r p k dist laDist => Sys2Proof.Machine.execHeadFlitArrival r p k dist laDist s
  | .switchAllocation r ports k => Sys2Proof.Machine.execSwitchAllocation r ports k s
  | .creditReturn u vc => Sys2Proof.Machine.execCreditReturn u vc s
  | .escEntry r p vc k => Sys2Proof.Machine.execEscEntry r p vc k s
  | .rdLine n k fetch pkt => Sys2Proof.Machine.execRdLine n k fetch pkt s
  | .rdSpray n k fetch pkt => Sys2Proof.Machine.execRdSpray n k fetch pkt s
  | .wrFullP n k pkt => Sys2Proof.Machine.execWrFullP n k pkt s
  | .wrFullNp n k pkt => Sys2Proof.Machine.execWrFullNp n k pkt s
  | .wrPartP n k pkt => Sys2Proof.Machine.execWrPartP n k pkt s
  | .wrPartNp n k pkt => Sys2Proof.Machine.execWrPartNp n k pkt s
  | .atAdd n k pkt => Sys2Proof.Machine.execAtAdd n k pkt s
  | .atMin n k pkt => Sys2Proof.Machine.execAtMin n k pkt s
  | .atMax n k pkt => Sys2Proof.Machine.execAtMax n k pkt s
  | .atSwap n k pkt => Sys2Proof.Machine.execAtSwap n k pkt s
  | .atCas n k pkt => Sys2Proof.Machine.execAtCas n k pkt s
  | .lkAcq n k pkt => Sys2Proof.Machine.execLkAcq n k pkt s
  | .lkRel n k pkt => Sys2Proof.Machine.execLkRel n k pkt s
  | .fnStoreT n k pkt => Sys2Proof.Machine.execFnStoreT n k pkt s
  | .fnStoreG n k pkt => Sys2Proof.Machine.execFnStoreG n k pkt s
  | .fnFullT n k pkt => Sys2Proof.Machine.execFnFullT n k pkt s
  | .fnFullG n k pkt => Sys2Proof.Machine.execFnFullG n k pkt s
  | .msgIntr n k pkt => Sys2Proof.Machine.execMsgIntr n k pkt s
  | .msgMail n k pkt => Sys2Proof.Machine.execMsgMail n k pkt s
  | .epochClose n k pkt => Sys2Proof.Machine.execEpochClose n k pkt s
  | .malformed n k pkt => Sys2Proof.Machine.execMalformed n k pkt s
  | .meterHoldRetry n k => Sys2Proof.Machine.execMeterHoldRetry n k s
  | .requestStep5Resume n k => Sys2Proof.Machine.execRequestStep5Resume n k s
  | .pieceInject n k => Sys2Proof.Machine.execPieceInject n k s
  | .endpointAbandon n => Sys2Proof.Machine.execEndpointAbandon n s
  | .abandonRemainderDiscard n flit => Sys2Proof.Machine.execAbandonRemainderDiscard n flit s
  | .prematureHead n k fetch pkt => Sys2Proof.Machine.execPrematureHead n k fetch pkt s
  | .inboundRequest n vc => Sys2Proof.Machine.execInboundRequest n vc s
  | .ordGap n src => Sys2Proof.Machine.execOrdGap n src s
  | .inboundDiscard n => Sys2Proof.Machine.execInboundDiscard n s
  | .inboundDiscardEnd n => Sys2Proof.Machine.execInboundDiscardEnd n s
  | .inboundOffer n => Sys2Proof.Machine.execInboundOffer n s
  | .atomicExecute n => Sys2Proof.Machine.execAtomicExecute n s
  | .atomicReadReturn n entry line st => Sys2Proof.Machine.execAtomicReadReturn n entry line st s
  | .atomicWritebackAck n entry st => Sys2Proof.Machine.execAtomicWritebackAck n entry st s
  | .lockTableAcquire n => Sys2Proof.Machine.execLockTableAcquire n s
  | .lockTableRelease n => Sys2Proof.Machine.execLockTableRelease n s
  | .lockLease n => Sys2Proof.Machine.execLockLease n s
  | .ownerGenerationChange n src => Sys2Proof.Machine.execOwnerGenerationChange n src s
  | .lockReopenWindowEnd n => Sys2Proof.Machine.execLockReopenWindowEnd n s
  | .endpointAnswer n pkt => Sys2Proof.Machine.execEndpointAnswer n pkt s
  | .responseArrival n vc => Sys2Proof.Machine.execResponseArrival n vc s
  | .responseDelivery n => Sys2Proof.Machine.execResponseDelivery n s
  | .fenceComplete n => Sys2Proof.Machine.execFenceComplete n s
  | .tagLost n tag => Sys2Proof.Machine.execTagLost n tag s
  | .quarantineEnd n tag => Sys2Proof.Machine.execQuarantineEnd n tag s
  | .epResetAssert n => Sys2Proof.Machine.execEpResetAssert n s
  | .epResetRelease n => Sys2Proof.Machine.execEpResetRelease n s
  | .requestReadyRise n => Sys2Proof.Machine.execRequestReadyRise n s
  | .epReadyChange n level => Sys2Proof.Machine.execEpReadyChange n level s
  | .epExc n => Sys2Proof.Machine.execEpExc n s
  | .dbFwd => Sys2Proof.Machine.execDbFwd s
  | .ringPoll homes => Sys2Proof.Machine.execRingPoll homes s
  | .commandFetch ring entries => Sys2Proof.Machine.execCommandFetch ring entries s
  | .commandIndexRecheck ring entry => Sys2Proof.Machine.execCommandIndexRecheck ring entry s
  | .commandStart ring => Sys2Proof.Machine.execCommandStart ring s
  | .nop ring => Sys2Proof.Machine.execNop ring s
  | .cfgWrite ring block => Sys2Proof.Machine.execCfgWrite ring block s
  | .cfgCopy ring => Sys2Proof.Machine.execCfgCopy ring s
  | .cfgSwap ring => Sys2Proof.Machine.execCfgSwap ring s
  | .cfgRead ring => Sys2Proof.Machine.execCfgRead ring s
  | .cfgSwapCancel => Sys2Proof.Machine.execCfgSwapCancel s
  | .cfgSwapApply r => Sys2Proof.Machine.execCfgSwapApply r s
  | .gateLoad ring block => Sys2Proof.Machine.execGateLoad ring block s
  | .gateSwap ring => Sys2Proof.Machine.execGateSwap ring s
  | .gateFence ring => Sys2Proof.Machine.execGateFence ring s
  | .meterProg ring block => Sys2Proof.Machine.execMeterProg ring block s
  | .meterEntryApply n => Sys2Proof.Machine.execMeterEntryApply n s
  | .snapshot ring => Sys2Proof.Machine.execSnapshot ring s
  | .setRate ring => Sys2Proof.Machine.execSetRate ring s
  | .pause ring => Sys2Proof.Machine.execPause ring s
  | .resume ring => Sys2Proof.Machine.execResume ring s
  | .status ring => Sys2Proof.Machine.execStatus ring s
  | .reloaded ring => Sys2Proof.Machine.execReloaded ring s
  | .crockDrain ring => Sys2Proof.Machine.execCrockDrain ring s
  | .linkCtl ring => Sys2Proof.Machine.execLinkCtl ring s
  | .modeReqServe ring => Sys2Proof.Machine.execModeReqServe ring s
  | .modeReqDrowse ring => Sys2Proof.Machine.execModeReqDrowse ring s
  | .modeReqRetain ring => Sys2Proof.Machine.execModeReqRetain ring s
  | .enable ring block => Sys2Proof.Machine.execEnable ring block s
  | .change ring block => Sys2Proof.Machine.execChange ring block s
  | .disable ring => Sys2Proof.Machine.execDisable ring s
  | .msgSendIntr ring => Sys2Proof.Machine.execMsgSendIntr ring s
  | .msgSendMail ring block => Sys2Proof.Machine.execMsgSendMail ring block s
  | .ringMove ring block => Sys2Proof.Machine.execRingMove ring block s
  | .commandComplete ring => Sys2Proof.Machine.execCommandComplete ring s
  | .publishBatch ring k => Sys2Proof.Machine.execPublishBatch ring k s
  | .publishIndex ring => Sys2Proof.Machine.execPublishIndex ring s
  | .ringInterrupt ring => Sys2Proof.Machine.execRingInterrupt ring s
  | .mgRd sec stop words dist => Sys2Proof.Machine.execMgRd sec stop words dist s
  | .mgWr sec stop words dist => Sys2Proof.Machine.execMgWr sec stop words dist s
  | .mgResp sec dist => Sys2Proof.Machine.execMgResp sec dist s
  | .mgEvent sec words dist => Sys2Proof.Machine.execMgEvent sec words dist s
  | .mgFrameTimeout sec tag => Sys2Proof.Machine.execMgFrameTimeout sec tag s
  | .stewardLost sec silent => Sys2Proof.Machine.execStewardLost sec silent s
  | .sectorReturn sec => Sys2Proof.Machine.execSectorReturn sec s
  | .eventReport => Sys2Proof.Machine.execEventReport s
  | .eventMergeClose => Sys2Proof.Machine.execEventMergeClose s
  | .spineUpUpdate r => Sys2Proof.Machine.execSpineUpUpdate r s
  | .doorbellWindowUpdate n w => Sys2Proof.Machine.execDoorbellWindowUpdate n w s
  | .groupStateChange n g => Sys2Proof.Machine.execGroupStateChange n g s
  | .dbgAuthChange level => Sys2Proof.Machine.execDbgAuthChange level s
  | .epochCloseInject n g => Sys2Proof.Machine.execEpochCloseInject n g s
  | .epochCloseArrival => Sys2Proof.Machine.execEpochCloseArrival s
  | .closeRepeat n => Sys2Proof.Machine.execCloseRepeat n s
  | .commitRepeat => Sys2Proof.Machine.execCommitRepeat s
  | .cmCommit n => Sys2Proof.Machine.execCmCommit n s
  | .curdMemberCommit n g => Sys2Proof.Machine.execCurdMemberCommit n g s
  | .curdRelease n g => Sys2Proof.Machine.execCurdRelease n g s
  | .curdEpochReleased n g => Sys2Proof.Machine.execCurdEpochReleased n g s
  | .curdReleaseResume n => Sys2Proof.Machine.execCurdReleaseResume n s
  | .vatSpill n => Sys2Proof.Machine.execVatSpill n s
  | .vatDrain n => Sys2Proof.Machine.execVatDrain n s
  | .vatData n => Sys2Proof.Machine.execVatData n s
  | .spineRecordSend e k => Sys2Proof.Machine.execSpineRecordSend e k s
  | .dataSfuReceive e k dist => Sys2Proof.Machine.execDataSfuReceive e k dist s
  | .linkSfuReceive e k dist => Sys2Proof.Machine.execLinkSfuReceive e k dist s
  | .nakRepeat e k => Sys2Proof.Machine.execNakRepeat e k s
  | .ackDue e k => Sys2Proof.Machine.execAckDue e k s
  | .replayTimeout e k => Sys2Proof.Machine.execReplayTimeout e k s
  | .laneLockLoss e lane => Sys2Proof.Machine.execLaneLockLoss e lane s
  | .laneFailing e lane => Sys2Proof.Machine.execLaneFailing e lane s
  | .linkTrainingComplete e lanes far => Sys2Proof.Machine.execLinkTrainingComplete e lanes far s
  | .linkTrainingTimeout e => Sys2Proof.Machine.execLinkTrainingTimeout e s
  | .linkRetrainComplete e lanes => Sys2Proof.Machine.execLinkRetrainComplete e lanes s
  | .linkRetrainFail e => Sys2Proof.Machine.execLinkRetrainFail e s
  | .lockLossExpiry e => Sys2Proof.Machine.execLockLossExpiry e s
  | .linkDown l => Sys2Proof.Machine.execLinkDown l s
  | .linkDownRetry e => Sys2Proof.Machine.execLinkDownRetry e s
  | .returnWaitExpiry e => Sys2Proof.Machine.execReturnWaitExpiry e s
  | .returnETimeout e => Sys2Proof.Machine.execReturnETimeout e s
  | .returnPortReinject q k => Sys2Proof.Machine.execReturnPortReinject q k s
  | .linkEnOff l => Sys2Proof.Machine.execLinkEnOff l s
  | .spineNoRoute q => Sys2Proof.Machine.execSpineNoRoute q s
  | .tallyWord lane dist => Sys2Proof.Machine.execTallyWord lane dist s
  | .tallyMarker lane dist => Sys2Proof.Machine.execTallyMarker lane dist s
  | .reportClose => Sys2Proof.Machine.execReportClose s
  | .laneAbsentTimeout => Sys2Proof.Machine.execLaneAbsentTimeout s
  | .reportWrite => Sys2Proof.Machine.execReportWrite s
  | .reportTrailer => Sys2Proof.Machine.execReportTrailer s
  | .meterResetNotice => Sys2Proof.Machine.execMeterResetNotice s
  | .canScrub bad => Sys2Proof.Machine.execCanScrub bad s
  | .meterClock => Sys2Proof.Machine.execMeterClock s
  | .mtrSeal v => Sys2Proof.Machine.execMtrSeal v s
  | .mtrUnseal v sealOpen => Sys2Proof.Machine.execMtrUnseal v sealOpen s
  | .unsealConfirm ans => Sys2Proof.Machine.execUnsealConfirm ans s
  | .sealedWrite off v => Sys2Proof.Machine.execSealedWrite off v s
  | .mtrTmapData v => Sys2Proof.Machine.execMtrTmapData v s
  | .mtrRptNow v => Sys2Proof.Machine.execMtrRptNow v s
  | .mtrDebugAccess off => Sys2Proof.Machine.execMtrDebugAccess off s
  | .dipSelData v => Sys2Proof.Machine.execDipSelData v s
  | .selectionApply u => Sys2Proof.Machine.execSelectionApply u s
  | .snapshotLatch c => Sys2Proof.Machine.execSnapshotLatch c s
  | .dipperGather => Sys2Proof.Machine.execDipperGather s
  | .dipperPublish => Sys2Proof.Machine.execDipperPublish s
  | .gatherAbandon => Sys2Proof.Machine.execGatherAbandon s
  | .scrubLine b row seen => Sys2Proof.Machine.execScrubLine b row seen s
  | .scrubForce b row seen => Sys2Proof.Machine.execScrubForce b row seen s
  | .bankCopyDone b => Sys2Proof.Machine.execBankCopyDone b s
  | .postedDrainDone => Sys2Proof.Machine.execPostedDrainDone s
  | .drainTimeout => Sys2Proof.Machine.execDrainTimeout s
  | .quietReached => Sys2Proof.Machine.execQuietReached s
  | .pwrcAck level => Sys2Proof.Machine.execPwrcAck level s
  | .pwrAckLate => Sys2Proof.Machine.execPwrAckLate s
  | .clkcRootAck level => Sys2Proof.Machine.execClkcRootAck level s
  | .clkcAck n level => Sys2Proof.Machine.execClkcAck n level s
  | .wakeEvent src => Sys2Proof.Machine.execWakeEvent src s
  | .epochAlarm => Sys2Proof.Machine.execEpochAlarm s
  | .drowseExit => Sys2Proof.Machine.execDrowseExit s
  | .retainReturn failed => Sys2Proof.Machine.execRetainReturn failed s
  | .clusterGate c k => Sys2Proof.Machine.execClusterGate c k s
  | .clusterUngate c => Sys2Proof.Machine.execClusterUngate c s
  | .freeze => Sys2Proof.Machine.execFreeze s
  | .thaw => Sys2Proof.Machine.execThaw s
  | .clusterClockLost c => Sys2Proof.Machine.execClusterClockLost c s
  | .routerStateUe r => Sys2Proof.Machine.execRouterStateUe r s
  | .niStateParity n => Sys2Proof.Machine.execNiStateParity n s
  | .cdcPtr n fifo => Sys2Proof.Machine.execCdcPtr n fifo s
  | .niRecoveryDone n failed => Sys2Proof.Machine.execNiRecoveryDone n failed s
  | .clusterRecoveryStep c failed => Sys2Proof.Machine.execClusterRecoveryStep c failed s
  | .clusterRecoveryRestart c => Sys2Proof.Machine.execClusterRecoveryRestart c s
  | .herdStateUe => Sys2Proof.Machine.execHerdStateUe s
  | .dieRecoveryStep failed => Sys2Proof.Machine.execDieRecoveryStep failed s
  | .fabLock v => Sys2Proof.Machine.execFabLock v s
  | .fabWin v => Sys2Proof.Machine.execFabWin v s
  | .stwRing r v => Sys2Proof.Machine.execStwRing r v s
  | .stwRingCtl v => Sys2Proof.Machine.execStwRingCtl v s
  | .stwDbw w v => Sys2Proof.Machine.execStwDbw w v s
  | .stwIrqMask v => Sys2Proof.Machine.execStwIrqMask v s
  | .stwIrqCause v => Sys2Proof.Machine.execStwIrqCause v s
  | .stwIntr ring isVal v => Sys2Proof.Machine.execStwIntr ring isVal v s
  | .dipSelStatus v => Sys2Proof.Machine.execDipSelStatus v s
  | .dipUserCtl reg v => Sys2Proof.Machine.execDipUserCtl reg v s
  | .crkRearm v => Sys2Proof.Machine.execCrkRearm v s
  | .pwrWakeCfg v => Sys2Proof.Machine.execPwrWakeCfg v s
  | .pwrAlarm v => Sys2Proof.Machine.execPwrAlarm v s
  | .pwrDrain v => Sys2Proof.Machine.execPwrDrain v s
  | .registerWrite off v mask => Sys2Proof.Machine.execRegisterWrite off v mask s
  | .idcode => Sys2Proof.Machine.execIdcode s
  | .testEntry bit => Sys2Proof.Machine.execTestEntry bit s
  | .frzHold bit => Sys2Proof.Machine.execFrzHold bit s
  | .frzRead seg => Sys2Proof.Machine.execFrzRead seg s
  | .dbgMaster flit ans fetch => Sys2Proof.Machine.execDbgMaster flit ans fetch s
  | .bypass code => Sys2Proof.Machine.execBypass code s
  | .tapReset => Sys2Proof.Machine.execTapReset s
  | .supplyPowerOn => Sys2Proof.Machine.execSupplyPowerOn s
  | .trainingPatternsSeen e => Sys2Proof.Machine.execTrainingPatternsSeen e s
  | .laneMarker e seen => Sys2Proof.Machine.execLaneMarker e seen s

end Sys2Proof.Machine
end

