-- ==== Sys2Proof/Safety.lean ====
section
/-! DEFINITION. The terms in which claims about the block are stated: what a command leaves unchanged, when a request
stands at an NI with nothing in its way, and what acceptance leaves behind. -/

namespace Sys2Proof.Safety

open Sys2Proof.Machine

/-! ### What is left unchanged -/

/-- The set-up side is as before: configuration sets, stored data, clocks and modes, recovery, the Crock, the free
values drawn and the queue of commands. -/
def sameRest (s t : State) : Prop :=
  t.epochs = s.epochs ∧ t.cfgA = s.cfgA ∧ t.cfgB = s.cfgB ∧ t.crock = s.crock ∧ t.aon = s.aon ∧ t.churn = s.churn ∧
  t.recov = s.recov ∧ t.drawn = s.drawn ∧ t.pending = s.pending

/-- The Herdsman is as before but for events handed to it. -/
def onlyReports (s t : State) : Prop := t.herd = { s.herd with reports := t.herd.reports }

/-- The Dipper is as before but for counting. -/
def onlyCounts (s t : State) : Prop :=
  t.dip = { s.dip with value := t.dip.value, ovf := t.dip.ovf, noted := t.dip.noted }

/-- The Can is as before but for words entering its tally lanes. -/
def onlyTallies (s t : State) : Prop := t.can = { s.can with lanes := t.can.lanes }

/-- Every NI but `n` is as before. -/
def otherNis (n : Slot) (s t : State) : Prop := ∀ m, m ≠ n → nif t m = nif s m

/-- Only NI `n` works: what a command at one NI leaves unchanged. -/
def niFrame (n : Slot) (s t : State) : Prop :=
  otherNis n s t ∧ t.routers = s.routers ∧ t.spine = s.spine ∧ sameRest s t ∧ onlyReports s t ∧ onlyCounts s t ∧
  onlyTallies s t

/-- An event of a code about a unit has been handed to the Herdsman. -/
def reported (s t : State) (code : EventCode) (kind : UnitKind) (num : Nat) : Prop :=
  ∃ before after ev, t.herd.reports = s.herd.reports ++ before ++ [ev] ++ after ∧ ev.code = code ∧ ev.kind = kind ∧
    ev.num = num

/-! ### Requests -/

/-- The rows that present requests for lines, each with its opcode and fetch qualifier. -/
def lineRows (n : Slot) (k : Nat) (fetch : Bool) (pkt : Packet) : List (Instr × BitVec 6 × Bool) :=
  [(.rdLine n k fetch pkt, opRdLine, fetch), (.rdSpray n k fetch pkt, opRdSpray, fetch),
   (.wrFullP n k pkt, opWrFullP, false), (.wrFullNp n k pkt, opWrFullNp, false),
   (.wrPartP n k pkt, opWrPartP, false), (.wrPartNp n k pkt, opWrPartNp, false),
   (.atAdd n k pkt, opAtAdd, false), (.atMin n k pkt, opAtMin, false), (.atMax n k pkt, opAtMax, false),
   (.atSwap n k pkt, opAtSwap, false), (.atCas n k pkt, opAtCas, false), (.lkAcq n k pkt, opLkAcq, false),
   (.lkRel n k pkt, opLkRel, false), (.msgIntr n k pkt, opMsgIntr, false), (.msgMail n k pkt, opMsgMail, false)]

/-- The rows that present fences. -/
def fenceRows (n : Slot) (k : Nat) (pkt : Packet) : List (Instr × BitVec 6) :=
  [(.fnStoreT n k pkt, opFnStoreT), (.fnStoreG n k pkt, opFnStoreG), (.fnFullT n k pkt, opFnFullT),
   (.fnFullG n k pkt, opFnFullG)]

/-- A packet passes its checks: the control parity of its flits, and INDEX and TAIL of its body flits (R50, R69, R70). -/
def clean (pkt : Packet) : Prop :=
  isHead (hd pkt) = true ∧ badGroups (hd pkt) = 0 ∧
  ∀ q ∈ pkt.zipIdx, 0 < q.2 → bodyBad (fLen (hd pkt)) q.2 q.1 = false

/-- No stored word is uncorrectable, and no valid-bit group fails its parity. -/
def soundWords (s : State) : Prop := s.churn.bad = [] ∧ s.churn.groupBad = []

/-- NI `n` has nothing to work on: its request FIFO and store are empty, and the Herdsman, or the Can, has no request for
it. -/
def storeIdle (s : State) (n : Slot) : Prop :=
  (nif s n).reqFifo = [] ∧ (nif s n).store = [] ∧ (n = herdSlot → s.herd.memOut = []) ∧
  (n = canSlot → s.can.memOut = [])

/-- The operand word of a head that the NI itself uses, a read's count or a close's word, stands without error (R42). -/
def operandClean (op : BitVec 6) (h : Flit) : Prop :=
  isRead op = true ∨ op = opEpochClose →
    eccDecode (word h (if op = opRdSpray then 1 else 0)) (chkByte h (if op = opRdSpray then 1 else 0)) = .clean

/-- A whole packet of a request stands at a running NI that takes it: it passes its checks, request FIFO and store are
empty, and no stored word is uncorrectable. -/
def offered (s : State) (n : Slot) (op : BitVec 6) (pkt : Packet) : Prop :=
  takesRequest s n pkt.length = true ∧ clean pkt ∧ fOp (hd pkt) = op ∧ operandClean op (hd pkt) ∧
  pkt.length = fLen (hd pkt) + 1 ∧ (nif s n).partialReq = none ∧ (nif s n).reqFifo = [] ∧ (nif s n).store = [] ∧
  storeRoom (nif s n) pkt.length = true ∧ closeHeld (nif s n) = false ∧ soundWords s

/-- The three checks of every line of a plan (R111 step 3). -/
def checksOf (s : State) (n : Slot) (op : BitVec 6) (fetch : Bool) (pkt : Packet) (plan : List LineMap) :
    List LineChk :=
  plan.zipIdx.map (fun (m, p) => checkLine s n op fetch (normHead n (hd pkt)) p m)

/-- Nothing refuses or holds a request whose lines are planned so: its lines pass their checks, and step 5 waits for
nothing. -/
def admitted (s : State) (n : Slot) (op : BitVec 6) (fetch : Bool) (pkt : Packet) (plan : List LineMap) : Prop :=
  let cs := checksOf s n op fetch pkt plan
  cs ≠ [] ∧ (∀ c ∈ cs, lcOk c = true) ∧ (nif s n).holdPosted = false ∧
  step5Waits s n op pkt cs (cutLines (fun c : LineChk => c.m) (if isPart op then 3 else 4) [] cs) 1 = false

/-- The flow of a packet is not policed at a host link (R223). -/
def unpoliced (s : State) (n : Slot) (pkt : Packet) : Prop :=
  (meterWord (nif s n) (Fin.ofNat 4096 (fTenant (normHead n (hd pkt)))).val false).getLsbD 63 = false

/-- What acceptance leaves at the NI (R112, R115, R139): the store is empty, the request's pieces wait to be injected,
and a request that is answered is entered with its endpoint tag. -/
def accepted (s t : State) (n : Slot) (op : BitVec 6) (pkt : Packet) : Prop :=
  (nif t n).store = [] ∧ (nif t n).nextReq = (nif s n).nextReq + 1 ∧
  (∃ ps : List Piece, ps ≠ [] ∧ (nif t n).inj = (nif s n).inj ++ ps ∧
    ∀ p ∈ ps, p.req = (nif s n).nextReq ∧ p.posted = isPosted op) ∧
  (if isPosted op then (nif t n).reqs = (nif s n).reqs
   else ∃ e : ReqEnt, (nif t n).reqs = (nif s n).reqs ++ [e] ∧ e.num = (nif s n).nextReq ∧ e.op = op ∧
     e.tag = fTag (normHead n (hd pkt)) ∧ e.done = 0)

/-! ### Commands of the rings -/

/-- Command `c`, of opcode `op`, is the one on which the rows of its ring act now. -/
def onTurn (s : State) (c : Cmd) (op : Nat) : Prop :=
  herdRuns s = true ∧ s.recov.die = none ∧ cmdOp c = op ∧
  s.herd.started.find? (fun d => d.ring == c.ring && !d.ran && d.result.isNone) = some c

/-- A started command has ended with a status, DETAIL and RESULT. -/
def ended (t : State) (ring : CmdRing) (index : Nat) (st : Status) (detail : BitVec 16) (res : BitVec 320) : Prop :=
  ∃ d ∈ t.herd.started, d.ring = ring ∧ d.index = index ∧ d.result = some (st, detail, res)

/-- The row of a started command has acted, and its end comes later. -/
def acted (t : State) (c : Cmd) : Prop :=
  ∃ d ∈ t.herd.started, d.ring = c.ring ∧ d.index = c.index ∧ d.ran = true

/-- The Herdsman is as before but for what becomes of the started commands. -/
def onlyStarted (s t : State) : Prop := t.herd = { s.herd with started := t.herd.started }

/-- The index that the Herdsman does not write, of a ring. -/
def indexOf (s : State) (r : RingId) : BitVec 32 := if r.val < 8 then (hring s r).prod else (hring s r).cons

/-- Delivery `i` brings value `v` for ring `r` alone to the Herdsman: a doorbell forward that names the ring's home word,
or a read of the home words when this ring's is due (R317, R318, R319, R516). -/
def bringsIndex (s : State) (i : Instr) (r : RingId) (v : BitVec 32) : Prop :=
  (∃ l : MemLine, i = .ringPoll [(r, l)] ∧ herdReachable s = true ∧ pollDue s = [r] ∧ l.state = .good ∧
    l.data.setWidth 32 = v) ∨
  (∃ (f : Flit) (rest : List Flit) (w : Word), i = .dbFwd ∧ niRuns s herdSlot = true ∧
    tget (nif s herdSlot).ej 6 = f :: rest ∧ badGroups f = 0 ∧ fLen f = 0 ∧ fOp f = opDbFwd ∧
    w = word (hd (checkIn (ejPop s herdSlot 6 1) herdSlot [f]).2) 0 ∧ field w 4 6 = r.val ∧
    homeWin s r = Fin.ofNat 16 (field w 0 4) ∧ bits w 32 32 = v)

/-- A ring is as before but for the note that it has just been enabled. -/
def sameRing (s t : State) (r : RingId) : Prop := hring t r = { hring s r with fresh := (hring t r).fresh }

/-- How far ahead of the held value an index may move (R318). -/
def indexRoom (s : State) (r : RingId) : Nat :=
  if r.val < 8 then ringSize (hring s r) - ringHeld (hring s r) else ringHeld (hring s r)

/-- What a valid enable of group `g`, or change of it while DISABLED, leaves (R180): the command ends OK, and the group is
ACTIVE with the block's items, at the coordinator and at every NI named, with everything from START. -/
def groupEnabled (s t : State) (c : Cmd) (g : GroupId) (it : CurdItems) : Prop :=
  ended t c.ring c.index .ok 0 0 ∧ (tget t.herd.groups g).state = .active ∧
  (tget t.herd.groups g).members = it.members ∧ (tget t.herd.groups g).targets = it.targets ∧
  (tget t.herd.groups g).start = it.start ∧ (tget t.herd.groups g).c = it.start ∧
  (∀ d, d ≠ g → tget t.herd.groups d = tget s.herd.groups d) ∧
  (∀ n : Slot, it.members.getLsbD n.val = true ∨ it.targets.getLsbD n.val = true →
    (grpOf (nif t n) g).state = .active ∧ (grpOf (nif t n) g).member = it.members.getLsbD n.val ∧
    (grpOf (nif t n) g).target = it.targets.getLsbD n.val ∧ (grpOf (nif t n) g).k = it.start) ∧
  (∀ n : Slot, it.members.getLsbD n.val = false → it.targets.getLsbD n.val = false → nif t n = nif s n) ∧
  t = { s with nis := t.nis, herd := t.herd }

/-- Nothing of a configuration set but entry `key` is changed. -/
def otherEntries (m m' : Sparse Nat) (key : Nat) : Prop := ∀ j, j ≠ key → sget cfgBoot m' j = sget cfgBoot m j

/-! ### Set-up registers -/

/-- The offsets of the register window that hold a register (R503, R504 and the tables of chapters 11, 12, 13, 15
and 17). -/
def holdsRegister (off : Nat) : Bool :=
  let o := off % 4096 / 8 * 8
  match off / 4096 with
  | 0 => decide (o ≤ 0x028)
  | 1 => decide (o ≤ 0x010) || (decide (0x040 ≤ o) && decide (o ≤ 0x0A8)) ||
      (decide (0x100 ≤ o) && decide (o ≤ 0x128)) || (decide (0x140 ≤ o) && decide (o ≤ 0x168)) ||
      (decide (0x180 ≤ o) && decide (o ≤ 0x188)) || (decide (0x200 ≤ o) && decide (o ≤ 0x278))
  | 2 => decide (o ≤ 0x048) || (decide (0x080 ≤ o) && decide (o ≤ 0x0B8))
  | 3 => decide (o ≤ 0x030)
  | 4 => decide (o ≤ 0x010)
  | 5 => decide (o ≤ 0x060)
  | _ => false

/-! ### Invariants -/

/-- Both configuration sets are held in canonical form. -/
def setsCanonical (s : State) : Prop := swf cfgBoot s.cfgA = true ∧ swf cfgBoot s.cfgB = true

/-- The Crock's stores are held in canonical form, and NEXT names an entry. -/
def crockCanonical (s : State) : Prop :=
  swf (fun _ => (0 : BitVec 128)) s.crock.entries = true ∧ swf (fun _ => false) s.crock.valid = true ∧
  swf (fun _ => false) s.crock.post = true ∧ swf (fun _ => false) s.crock.cont = true ∧ s.crock.next < 4096

end Sys2Proof.Safety
end

