-- ==== Sys2Proof/Certificates/Slice0/Obligations.lean ====
section
/-! DEFINITION. The statements about the block that the provers prove: what each command does, what it leaves unchanged,
and what every step keeps. -/

open Sys2Proof Sys2Proof.Machine Sys2Proof.Safety

/-! ### The whole block -/

/-- A step with a command at the front of the queue is that command on the state with the queue's rest; with none
waiting, the always-on clock counts one cycle (the model's choice, assumption 3). -/
def Obligations.StepRunsFrontCommand : Prop :=
  (∀ (s : State) (c : Instr) (rest : List Instr),
    step { s with pending := c :: rest } = exec c { s with pending := rest }) ∧
  (∀ s : State, s.pending = [] →
    step s = .next { s with aon := { s.aon with aclk := s.aon.aclk + 1 } })

/-- What reset leaves: the mode RESET, counters at zero, set A active and both sets at their boot values, set-up open,
no command waiting, the engines at their rate; and the stores are canonical. -/
def Obligations.ResetState : Prop :=
  State.reset.pending = [] ∧ State.reset.aon.mode = .reset ∧ State.reset.aon.aclk = 0 ∧
  State.reset.aon.drain = 0x0280#16 ∧ State.reset.herd.lock = false ∧ State.reset.herd.active = false ∧
  State.reset.churn.rate = 537 ∧ State.reset.churn.paused = false ∧
  (∀ c, tget State.reset.epochs c = 0) ∧ (∀ r, (rtr State.reset r).active = false) ∧
  (∀ set item unit port index, cfgGet State.reset set item unit port index = cfgBoot (cfgKey item unit port index)) ∧
  (∀ e, (spn State.reset e).state = .off) ∧ setsCanonical State.reset ∧ crockCanonical State.reset

/-- R522: After a hard or a warm reset set A is the active set everywhere and both sets hold their boot values; while
set A is active, a CFG_WRITE that names it is refused. -/
def Obligations.SetsAfterReset : Prop :=
  (∀ (s : State) (i : Instr), i = .hardReset ∨ (i = .warmReset ∧ s.aon.mode ≠ .test) →
    ∃ t, exec i s = .next t ∧ t.herd.active = false ∧ (∀ r, (rtr t r).active = false) ∧
      (∀ n, activeSet t (.ni n) = false) ∧
      (∀ set item unit port index, cfgGet t set item unit port index = cfgBoot (cfgKey item unit port index))) ∧
  (∀ (s : State) (c : Cmd) (block : Block), s.herd.active = false → onTurn s c 0x01 → (cfgArgs c).set = 0 →
    ∃ t, exec (.cfgWrite c.ring block) s = .next t ∧ ended t c.ring c.index .staleSet 0 0 ∧ onlyStarted s t ∧
      t = { s with herd := t.herd })

/-- R11: An offset of the register window that holds no register reads as zero, and a write to it does nothing; neither
makes an event. The one trace is the Can's own log of an access by the debug master to its page (R369). -/
def Obligations.UnusedOffsets : Prop :=
  ∀ (s : State) (off : Nat) (v : Word) (dbg : Bool), off < 65536 → holdsRegister off = false →
    (readReg s off dbg).2 = 0 ∧
    (dbg = false ∨ off / 4096 ≠ 5 → (readReg s off dbg).1 = s ∧ writeReg s off v dbg = s) ∧
    (readReg s off dbg).1 = { s with can :=
      { s.can with log := (readReg s off dbg).1.can.log, logDropped := (readReg s off dbg).1.can.logDropped } } ∧
    writeReg s off v dbg = { s with can :=
      { s.can with log := (writeReg s off v dbg).can.log, logDropped := (writeReg s off v dbg).can.logDropped } }

/-- R12: The metering key shows in no register and in no freeze readout. Two states that differ in the key alone give
the same value of every register to every reader, and the same freeze readout. -/
def Obligations.KeyNotReadable : Prop :=
  ∀ (s : State) (key : Vector Word 4),
    (∀ (off : Nat) (dbg : Bool),
      (readReg (updCan s (fun c => { c with key := key })) off dbg).2 = (readReg s off dbg).2) ∧
    (∀ (seg : BitVec 16), ∃ t u, exec (.frzRead seg) s = .next t ∧
      exec (.frzRead seg) (updCan s (fun c => { c with key := key })) = .next u ∧ u.aon = t.aon)

/-- Every step keeps both configuration sets in canonical form: every entry once, in order, and none that repeats its
boot value, so that equal sets are equal data. -/
def Obligations.StepKeepsConfigSetsCanonical : Prop :=
  ∀ (s t : State), setsCanonical s → step s = .next t → setsCanonical t

/-- Every step keeps the Crock's stores in canonical form and NEXT within its 4,096 entries. -/
def Obligations.StepKeepsCrockCanonical : Prop :=
  ∀ (s t : State), crockCanonical s → step s = .next t → crockCanonical t

/-! ### Endpoint requests (chapters 04 and 05) -/

/-- R112: A request for lines that an NI takes, whose lines pass their checks and which nothing holds at step 5, is
accepted at once. -/
def Obligations.RequestForLinesAccepted : Prop :=
  ∀ (s : State) (n : Slot) (k : Nat) (fetch : Bool) (pkt : Packet), ∀ row ∈ lineRows n k fetch pkt,
    offered s n row.2.1 pkt → step1Bad (nif s n) row.2.1 pkt = false → unpoliced s n pkt →
    admitted s n row.2.1 row.2.2 pkt (planOf s n row.2.1 pkt) →
    ∃ t, exec row.1 s = .next t ∧ accepted s t n row.2.1 pkt ∧ niFrame n s t

/-- R161, R188: A fence at the front of the store is accepted and tracked with the wait set of that moment. A member's
close of logical epoch K + 1 is accepted and waits for the packets of its set. -/
def Obligations.FenceAndCloseAccepted : Prop :=
  (∀ (s : State) (n : Slot) (k : Nat) (pkt : Packet), ∀ row ∈ fenceRows n k pkt,
     offered s n row.2 pkt → step1Bad (nif s n) row.2 pkt = false → (nif s n).holdAll = false →
     (nif s n).fences.length < 16 →
     ∃ t, exec row.1 s = .next t ∧ (nif t n).store = [] ∧
       (nif t n).fences = (nif s n).fences ++
         [{ req := (nif s n).nextReq, op := row.2, dest := fDest (normHead n (hd pkt)),
            wait := fenceSet (nif s n) row.2 (fDest (normHead n (hd pkt))) }] ∧
       (∃ e : ReqEnt, (nif t n).reqs = (nif s n).reqs ++ [e] ∧ e.num = (nif s n).nextReq ∧ e.lines = [none]) ∧
       niFrame n s t) ∧
  (∀ (s : State) (n : Slot) (k : Nat) (pkt : Packet) (g : GroupId),
     offered s n opEpochClose pkt → step1Bad (nif s n) opEpochClose pkt = false → (nif s n).holdAll = false →
     (Fin.ofNat 32 (field (word (normHead n (hd pkt)) 0) 0 5) : GroupId) = g →
     (tget (nif s n).groups g).member = true → (tget (nif s n).groups g).state = .active →
     lepFull (tget (nif s n).groups g).k (field (word (normHead n (hd pkt)) 0) 8 8) =
       lepAdd (tget (nif s n).groups g).k 1 →
     ∃ t c, exec (.epochClose n k pkt) s = .next t ∧ (nif t n).store = [] ∧
       (tget (nif t n).groups g).close = some c ∧ c.lep = lepAdd (tget (nif s n).groups g).k 1 ∧
       c.wait = closeSet (nif s n) g c.lep ∧ (tget (nif t n).groups g).k = (tget (nif s n).groups g).k ∧ niFrame n s t)

/-- R68: A malformed request is refused, counted and reported; a posted one signals POISON on the error sideband, and
any other is answered with POISON at every line. -/
def Obligations.MalformedRequestRefused : Prop :=
  ∀ (s : State) (n : Slot) (k : Nat) (pkt : Packet),
    offered s n (fOp (hd pkt)) pkt → step1Bad (nif s n) (fOp (hd pkt)) pkt = true →
    ∃ t, exec (.malformed n k pkt) s = .next t ∧ (nif t n).store = [] ∧
      (nif t n).refused = (nif s n).refused + 1 ∧ reported s t .malformed .ni n.val ∧
      (if isPosted (fOp (hd pkt)) then
        (nif t n).out = (nif s n).out ++ [.err 0 .poison (fOp (hd pkt)) false] ∧ (nif t n).reqs = (nif s n).reqs
       else ∃ e : ReqEnt, (nif t n).reqs = (nif s n).reqs ++ [e] ∧ e.whole = .poison ∧
         e.lines.all (fun l => l.any (fun r => r.code == .poison)) = true) ∧ niFrame n s t

/-- R111, R226: A request that waited at step 5, and one that its meter held and whose flow is no longer policed, is
accepted when its NI works on it again. -/
def Obligations.WaitingRequestAccepted : Prop :=
  ∀ (s : State) (n : Slot) (k : Nat) (e : PendReq), ∀ row ∈ lineRows n k e.fetch e.pkt,
    niRuns s n = true → ownPort n = false → (nif s n).closed = false → (nif s n).reqFifo = [] →
    (nif s n).store = [e] → closeHeld (nif s n) = false → e.bad = false → e.op = row.2.1 → soundWords s →
    admitted s n e.op e.fetch e.pkt e.plan →
    (∀ c, e.metered = .colour c →
      ∃ t, exec (.requestStep5Resume n k) s = .next t ∧ accepted s t n e.op e.pkt ∧ niFrame n s t) ∧
    (e.metered = .held → unpoliced s n e.pkt →
      ∃ t, exec (.meterHoldRetry n k) s = .next t ∧ accepted s t n e.op e.pkt ∧ niFrame n s t)

/-- R142, R143, R483: What ends a packet that stopped partway. A body flit of an abandoned packet is discarded and
signalled, once for each flit. -/
def Obligations.PartialPacketEnds : Prop :=
  (∀ (s : State) (n : Slot) (e : PendReq), niRuns s n = true → (nif s n).partialReq = some e →
     (nif s n).reqFifo = [] →
     (cfgN s n itAbandon 0 ≤ (nif s n).partialTicks →
       ∃ t, exec (.endpointAbandon n) s = .next t ∧ (nif t n).partialReq = none ∧
         (nif t n).remainder = fLen (normHead n (hd e.pkt)) + 1 - e.pkt.length ∧ reported s t .abandon .ni n.val ∧
         (isPosted e.op = true → (nif t n).out = (nif s n).out ++ [.err 1 .abandoned e.op false]) ∧
         (isPosted e.op = false → ∃ r ∈ (nif t n).reqs, r.whole = .abandoned ∧ r.tag = fTag (normHead n (hd e.pkt))) ∧
         niFrame n s t) ∧
     (∀ (k : Nat) (fetch : Bool) (pkt : Packet), takesRequest s n pkt.length = true → pkt ≠ [] →
       clean pkt → pkt.length ≤ fLen (hd pkt) → (nif s n).store = [] → storeRoom (nif s n) pkt.length = true →
       ∃ t p, exec (.prematureHead n k fetch pkt) s = .next t ∧ (nif t n).partialReq = some p ∧ p.pkt = pkt ∧
         (nif t n).remainder = 0 ∧ reported s t .abandon .ni n.val ∧
         (isPosted e.op = false → ∃ r ∈ (nif t n).reqs, r.whole = .abandoned ∧ r.tag = fTag (normHead n (hd e.pkt))) ∧
         niFrame n s t)) ∧
  (∀ (s : State) (n : Slot) (f : Flit), takesRequest s n 1 = true → (nif s n).reqFifo = [] → 0 < (nif s n).remainder →
     isHead f = false →
     exec (.abandonRemainderDiscard n f) s = .next (updN s n (fun x => { x with
       remainder := x.remainder - 1, out := x.out ++ [.err 2 .abandoned x.remainderOp false] })))

/-- R118, R134: The injection arbiter's choice among accepted pieces leaves the NI under its network tag: its head
stands at the router's local input, its body flits wait for their grants, and an ordered packet takes the next
sequence of its target. -/
def Obligations.PieceInjected : Prop :=
  ∀ (s : State) (n : Slot) (k : Nat) (c : InjCand) (aged : Bool) (p : Piece) (tag : Nat),
    niRuns s n = true → storeIdle s n → pickInj s n k = some (c, aged) → c.q = .req → c.body = none →
    (nif s n).inj.find? (fun q => q.pid == c.stamp) = some p → pieceTag (nif s n) p = some tag →
    ∃ t, exec (.pieceInject n k) s = .next t ∧
      (nif t n).inj = (nif s n).inj.filter (fun q => q.pid != p.pid) ∧
      (∃ e : TagEnt, (nif t n).tags = (nif s n).tags ++ [e] ∧ e.tag = tag ∧ e.pid = p.pid ∧ e.injected = true ∧
        e.epoch = epochN s n) ∧
      (fOrd (hd p.pkt) = true → tget (nif t n).oseq (Fin.ofNat 192 (fDest (hd p.pkt))) =
        tget (nif s n).oseq (Fin.ofNat 192 (fDest (hd p.pkt))) + 1) ∧
      (tget (rtr t (routerOf n)).ins (localPort n)).wire.length =
        (tget (rtr s (routerOf n)).ins (localPort n)).wire.length + 1 ∧
      (2 ≤ p.pkt.length → ∃ y, tget (nif t n).sending (Fin.ofNat 8 (fVc (hd p.pkt))) = some y ∧
        y.left.length + 1 = p.pkt.length ∧ y.stamp = p.pid) ∧
      otherNis n s t ∧ t.spine = s.spine ∧ sameRest s t ∧ onlyReports s t ∧ onlyCounts s t ∧ t.can = s.can

/-! ### The target side (chapters 04 and 05) -/

/-- R114, R135, R136, R103, R137: An unordered request packet at the ejection latch, for which its queue has room, is
queued, and its flits' credits go back. Inbound discard begins and ends, and a gap in an ordered sequence is
skipped. -/
def Obligations.InboundQueueWorks : Prop :=
  (∀ (s : State) (n : Slot) (vc : VcId) (pkt : Packet), niRuns s n = true → vc = 0 ∨ vc = 1 ∨ vc = 4 →
     ejFront (nif s n) vc = some pkt → (nif s n).discarding = false → fOrd (hd pkt) = false →
     inqRoom (nif s n) (vc == 4) false pkt.length = true → isHostLink n.val = false →
     ∃ t p, exec (.inboundRequest n vc) s = .next t ∧ (nif t n).inq = (nif s n).inq ++ [p] ∧ p.early = false ∧
       p.cream = (vc == 4) ∧ p.pkt = (checkIn s n pkt).2 ∧
       p.codes = (gateInbound s n vc p.pkt).map (fun a => a.2.2.code) ∧
       tget (nif t n).ej vc = (tget (nif s n).ej vc).drop pkt.length ∧
       tget (tget (rtr t (routerOf n)).outs (localPort n)).returning vc =
         tget (tget (rtr s (routerOf n)).outs (localPort n)).returning vc + pkt.length ∧
       otherNis n s t ∧ t.spine = s.spine ∧ sameRest s t ∧ onlyReports s t ∧ onlyCounts s t ∧ t.can = s.can) ∧
  (∀ (s : State) (n : Slot), niRuns s n = true →
     ((nif s n).discarding = false → 16 ≤ (nif s n).idle → queueFull (nif s n) = true →
       ∃ t, exec (.inboundDiscard n) s = .next t ∧ (nif t n).discarding = true ∧
         reported s t .inboundDiscard .ni n.val ∧ niFrame n s t) ∧
     exec (.inboundDiscardEnd n) s = .next (updN s n (fun x => { x with discarding := false, idle := 0 })) ∧
     (∀ (src : Slot) (e : BitVec 10) (p q : InPkt), tget (nif s n).exp src = some e → q ∈ (nif s n).inq →
       q.early = true → fSrc (hd q.pkt) = src.val → q.epoch + cfgN s n itOrdGap 0 ≤ epochN s n →
       nextEarly (nif s n) src e = some p →
       ∃ t, exec (.ordGap n src) s = .next t ∧ reported s t .ordGap .ni n.val ∧
         nif t n = releaseEarly (earlyFuel (nif s n) src) { nif s n with
           exp := tupd (nif s n).exp src (fun _ => some (fOseq (hd p.pkt)))
           gone := tupd (nif s n).gone src (fun l => l.filter (fun g => decide (seqDist g (fOseq (hd p.pkt)) < 512))) }
           src ∧ niFrame n s t))

/-- R146, R149, R296: The next deliverable packet, whose lines passed the gate and are not canonical, is offered whole
to its endpoint. -/
def Obligations.InboundPacketOffered : Prop :=
  ∀ (s : State) (n : Slot) (p : InPkt), niRuns s n = true → n ≠ herdSlot → delivers (nif s n) n = true →
    nextInbound (nif s n) (fun q => !isAtomic (inOp q) && !isLock (inOp q)) = some p → cRegions s = [] → p.codes ≠ [] →
    (∀ c ∈ p.codes, c = .ok) → (∀ b ∈ p.bad, b = false) →
    ∃ t w o, exec (.inboundOffer n) s = .next t ∧ (nif t n).taken = (nif s n).taken ++ [w] ∧ w.kind = .request ∧
      w.pkt = p.pkt ∧ w.first = 0 ∧ w.count = p.codes.length ∧ w.rest = [] ∧
      (nif t n).out = (nif s n).out ++ [.inb o] ∧
      (nif t n).inq = (nif s n).inq.filter (fun q => q.stamp != p.stamp) ∧ (nif t n).idle = 0 ∧ niFrame n s t

/-- R157, R158: A deliverable atomic takes an entry and its line is read from the endpoint; the read's answer makes the
masked write-back; the write-back's answer sends AT_RESULT. What each atomic computes from its operand and the old
value. -/
def Obligations.AtomicsPerformed : Prop :=
  (∀ (s : State) (n : Slot), niRuns s n = true → n ≠ herdSlot →
     (∀ p : InPkt, nextInbound (nif s n) (fun q => isAtomic (inOp q)) = some p → (nif s n).atoms.length < 16 →
       delivers (nif s n) n = true → cRegions s = [] → p.codes.headD .ok = .ok →
       ∃ t e, exec (.atomicExecute n) s = .next t ∧ (nif t n).atoms = (nif s n).atoms ++ [e] ∧ e.pkt = p.pkt ∧
         e.phase = 0 ∧ (nif t n).out = (nif s n).out ++ [.inb (atomRead p.pkt)] ∧
         (nif t n).inq = (nif s n).inq.filter (fun q => q.stamp != p.stamp) ∧ niFrame n s t) ∧
     (∀ (w : Taken) (rest : List Taken) (e : AtomEnt) (line : Line) (d : BitVec 512) (v : BitVec 128),
       takesAnswer s n = true → delivers (nif s n) n = true →
       takeFirst (fun t => t.kind == .atomicRead e.num) (nif s n).taken = some (w, rest) →
       w.kind = .atomicRead e.num → (nif s n).atoms.find? (fun q => q.num == e.num) = some e →
       (∀ g, (grpOf (nif s n) g).releasing = none) → (nif s n).readWait = [] → line.poison = false →
       atomWords (atomArgs (hd e.pkt)) line = some d →
       atomNew (fOp (hd e.pkt)) (atomArgs (hd e.pkt)) (oldOf (atomArgs (hd e.pkt)) d) = some v →
       ∃ t, exec (.atomicReadReturn n e.num line .ok) s = .next t ∧
         (nif t n).out = (nif s n).out ++ [.inb (atomWrite e.pkt (atomPut (atomArgs (hd e.pkt)) v).1
           (atomPut (atomArgs (hd e.pkt)) v).2)] ∧ (∃ q ∈ (nif t n).atoms, q.num = e.num ∧ q.phase = 1) ∧
         niFrame n s t) ∧
     (∀ (w : Taken) (rest : List Taken) (e : AtomEnt),
       takesAnswer s n = true → takeFirst (fun t => t.kind == .atomicWrite e.num) (nif s n).taken = some (w, rest) →
       w.kind = .atomicWrite e.num → (nif s n).atoms.find? (fun q => q.num == e.num) = some e →
       (∀ g, (grpOf (nif s n) g).releasing = none) → (nif s n).readWait = [] → e.stagedIdx = none →
       ∃ t, exec (.atomicWritebackAck n e.num .ok) s = .next t ∧
         (nif t n).atoms = (nif s n).atoms.filter (fun q => q.num != e.num) ∧
         (nif t n).rspQ = (nif s n).rspQ ++ [((nif s n).nextPid, atResult (hd e.pkt) .ok
           (goodLine (atomData (atomArgs (hd e.pkt)) (oldOf (atomArgs (hd e.pkt)) e.old.data))))] ∧ niFrame n s t)) ∧
  (∀ (a : AtomArgs) (old : BitVec 128),
     (a.wide = true → atomNew opAtAdd a old = some (old + a.op)) ∧
     (a.wide = false → ∃ v, atomNew opAtAdd a old = some v ∧ v.setWidth 64 = old.setWidth 64 + a.op.setWidth 64) ∧
     (atomNew opAtMin a old = if atomLt a a.op old then some a.op else none) ∧
     (atomNew opAtMax a old = if atomLt a old a.op then some a.op else none) ∧
     atomNew opAtSwap a old = some a.op ∧
     (atomNew opAtCas a old = if old = a.cmp then some a.op else none) ∧
     (a.wide = true → a.signed = true → ∀ x y, atomLt a x y = decide (x.toInt < y.toInt)) ∧
     (a.wide = false → a.signed = false → ∀ x y, atomLt a x y = decide (x.toNat % 2 ^ 64 < y.toNat % 2 ^ 64)))

/-- R170, R169, R174: An acquire of a lock that nobody holds enters the table and is granted; its owner's release takes
it out. What takes a lock from its owner, and the end of the window after a lost table reopened. -/
def Obligations.LocksHeldAndBroken : Prop :=
  (∀ (s : State) (n : Slot) (p : InPkt), niRuns s n = true → n ≠ herdSlot → p.codes.headD .ok = .ok →
     (nextInbound (nif s n) (fun q => inOp q == opLkAcq) = some p → (nif s n).locks.length < 64 →
        (nif s n).lockReopen = none →
       lockAt (nif s n) (fAddr (hd p.pkt)) (lockWordOf (hd p.pkt)) = none →
       ∃ t e, exec (.lockTableAcquire n) s = .next t ∧ (nif t n).locks = (nif s n).locks ++ [e] ∧
         e.line = fAddr (hd p.pkt) ∧ e.word = lockWordOf (hd p.pkt) ∧
         e.owner = some (Fin.ofNat 192 (fSrc (hd p.pkt))) ∧ e.epoch = epochN s n ∧
         (nif t n).rspQ = (nif s n).rspQ ++ [((nif s n).nextPid, lockRsp (hd p.pkt) .ok true)] ∧ niFrame n s t) ∧
     (∀ (e : LockEnt) (o : Slot), nextInbound (nif s n) (fun q => inOp q == opLkRel) = some p →
       lockAt (nif s n) (fAddr (hd p.pkt)) (lockWordOf (hd p.pkt)) = some e → e.owner = some o →
       o.val = fSrc (hd p.pkt) →
       ∃ t, exec (.lockTableRelease n) s = .next t ∧
         lockAt (nif t n) (fAddr (hd p.pkt)) (lockWordOf (hd p.pkt)) = none ∧
         (nif t n).rspQ = (nif s n).rspQ ++ [((nif s n).nextPid, lockRsp (hd p.pkt) .ok true)] ∧ niFrame n s t)) ∧
  (∀ (s : State) (n : Slot), niRuns s n = true →
     (cfgN s n itLockLease 0 ≠ 0 →
       ∃ t, exec (.lockLease n) s = .next t ∧
         (nif t n).locks = (nif s n).locks.map (fun e =>
           if e.owner.isSome && decide (e.epoch + cfgN s n itLockLease 0 ≤ epochN s n) then { e with owner := none }
           else e) ∧ niFrame n s t) ∧
     (∀ o : Slot, niReached s n = true → tget (nif s n).gens o ≠ tget s.herd.gens o →
       ∃ t, exec (.ownerGenerationChange n o) s = .next t ∧ tget (nif t n).gens o = tget s.herd.gens o ∧
         (nif t n).locks = (nif s n).locks.map (fun e => if e.owner.isSome && (e.owner == some o) then
           { e with owner := none } else e) ∧
         (tget s.herd.resync o = true → tget (nif t n).exp o = none) ∧ niFrame n s t) ∧
     (∀ e, (nif s n).lockReopen = some e → e + cfgN s n itStoreLoss 0 + 1 ≤ epochN s n →
       exec (.lockReopenWindowEnd n) s = .next (updN s n (fun x => { x with lockReopen := none }))))

/-- R485, R486: The answer to a request offered whole leaves as its response, and the work is no longer unanswered. -/
def Obligations.EndpointAnswerForwarded : Prop :=
  ∀ (s : State) (n : Slot) (pkt : Packet) (w : Taken) (rest : List Taken), takesAnswer s n = true → pkt ≠ [] →
    clean pkt → answerRoom (nif s n) pkt.length = true → (nif s n).partialReq = none →
    takeFirst (isAnswerTo (hd pkt)) (nif s n).taken = some (w, rest) → w.kind = .request → w.rest = [] →
    w.after = [] → answerFits w pkt = true →
    ∃ t, exec (.endpointAnswer n pkt) s = .next t ∧ (nif t n).taken = rest ∧
      (nif t n).rspQ = (nif s n).rspQ ++ [((nif s n).nextPid,
        answerOf w.pkt (mergeRun w.results w.first (answerLines w pkt).2)
          (stWorse w.whole (answerLines w pkt).1))] ∧ niFrame n s t

/-- R144, R145, R146, R166, R487: The endpoint's port: reset, its release, request-ready, EP_READY and exceptions. -/
def Obligations.EndpointPort : Prop :=
  ∀ (s : State) (n : Slot), niRuns s n = true → ownPort n = false →
    ((nif s n).reset = false → s.aon.mode ≠ .retain →
      ∃ t, exec (.epResetAssert n) s = .next t ∧ (nif t n).reset = true ∧ (nif t n).resetPin = true ∧
        (nif t n).readyHold = true ∧ (nif t n).reqFifo = [] ∧ (nif t n).store = [] ∧ (nif t n).partialReq = none ∧
        (nif t n).taken = [] ∧ (nif t n).readWait = [] ∧
        (∀ q ∈ (nif t n).tags, q.orphan = true) ∧ (∀ r ∈ (nif t n).reqs, r.discard = true) ∧
        otherNis n s t ∧ t.routers = s.routers ∧ sameRest s t) ∧
    ((nif s n).reset = true → (nif s n).resetPin = true → s.aon.mode ≠ .retain →
      (nif s n).vatSpills = [] → (nif s n).vatDrains = [] →
      exec (.epResetRelease n) s = .next (updN s n (fun x => { x with resetPin := false, reset := false }))) ∧
    ((nif s n).reset = false → (nif s n).readyHold = true → (nif s n).inj = [] →
      (∀ q ∈ (nif s n).tags, q.orphan = false ∨ q.staged = true) →
      (∀ r ∈ (nif s n).reqs, holdsTag (nif s n) r = false) →
      exec (.requestReadyRise n) s = .next (updN s n (fun x => { x with readyHold := false }))) ∧
    (∀ level, (nif s n).ready ≠ level →
      ∃ t, exec (.epReadyChange n level) s = .next t ∧ (nif t n).ready = level ∧
        (nif t n).readyChanges = (nif s n).readyChanges + 1 ∧
        (level = false → (nif t n).readWait = [] ∧
          ∀ p ∈ (nif t n).inq, p.early = true ∨ isLock (fOp (hd p.pkt)) = true) ∧
        otherNis n s t ∧ t.routers = s.routers ∧ t.herd = s.herd ∧ t.cfgA = s.cfgA ∧ t.cfgB = s.cfgB) ∧
    exec (.epExc n) s = .next (updN s n (fun x => { x with excCount := x.excCount + 1 }))

/-! ### The master side (chapters 04 and 05) -/

/-- R114, R141, R131, R139: A response meets its tag, which it frees. The oldest request whose next response packet is
whole and in its turn is delivered; with the last packet of its response it leaves the NI. -/
def Obligations.ResponsesTakenAndDelivered : Prop :=
  (∀ (s : State) (n : Slot) (vc : VcId) (rsp : Packet) (e : TagEnt), niRuns s n = true → vc = 2 ∨ vc = 3 ∨ vc = 5 →
     ejFront (nif s n) vc = some rsp → storeIdle s n → isHostLink n.val = false →
     (∀ r ∈ (nif s n).reqs, r.discard = false) →
     (nif s n).tags.find? (fun q => decide (q.tag = fTag (hd rsp)) && q.injected) = some e → e.quarantined = false →
     e.canon = [] → e.orphan = false → e.posted = false → e.own = false →
     ∃ t, exec (.responseArrival n vc) s = .next t ∧
       (nif t n).tags = (nif s n).tags.filter (fun q => q.tag != e.tag) ∧
       (nif t n).reqs.map (·.num) = (nif s n).reqs.map (·.num) ∧
       (∀ r ∈ (nif t n).reqs, r.num = e.req → ∀ i, e.base ≤ i → i < e.base + e.nlines → i < r.lines.length →
         e.codes.getD (i - e.base) .ok = .ok → ∃ l, r.lines[i]? = some (some l)) ∧
       tget (nif t n).ej vc = (tget (nif s n).ej vc).drop rsp.length ∧
       otherNis n s t ∧ t.spine = s.spine ∧ sameRest s t ∧ onlyReports s t ∧ onlyCounts s t ∧ t.can = s.can) ∧
  (∀ (s : State) (n : Slot) (r : ReqEnt), niRuns s n = true → (nif s n).closed = false → (nif s n).reset = false →
     n ≠ herdSlot → storeIdle s n →
     (nif s n).reqs.find? (fun q => !q.discard && mayDeliver (nif s n) q && (nextLines q).isSome) = some r →
     ∃ t, exec (.responseDelivery n) s = .next t ∧
       (nif t n).out = (nif s n).out ++ [.rsp (deliverPkt r ((nextLines r).getD []))] ∧
       (r.lines.length ≤ r.done + nextCount r →
         (nif t n).reqs = (nif s n).reqs.filter (fun q => q.num != r.num)) ∧
       (r.done + nextCount r < r.lines.length →
         ∃ q ∈ (nif t n).reqs, q.num = r.num ∧ q.done = r.done + nextCount r) ∧ niFrame n s t)

/-- R163, R140, R141: A fence whose wait set is empty completes with the count of stores lost in its scope, and starts
that count again. A tag whose age passes STORE_LOSS is declared lost and quarantined; at twice STORE_LOSS it is
free. -/
def Obligations.FencesAndTagsEnd : Prop :=
  (∀ (s : State) (n : Slot) (f : Fence), niRuns s n = true → (nif s n).closed = false → storeIdle s n →
     (nif s n).fences.find? (fun q => q.wait.isEmpty) = some f →
     ∃ t, exec (.fenceComplete n) s = .next t ∧
       (nif t n).fences = (nif s n).fences.filter (fun q => q.req != f.req) ∧
       (nif t n).lostStores = (takeLost (nif s n) f).2.lostStores ∧
       (∀ r ∈ (nif t n).reqs, r.num = f.req → r.aux = BitVec.ofNat 16 (takeLost (nif s n) f).1 ∧
         r.whole = (if (takeLost (nif s n) f).1 = 0 then Status.ok else .lost)) ∧ niFrame n s t) ∧
  (∀ (s : State) (n : Slot) (tag : TagId) (e : TagEnt), niRuns s n = true → (nif s n).closed = false →
     n ≠ herdSlot → storeIdle s n → (nif s n).tags.find? (fun q => decide (q.tag = tag.val)) = some e →
     (e.injected = true → e.quarantined = false → ageHeld (nif s n) e = false →
       e.epoch + cfgN s n itStoreLoss 0 + 1 ≤ epochN s n →
       ∃ t, exec (.tagLost n tag) s = .next t ∧
         (∀ q ∈ (nif t n).tags, q.tag = e.tag → q.quarantined = true) ∧
         (nif t n).tags.map (·.tag) = (nif s n).tags.map (·.tag) ∧ niFrame n s t) ∧
     (e.quarantined = true → e.epoch + 2 * cfgN s n itStoreLoss 0 + 1 ≤ epochN s n →
       ∃ t, exec (.quarantineEnd n tag) s = .next t ∧
         (nif t n).tags = (nif s n).tags.filter (fun q => q.tag != e.tag) ∧ niFrame n s t))

/-! ### Curd mode (chapter 06) -/

/-- R188, R189, R191: A close whose conditions hold raises K, goes out and is answered; the coordinator raises the
member's K when it arrives; it is repeated while K is above C. -/
def Obligations.EpochCloseSent : Prop :=
  ∀ (s : State) (n : Slot) (g : GroupId) (c : CloseWait), niRuns s n = true → (nif s n).closed = false →
    herdReachable s = true →
    (storeIdle s n → (grpOf (nif s n) g).close = some c → c.wait = [] →
      lepLe c.lep (lepAdd (grpOf (nif s n) g).cm 16) = true →
      ∃ t, exec (.epochCloseInject n g) s = .next t ∧ (grpOf (nif t n) g).k = c.lep ∧
        (grpOf (nif t n) g).close = none ∧
        (nif t n).skmQ = (nif s n).skmQ ++ [((nif s n).nextPid, closePkt n g c.inexact c.lep)] ∧
        (∀ r ∈ (nif t n).reqs, r.num = c.req → r.whole = .ok ∧ r.aux = (if c.inexact then 1 else 0)) ∧
        niFrame n s t) ∧
    ((nif s n).repeatDue = true → (∀ h, h ≠ g → (grpOf (nif s n) h).member = false) →
      (grpOf (nif s n) g).member = true → (grpOf (nif s n) g).state = .active →
      lepLt (grpOf (nif s n) g).cm (grpOf (nif s n) g).k = true →
      ∃ t, exec (.closeRepeat n) s = .next t ∧
        (nif t n).skmQ = (nif s n).skmQ ++ [((nif s n).nextPid,
          closePkt n g (grpOf (nif s n) g).lastInexact (grpOf (nif s n) g).k)] ∧
        (nif t n).repeatDue = false ∧ niFrame n s t) ∧
    (∀ pkt : Packet, niRuns s herdSlot = true → ejFront (nif s herdSlot) 6 = some pkt → pkt.length = 1 →
      pkt = (checkIn (ejPop s herdSlot 6 1) herdSlot pkt).2 → fOp (hd pkt) = opEpochClose →
      fSrc (hd pkt) = n.val → (Fin.ofNat 32 (field (word (hd pkt) 0) 0 5) : GroupId) = g →
      (tget s.herd.groups g).state = .active → (tget s.herd.groups g).members.getLsbD n.val = true →
      lepLt (tget (tget s.herd.groups g).ks n) (field (word (hd pkt) 0) 16 48) = true →
      ∃ t, exec .epochCloseArrival s = .next t ∧
        tget (tget t.herd.groups g).ks n = field (word (hd pkt) 0) 16 48 ∧
        (∀ m, m ≠ n → tget (tget t.herd.groups g).ks m = tget (tget s.herd.groups g).ks m) ∧
        otherNis herdSlot s t ∧ t.spine = s.spine ∧ sameRest s t ∧ t.can = s.can)

/-- R193: While a group is ACTIVE, a member's C moves to the last commit whose epoch has come, and only then, and those
commits are no longer awaited; nothing else of the NI or the block moves but what the NI then makes of its request
store. -/
def Obligations.MemberCommits : Prop :=
  ∀ (s : State) (n : Slot) (g : GroupId), niRuns s n = true → (grpOf (nif s n) g).state = .active →
    (∀ c, c ∈ (grpOf (nif s n) g).cmNext → c.2 ≤ epochN s n →
      ∃ u, exec (.curdMemberCommit n g) s = .next (processStore u n) ∧
        (grpOf (nif u n) g).cm = ((grpOf (nif s n) g).cmNext.filter (fun c => decide (c.2 ≤ epochN s n))).foldl
          (fun m c => if lepLt m c.1 then c.1 else m) (grpOf (nif s n) g).cm ∧
        (∀ d, d ∈ (grpOf (nif u n) g).cmNext ↔ d ∈ (grpOf (nif s n) g).cmNext ∧ epochN s n < d.2) ∧
        (∀ h, h ≠ g → grpOf (nif u n) h = grpOf (nif s n) h) ∧ u = { s with nis := u.nis } ∧ otherNis n s u) ∧
    (∀ l q : Nat, storeIdle s n → (grpOf (nif s n) g).cmNext = [(l, q)] → q ≤ epochN s n →
      lepLt (grpOf (nif s n) g).cm l = true →
      ∃ t, exec (.curdMemberCommit n g) s = .next t ∧ (grpOf (nif t n) g).cm = l ∧ (grpOf (nif t n) g).cmNext = [] ∧
        (∀ h, h ≠ g → grpOf (nif t n) h = grpOf (nif s n) h) ∧ niFrame n s t) ∧
    ((∀ c ∈ (grpOf (nif s n) g).cmNext, epochN s n < c.2) → exec (.curdMemberCommit n g) s = .next s)

/-- R193, R192: An NI that receives a first commit schedules what it does as a member and as a target: release not
before the next tick nor before Q, C not before Q + 1. At the repeat tick, a group's latest commit is sent again to
every member and target, when the epoch's budget allows it. -/
def Obligations.CommitsTravel : Prop :=
  (∀ (s : State) (n : Slot) (g : GroupId) (pkt : Packet) (l q : Nat), niRuns s n = true →
     ejFront (nif s n) 6 = some pkt → pkt.length = 1 → pkt = (checkIn (ejPop s n 6 1) n pkt).2 →
     fOp (hd pkt) = opCmCommit → (Fin.ofNat 32 (field (word (hd pkt) 0) 0 5) : GroupId) = g →
     field (word (hd pkt) 0) 16 48 = l → field (word (hd pkt) 1) 0 48 = q →
     (grpOf (nif s n) g).state = .active → (grpOf (nif s n) g).cmNext = [] → (grpOf (nif s n) g).relNext = [] →
     lepLt (grpOf (nif s n) g).cm l = true → lepLt (grpOf (nif s n) g).ct l = true →
     lepLt (grpOf (nif s n) g).through l = true →
     ∃ t, exec (.cmCommit n) s = .next t ∧
       ((grpOf (nif s n) g).member = true → (grpOf (nif t n) g).cmNext = [(l, max (q + 1) (epochN s n + 1))]) ∧
       ((grpOf (nif s n) g).target = true → (grpOf (nif t n) g).relNext = [(l, max q (epochN s n + 1))]) ∧
       (grpOf (nif t n) g).cm = (grpOf (nif s n) g).cm ∧ (grpOf (nif t n) g).ct = (grpOf (nif s n) g).ct ∧
       otherNis n s t ∧ t.spine = s.spine ∧ sameRest s t ∧ t.can = s.can) ∧
  (∀ (s : State) (g : GroupId) (l q : Nat) (i : Bool), herdRuns s = true → herdReachable s = true →
     s.herd.epoch % 64 = 0 → (∀ h, h ≠ g → (tget s.herd.groups h).state = .disabled) →
     (tget s.herd.groups g).state = .active → (tget s.herd.groups g).lastCommit = some (l, q, i) →
     (maskSlots ((tget s.herd.groups g).members ||| (tget s.herd.groups g).targets)).length ≤ s.herd.commitLeft →
     ∃ t, exec .commitRepeat s = .next t ∧
       (nif t herdSlot).skmQ.map (·.2) = (nif s herdSlot).skmQ.map (·.2) ++
         (maskSlots ((tget s.herd.groups g).members ||| (tget s.herd.groups g).targets)).map
           (fun d => commitPkt d g l q i) ∧
       tget t.herd.groups g = tget s.herd.groups g ∧ otherNis herdSlot s t ∧ t.routers = s.routers ∧ sameRest s t)

/-- R194, R196: A due release begins the next logical epoch; with nothing staged for it, that epoch counts as released,
and reads that waited for it go on. When the endpoint takes work again, the release in progress offers its next
entry. -/
def Obligations.ReleaseRuns : Prop :=
  (∀ (s : State) (n : Slot) (g : GroupId) (l : Nat), niRuns s n = true → (grpOf (nif s n) g).state = .active →
     (∀ q : Nat, (grpOf (nif s n) g).target = true → (grpOf (nif s n) g).relNext = [(l, q)] → q ≤ epochN s n →
       (grpOf (nif s n) g).releasing = none → (grpOf (nif s n) g).pass = none →
       (grpOf (nif s n) g).through = (grpOf (nif s n) g).ct →
       lepLt (grpOf (nif s n) g).ct l = true → (grpOf (nif s n) g).vatLeps = [] →
       epochEnts (nif s n) g (lepAdd (grpOf (nif s n) g).ct 1) = [] →
       ∃ t, exec (.curdRelease n g) s = .next t ∧
         (grpOf (nif t n) g).releasing = some (lepAdd (grpOf (nif s n) g).ct 1) ∧ (grpOf (nif t n) g).through = l ∧
         (grpOf (nif t n) g).relNext = [] ∧ (grpOf (nif t n) g).ct = (grpOf (nif s n) g).ct ∧ niFrame n s t) ∧
     ((grpOf (nif s n) g).releasing = some l → epochEnts (nif s n) g l = [] → (grpOf (nif s n) g).pass = none →
       (grpOf (nif s n) g).vatLeps = [] → lepLt l (grpOf (nif s n) g).through = false → (nif s n).readWait = [] →
       ∃ t, exec (.curdEpochReleased n g) s = .next t ∧ (grpOf (nif t n) g).ct = l ∧
         (grpOf (nif t n) g).releasing = none ∧ niFrame n s t)) ∧
  (∀ (s : State) (n : Slot) (g : GroupId) (l : Nat) (e : StageEnt), niRuns s n = true →
     delivers (nif s n) n = true → (grpOf (nif s n) g).state = .active →
     (∀ h, h ≠ g → (grpOf (nif s n) h).releasing = none) → (grpOf (nif s n) g).releasing = some l →
     (grpOf (nif s n) g).pass = none → (grpOf (nif s n) g).vatLeps = [] → (nif s n).stage = [e] → e.group = g →
     e.lep = l → isAtomic e.op = false → e.ue = false → e.ueMeta = false → e.sent = false → (nif s n).taken = [] →
     ∃ t o, exec (.curdReleaseResume n) s = .next t ∧ (nif t n).out = (nif s n).out ++ [.inb o] ∧
       (nif t n).taken.map (·.kind) = [.release g e.idx] ∧ otherNis n s t ∧ t.routers = s.routers ∧ t.herd = s.herd)

/-- R184, R528: An NI that learns that a group has left ACTIVE forgets a disabled group, and keeps a failed one as
FAILED without release. -/
def Obligations.GroupLeavesActive : Prop :=
  ∀ (s : State) (n : Slot) (g : GroupId), niRuns s n = true → niReached s n = true → storeIdle s n →
    (nif s n).readWait = [] → (grpOf (nif s n) g).state = .active →
    ((tget s.herd.groups g).state = .disabled ∨
      ((tget s.herd.groups g).members ||| (tget s.herd.groups g).targets).getLsbD n.val = false →
      ∃ t, exec (.groupStateChange n g) s = .next t ∧ grpOf (nif t n) g = NiGroup.reset ∧
        (∀ e ∈ (nif t n).stage, e.group ≠ g) ∧ (∀ h, h ≠ g → grpOf (nif t n) h = grpOf (nif s n) h) ∧
        niFrame n s t) ∧
    ((tget s.herd.groups g).state = .failed →
      ((tget s.herd.groups g).members ||| (tget s.herd.groups g).targets).getLsbD n.val = true →
      ∃ t, exec (.groupStateChange n g) s = .next t ∧ (grpOf (nif t n) g).state = .failed ∧
        (grpOf (nif t n) g).releasing = none ∧ (grpOf (nif t n) g).close = none ∧
        (nif t n).stage = (nif s n).stage ∧ niFrame n s t)

/-- R101, R197, R199: Packets of VC 7. A spill's lines join the Vat's sink, and a drain's read does; while the endpoint
takes work, all that the sink holds is offered, each spilled line as one write and each drain as one read. A drained
record of the logical epoch in release joins the stage, and the release goes on; drained records whose tag was
declared lost, or that no tag awaits, are counted. -/
def Obligations.VatPackets : Prop :=
  ∀ (s : State) (n : Slot) (pkt p2 : Packet), niRuns s n = true → ejFront (nif s n) 7 = some pkt →
    p2 = (checkIn (ejPop s n 7 pkt.length) n pkt).2 →
    (fOp (hd pkt) = opVatSpill →
      (delivers (nif s n) n = false →
        ∃ t, exec (.vatSpill n) s = .next t ∧ (nif t n).vatSpills = (nif s n).vatSpills ++ [p2] ∧
          (nif t n).taken = (nif s n).taken ∧ otherNis n s t ∧ t.spine = s.spine) ∧
      (delivers (nif s n) n = true →
        ∃ t, exec (.vatSpill n) s = .next t ∧ (nif t n).vatSpills = [] ∧ (nif t n).vatDrains = [] ∧
          (nif t n).taken.length = (nif s n).taken.length + ((nif s n).vatSpills.map List.length).sum + pkt.length +
            (nif s n).vatDrains.length ∧ otherNis n s t ∧ t.spine = s.spine)) ∧
    (fOp (hd pkt) = opVatDrain →
      (delivers (nif s n) n = false →
        ∃ t, exec (.vatDrain n) s = .next t ∧ (nif t n).vatDrains = (nif s n).vatDrains ++ [p2] ∧
          (nif t n).taken = (nif s n).taken ∧ otherNis n s t ∧ t.spine = s.spine) ∧
      (delivers (nif s n) n = true →
        ∃ t, exec (.vatDrain n) s = .next t ∧ (nif t n).vatSpills = [] ∧ (nif t n).vatDrains = [] ∧
          (nif t n).taken.length = (nif s n).taken.length + ((nif s n).vatSpills.map List.length).sum +
            (nif s n).vatDrains.length + 1 ∧ otherNis n s t ∧ t.spine = s.spine)) ∧
    (fOp (hd pkt) = opVatData →
      ((nif s n).tags.find? (fun q => q.tag == fTag (hd p2) && fOp q.head == opVatDrain) = none →
        ∃ t, exec (.vatData n) s = .next t ∧ (nif t n).lateRsp = (nif s n).lateRsp + 1 ∧
          (nif t n).stage = (nif s n).stage ∧ otherNis n s t ∧ t.spine = s.spine) ∧
      (∀ e, (nif s n).tags.find? (fun q => q.tag == fTag (hd p2) && fOp q.head == opVatDrain) = some e →
        (e.quarantined = true →
          ∃ t, exec (.vatData n) s = .next t ∧ (nif t n).lateRsp = (nif s n).lateRsp + 1 ∧
            (nif t n).tags = (nif s n).tags.filter (fun q => q.tag != e.tag) ∧
            (nif t n).stage = (nif s n).stage ∧ otherNis n s t ∧ t.spine = s.spine) ∧
        (∀ (g : GroupId) (p : VatPass) (l : Nat), e.req = g.val → e.quarantined = false → e.nlines = 1 →
          e.base = p.pos → (grpOf (nif s n) g).pass = some p → (grpOf (nif s n) g).releasing = some l →
          p.least = none → (nif s n).stage.length < 512 →
          (lineOf (p2.getD 0 zeroFlit)).poison = false →
          (lineWord (lineOf (p2.getD 0 zeroFlit)).data 0).getLsbD 63 = true →
          field (lineWord (lineOf (p2.getD 0 zeroFlit)).data 1) 0 48 = l →
          ∃ u, exec (.vatData n) s = .next (pump u n g) ∧
            (nif u n).stage = (nif s n).stage ++ [entOfRecord g (nif s n).spilledHeads (lineOf (p2.getD 0 zeroFlit))
              (lineOf (p2.getD 1 zeroFlit))] ∧
            (nif u n).tags = (nif s n).tags.filter (fun q => q.tag != e.tag) ∧
            (grpOf (nif u n) g).pass = some { p with pos := p.pos + 1, took := p.took ++ [p.pos] } ∧
            otherNis n s u ∧ u.spine = s.spine)))

/-! ### Ticks (chapter 07) and routers (chapter 03) -/

/-- R210, R211: The Herdsman's tick advances its epoch and goes out to every cluster; the tick that reaches a cluster
puts its counter at the nearest value with the low bits of the Herdsman's and leaves every other cluster's counter
alone. -/
def Obligations.TicksAdvanceEpochs : Prop :=
  ∀ (s : State),
    (herdRuns s = true → s.aon.retStep = none →
      ∃ t, exec .herdsmanTick s = .next t ∧ t.herd.epoch = (s.herd.epoch + 1) % 2 ^ 48 ∧
        t.herd.tickDbg = s.herd.dbgAuth ∧ t.herd.tickDue = BitVec.allOnes 24 ∧ t.epochs = s.epochs ∧
        t.cfgA = s.cfgA ∧ t.cfgB = s.cfgB ∧
        t.spine = s.spine) ∧
    (∀ c : ClusterId, clocksRun s = true → s.recov.dead.getLsbD c.val = false → tget s.recov.clusters c = none →
      s.herd.tickDue.getLsbD c.val = true →
      ∃ t, exec (.clusterTick c) s = .next t ∧ t.herd.tickDue.getLsbD c.val = false ∧
        tget t.epochs c = tickTo (tget s.epochs c + 1) (s.herd.epoch % 16) % 2 ^ 48 ∧
        (∀ d, d ≠ c → tget t.epochs d = tget s.epochs d) ∧ t.cfgA = s.cfgA ∧ t.cfgB = s.cfgB ∧
        t.crock = s.crock ∧ t.pending = s.pending)

/-- R211: The corrected counter has the carried bits and lies within eight of the counter advanced, and a counter that
agrees is advanced by one exactly. -/
def Obligations.TickCorrection : Prop :=
  ∀ (count : Nat) (low : BitVec 4),
    tickTo count low.toNat % 16 = low.toNat ∧
    (8 ≤ count → tickTo count low.toNat ≤ count + 8 ∧ count ≤ tickTo count low.toNat + 7) ∧
    (count % 16 = low.toNat → tickTo count low.toNat = count)

/-- R74, R77, R69: A head flit that arrives undisturbed on a mesh or local link is buffered on the VC that its lookahead
names, and the count of its packet's flits starts. A head flit with a control parity error that leaves LEN
trustworthy is discarded, its packet's remaining flits are to be consumed by that LEN, and the error is reported. -/
def Obligations.HeadFlitTaken : Prop :=
  (∀ (s : State) (r : RouterId) (p : PortId) (k : Nat) (w : WireFlit) (rest : List WireFlit) (bvc : BufVc),
     routerRuns s r = true → (tget (rtr s r).ins p).wire = w :: rest → portEnd r p = none →
     parity (laBits w.la) = false → badGroups w.flit = 0 →
     bvc = Fin.ofNat 16 (laOfBits (laBits w.la)).vc.toNat → tget (tget (rtr s r).ins p).drop bvc = 0 →
     tget (tget (rtr s r).ins p).left bvc = 0 →
     ∃ t b, exec (.headFlitArrival r p k { par := 0, ctl := 0, chk := 0, dat := 0 } 0) s = .next t ∧
       (tget (rtr t r).ins p).wire = rest ∧
       tget (tget (rtr t r).ins p).buf bvc = tget (tget (rtr s r).ins p).buf bvc ++ [b] ∧ b.flit = w.flit ∧
       b.since = timeR s r k ∧ b.escOnly = false ∧ tget (tget (rtr t r).ins p).left bvc = fLen w.flit ∧
       (∀ q, q ≠ r → rtr t q = rtr s q) ∧ t.nis = s.nis ∧ t.spine = s.spine ∧ t.can = s.can ∧ sameRest s t ∧
       onlyReports s t ∧ onlyCounts s t) ∧
  (∀ (s : State) (r : RouterId) (p : PortId) (k : Nat) (w : WireFlit) (rest : List WireFlit) (bvc : BufVc),
     routerRuns s r = true → (tget (rtr s r).ins p).wire = w :: rest → portEnd r p = none →
     parity (laBits w.la) = false → badGroups w.flit ≠ 0 → (badGroups w.flit).getLsbD 5 = false →
     bvc = Fin.ofNat 16 (laOfBits (laBits w.la)).vc.toNat → tget (tget (rtr s r).ins p).drop bvc = 0 →
     tget (tget (rtr s r).ins p).left bvc = 0 →
     ∃ t, exec (.headFlitArrival r p k { par := 0, ctl := 0, chk := 0, dat := 0 } 0) s = .next t ∧
       tget (tget (rtr t r).ins p).buf bvc = tget (tget (rtr s r).ins p).buf bvc ∧
       tget (tget (rtr t r).ins p).drop bvc = fLen w.flit ∧ reported s t .ctrlParity .router r.val ∧
       t.can = s.can ∧ sameRest s t ∧ onlyReports s t ∧ onlyCounts s t)

/-- R79, R95: An output's decision takes the winner's flit out of its buffer, and a granted head takes its packet's
credits. -/
def Obligations.WinnerGranted : Prop :=
  ∀ (s : State) (r : RouterId) (p : PortId) (k : Nat) (q : Req) (aged : Bool) (rest : List BufFlit),
    routerRuns s r = true → hasPort r p = true → p ≠ 10 → portEnd r p = none →
    decidePort s r p k none = some (q, aged) → tget (tget (rtr s r).ins q.inPort).buf q.bvc = q.b :: rest →
    ∃ t, exec (.switchAllocation r [p] k) s = .next t ∧
      (tget (tget (rtr t r).ins q.inPort).buf q.bvc).length = rest.length ∧
      (q.head = true → tget (outOf t r p).credit q.want.vc = tget (outOf s r p).credit q.want.vc - q.n) ∧
      t.can = s.can ∧ sameRest s t ∧ onlyReports s t ∧ onlyCounts s t

/-- R78, R86, R235, R274: A returned credit is counted; a head that has waited ESC_WAIT cycles may take its escape
output; the relayed governor level applies at its tick; a returned packet enters its hub's return port. -/
def Obligations.RouterSideRows : Prop :=
  ∀ (s : State) (r : RouterId) (p : PortId) (vc : VcId) (k : Nat),
    (0 < tget (outOf s r p).returning vc → tget (outOf s r p).credit vc < tget (outDepth r p) vc →
      ∃ t, exec (.creditReturn (.out r p) vc) s = .next t ∧
        tget (outOf t r p).credit vc = tget (outOf s r p).credit vc + 1 ∧
        tget (outOf t r p).returning vc = tget (outOf s r p).returning vc - 1 ∧
        (∀ q, q ≠ r → rtr t q = rtr s q) ∧ t = { s with routers := t.routers }) ∧
    (∀ n : Slot, 0 < tget (nif s n).returning vc →
      ∃ t, exec (.creditReturn (.ni n) vc) s = .next t ∧ tget (nif t n).credit vc = tget (nif s n).credit vc + 1 ∧
        tget (nif t n).returning vc = tget (nif s n).returning vc - 1 ∧ otherNis n s t ∧
        t = { s with nis := t.nis }) ∧
    (∀ (b : BufFlit) (rest : List BufFlit) (bvc : BufVc), routerRuns s r = true → vc = 0 ∨ vc = 2 →
      portEnd r p = none → bvc.val = vc.val → tget (tget (rtr s r).ins p).buf bvc = b :: rest →
      isHead b.flit = true → b.since + cfgR s r itEscWait 0 0 ≤ timeR s r k →
      ∃ t, exec (.escEntry r p vc k) s = .next t ∧
        tget (tget (rtr t r).ins p).buf bvc = { b with esc := true } :: rest ∧
        (∀ q, q ≠ r → rtr t q = rtr s q) ∧ t = { s with routers := t.routers }) ∧
    (∀ (l e : Nat), routerRuns s r = true → (rtr s r).govNext = some (l, e) → e ≤ epochR s r →
      exec (.governorLevelApply r) s =
        .next (updR s r (fun x => { x with govLevel := l, govNext := none }))) ∧
    (∀ (q : QuadId) (pkt : Packet) (rest : List Packet), routerRuns s (hubOf q) = true →
      (rtr s (hubOf q)).returned = pkt :: rest → pkt.length = pktLen pkt →
      ∃ t, exec (.returnPortReinject q k) s = .next t ∧ (rtr t (hubOf q)).returned = rest ∧
        (tget (tget (rtr t (hubOf q)).ins 10).buf (Fin.ofNat 16 (fVc (hd pkt)))).map (·.flit) =
          (tget (tget (rtr s (hubOf q)).ins 10).buf (Fin.ofNat 16 (fVc (hd pkt)))).map (·.flit) ++ pkt ∧
        (∀ d, d ≠ hubOf q → rtr t d = rtr s d) ∧ t = { s with routers := t.routers })

/-! ### Spine links (chapter 08) -/

/-- R252, R253, R256: One SFU slot of a transmitter with no LINK SFU to send and no lane marker due: a replay sends the
next SFU of its Pail again; otherwise the records that wait are packed into a new DATA SFU, which takes the next
sequence, is kept in the Pail and goes onto the lanes. -/
def Obligations.SlotSendsData : Prop :=
  ∀ (s : State) (e : LinkEnd) (k : Nat),
    endRuns s e = true → (spn s e).state = .up → (spn s e).nakDue = false → (spn s e).poolNote = false →
    (spn s e).firstLink = false → (spn s e).sinceLink < 8 → (spn s (farEnd e)).slots < markerSlots →
    ((spn s e).replay = none → ((spn s e).n - (spn s e).o).toNat < pailCap e →
      (spn s e).tx.isSome = true ∨ (spn s e).queue ≠ [] →
      ∃ t w, exec (.spineRecordSend e k) s = .next t ∧
        w = sfuOf (dataPrefix (spn s e).n)
          (dataBody (packSfu (spn s e).compress (spn s e).tx (spn s e).queue).payload) ∧
        (spn t e).n = (spn s e).n + 1 ∧ (spn t e).o = (spn s e).o ∧
        (spn t e).pail.map (·.sfu) = (spn s e).pail.map (·.sfu) ++ [w] ∧
        (spn t e).queue = (packSfu (spn s e).compress (spn s e).tx (spn s e).queue).queue ∧
        spn t (farEnd e) = takeSlot (spn s (farEnd e)) w ∧
        (∀ d, d ≠ e → d ≠ farEnd e → spn t d = spn s d) ∧ t.routers = s.routers ∧ t.nis = s.nis ∧ t.can = s.can ∧
        sameRest s t ∧ onlyReports s t ∧ onlyCounts s t) ∧
    (∀ (q : BitVec 12) (p : PailEnt), (spn s e).replay = some q →
      (spn s e).pail.find? (fun p => p.seq == q.toNat) = some p →
      ∃ t, exec (.spineRecordSend e k) s = .next t ∧
        (spn t e).replay = (if q + 1 = (spn s e).n then none else some (q + 1)) ∧ (spn t e).n = (spn s e).n ∧
        (spn t e).pail = (spn s e).pail ∧
        spn t (farEnd e) = takeSlot (spn s (farEnd e)) p.sfu ∧
        (∀ d, d ≠ e → d ≠ farEnd e → spn t d = spn s d) ∧ t.routers = s.routers ∧ t.nis = s.nis ∧ t.can = s.can ∧
        sameRest s t ∧ onlyReports s t ∧ onlyCounts s t)

/-- R254, R265, R256, R261, R263: An SFU that passes its checks under the expected sequence, and whose records fit the
pool, is accepted: the expected sequence advances, Go-Back-N recovery ends, and its records go to the hub's input;
one that fails is discarded, nothing is accepted, and recovery begins with a NAK. A LINK SFU returns credits by
spine VC; an acknowledgement inside the window releases the Pail up to and with the SFU that it names; where its
IDLE_FULL shows leaks, each is counted for its own spine VC and the link retrains. -/
def Obligations.SfusTaken : Prop :=
  (∀ (s : State) (e : LinkEnd) (k : Nat) (dist w : BitVec 512) (rest : List (BitVec 512)),
     endRuns s e = true → (spn s e).state = .up → (spn s e).lanesIn = w :: rest →
     (∀ l ∈ (spn s e).lanes, l.inUse = true → l.locked = true) →
     (sfuCheck (spn s e).e (w ^^^ dist) = .data →
       ∀ rs : List RecIn, rs = (readRecs 64 ((spn s e).rxBits ++ payloadOf (sfuBody (w ^^^ dist)))).1 →
       (rs.filter (·.pool)).foldl (fun n r => n + recUnits r) 0 ≤ (spn s e).poolFree →
       ∃ t, exec (.dataSfuReceive e k dist) s = .next t ∧ (spn t e).e = (spn s e).e + 1 ∧
         (spn t e).recovering = false ∧ (spn t e).nakDue = false ∧ (spn t e).lanesIn = rest ∧
         (spn t e).ackCount = (spn s e).ackCount + 1 ∧ (spn t e).lastAccept = timeE s e k ∧
         (tget (rtr t (hubAt e)).ins (endPort e)).wire.map (·.flit) =
           (tget (rtr s (hubAt e)).ins (endPort e)).wire.map (·.flit) ++ rs.map (·.flit) ∧
         (∀ d, d ≠ e → spn t d = spn s d) ∧ (∀ r, r ≠ hubAt e → rtr t r = rtr s r) ∧
         t = { s with routers := t.routers, spine := t.spine }) ∧
     (sfuCheck (spn s e).e (w ^^^ dist) = .bad →
       ∃ t, exec (.dataSfuReceive e k dist) s = .next t ∧
         spn t e = { offLanes (spn s e) (w ^^^ dist) rest with
           recovering := true, nakDue := (spn s e).nakDue || !(spn s e).recovering } ∧
         (∀ d, d ≠ e → spn t d = spn s d) ∧ t.routers = s.routers ∧ t.nis = s.nis ∧ t.can = s.can ∧ sameRest s t ∧
         onlyReports s t ∧ onlyCounts s t)) ∧
  (∀ (s : State) (e : LinkEnd) (k : Nat) (dist w : BitVec 512) (rest : List (BitVec 512)) (l : LinkSfu),
     endRuns s e = true → (spn s e).state = .up → (spn s e).lanesIn = w :: rest →
     (∀ l ∈ (spn s e).lanes, l.inUse = true → l.locked = true) → sfuCheck (spn s e).e (w ^^^ dist) = .link →
     l = readLink (diagonal e) (sfuBody (w ^^^ dist)) → l.req = 0 →
     ∃ t, exec (.linkSfuReceive e k dist) s = .next t ∧
       (∀ v, tget (spn t e).credit v =
         tget (spn s e).credit v + creditsIn e (spn s e) v (l.credit.getD v.val 0)) ∧
       (spn t e).farPoolOff = l.poolOff ∧ (spn t e).n = (spn s e).n ∧ (spn t e).e = (spn s e).e ∧
       (∀ q, l.idle = 0 → l.ack = some q → l.nak = none → inWindow (spn s e) q = true →
         (∀ v, creditsIn e (spn s e) v (l.credit.getD v.val 0) = 0) →
         (spn t e).o = (if q = (spn s e).n then q else q + 1) ∧ (spn t e).lanesIn = rest ∧
         (spn t e).state = .up) ∧
       (∀ v, l.ack = none → l.nak = none → l.idle.getLsbD v.val = true →
         tget (spn s e).lastSent v + 256 ≤ timeE s e k → (spn s e).recovering = false →
         tget (spn s e).credit v + creditsIn e (spn s e) v (l.credit.getD v.val 0) ≠ tget spineDepth v →
         tget (spn t e).creditLeaks v = tget (spn s e).creditLeaks v + 1 ∧ (spn t e).state = .retrain) ∧
       (∀ d, d ≠ e → spn t d = spn s d) ∧ t.routers = s.routers ∧ t.nis = s.nis ∧ t.can = s.can ∧ sameRest s t ∧
       onlyReports s t ∧ onlyCounts s t)

/-- R255, R257, R258, R266: The timers of a link end: a NAK is sent again after 96 cycles; an acknowledgement is due
after 32 SFUs or 96 cycles; 512 cycles without progress, and without such a replay (log 135), begin a replay from
the oldest SFU, and the fourth fruitless replay in a row a retrain; a DOWN end tries to train again 16 epochs after
its last attempt. -/
def Obligations.LinkTimers : Prop :=
  ∀ (s : State) (e : LinkEnd) (k : Nat), endRuns s e = true →
    ((spn s e).state = .up → (spn s e).recovering = true → (spn s e).nakDue = false →
      (spn s e).lastNak + 96 ≤ timeE s e k → (spn s e).lastAccept + 96 ≤ timeE s e k →
      exec (.nakRepeat e k) s = .next (updE s e (fun x => { x with nakDue := true }))) ∧
    (∀ t0, (spn s e).state = .up → 32 ≤ (spn s e).ackCount ∨
        ((spn s e).ackSince = some t0 ∧ t0 + 96 ≤ timeE s e k) →
      exec (.ackDue e k) s = .next (updE s e (fun x => { x with ackIsDue := true }))) ∧
    ((spn s e).state = .up → (spn s e).o ≠ (spn s e).n → (spn s e).lastProgress + 512 ≤ timeE s e k →
      (spn s e).timerAt + 512 ≤ timeE s e k →
      ∃ t, exec (.replayTimeout e k) s = .next t ∧ (spn t e).replay = some (spn s e).o ∧
        (spn t e).lastProgress = (spn s e).lastProgress ∧ (spn t e).timerAt = timeE s e k ∧
        ((spn s e).fruitless < 3 → (spn t e).fruitless = (spn s e).fruitless + 1 ∧ (spn t e).state = .up) ∧
        ((spn s e).fruitless = 3 → (spn t e).fruitless = 0 ∧ (spn t e).state = .retrain) ∧
        (∀ d, d ≠ e → spn t d = spn s d) ∧ t.routers = s.routers ∧ t.nis = s.nis ∧ t.can = s.can ∧ sameRest s t ∧
        onlyReports s t ∧ onlyCounts s t) ∧
    ((spn s e).state = .down → (spn s e).en = true → (spn s e).withhold = false → (spn s e).attempting = false →
      (spn s e).lastTry + 16 ≤ epochR s (hubAt e) →
      exec (.linkDownRetry e) s = .next (updE s e (fun x => { x with attempting := true })))

/-- R240, R266, R269: Lanes. A lane in use that loses symbol lock while the link is up starts a retrain and the
lock-loss timer; one with more mismatches than LANE_ERR_MAX is FAILING and asks for a retrain at the next tick; a
spare fails at once and is reported (for its lock, only while the link is UP). The marker of each lane behind 2,048
slots carries its number and the parity of what its logical lane sent: one that comes is counted, with its mismatch
where the parity of what came differs; a second marker in a row that does not come is a loss of lock. -/
def Obligations.LaneFaults : Prop :=
  ∀ (s : State) (e : LinkEnd) (i : Nat) (l : Lane),
    endRuns s e = true → (spn s e).lanes[i]? = some l → l.failed = false →
    ((spn s e).state = .up → l.inUse = true →
      ∃ t, exec (.laneLockLoss e i) s = .next t ∧ (spn t e).state = .retrain ∧ (spn t e).lockTimer = true ∧
        (spn t e).lanes[i]? = some { l with locked := false, failing := true } ∧
        (∀ d, d ≠ e → spn t d = spn s d) ∧ t = { s with spine := t.spine }) ∧
    (l.inUse = false → (spn s e).state ≠ .up →
      exec (.laneLockLoss e i) s = .next (updLane s e i (fun l => { l with locked := false }))) ∧
    (l.inUse = false → (spn s e).state = .up →
      ∃ t, exec (.laneLockLoss e i) s = .next t ∧ (spn t e).state = (spn s e).state ∧
        (spn t e).lanes[i]? = some { l with locked := false, failed := true } ∧
        reported s t .laneSpared .spineEnd e.val ∧ (∀ d, d ≠ e → spn t d = spn s d) ∧ onlyReports s t ∧
        t = { s with spine := t.spine, herd := t.herd }) ∧
    (l.failing = false → (spn s e).laneErrMax < l.bips.length → l.inUse = true →
      ∃ t, exec (.laneFailing e i) s = .next t ∧ (spn t e).retrainAt = some (epochR s (hubAt e) + 1) ∧
        (spn t e).lanes[i]? = some { l with failing := true } ∧ (∀ d, d ≠ e → spn t d = spn s d) ∧
        t = { s with spine := t.spine }) ∧
    (l.failing = false → (spn s e).laneErrMax < l.bips.length → l.inUse = false →
      ∃ t, exec (.laneFailing e i) s = .next t ∧ (spn t e).lanes[i]? = some { l with failed := true } ∧
        reported s t .laneSpared .spineEnd e.val ∧ (∀ d, d ≠ e → spn t d = spn s d) ∧ onlyReports s t ∧
        t = { s with spine := t.spine, herd := t.herd }) ∧
    (∀ (seen : List MarkerSeen) (w : BitVec 32), (spn s e).state = .up → markerSlots ≤ (spn s e).slots →
      (spn s e).lanesIn = [] → i < physLanes e → w = markerWord e (spn s e) i l ^^^ (seenAt seen i).dist →
      ∃ t, exec (.laneMarker e seen) s = .next t ∧ (spn t e).slots = 0 ∧ (spn t e).sentPar = 0 ∧
        (spn t e).seenPar = 0 ∧
        ((seenAt seen i).arrived = true → isMarker w i = true →
          ∃ b, (spn t e).lanes[i]? = some { l with missed := 0, markers := l.markers + 1, bips := b } ∧
            (∀ j ∈ b, l.markers + 1 < j + 1024) ∧
            (bits w 16 8 ≠ bipOf e (spn s e).seenPar l → l.markers + 1 ∈ b) ∧
            (bits w 16 8 = bipOf e (spn s e).seenPar l → ∀ j ∈ b, j ∈ l.bips)) ∧
        ((seenAt seen i).arrived = false ∨ isMarker w i = false → l.missed = 0 →
          (spn t e).lanes[i]? = some { l with missed := 1 }) ∧
        ((seenAt seen i).arrived = false ∨ isMarker w i = false → l.missed = 1 → l.inUse = true →
          (spn t e).state = .retrain ∧ (spn t e).lockTimer = true ∧
          ∃ l', (spn t e).lanes[i]? = some l' ∧ l'.locked = false) ∧
        (∀ d, d ≠ e → spn t d = spn s d) ∧ t.routers = s.routers ∧ t.nis = s.nis ∧ t.can = s.can ∧ sameRest s t ∧
        onlyReports s t ∧ onlyCounts s t)

/-- R266, R267, R270, R272: Training and retraining of one end. A full training of an end that was OFF starts afresh the
direction in which it sends, and the other unless its far end has completed already, and brings the end up with the
pool ON, the credits of the table and a LINK SFU to send first; a far end that is not the wired one fails it and is
reported; a retrain that succeeds brings the end up with the lanes of the new mapping, and its direction goes on
from what the far receiver holds; an attempt that times out leaves the end DOWN; a retrain attempt that fails before
the fourth is counted. The fourth retrain attempt that fails, the lock-loss timer, and the link layer itself declare
a link down: both ends are DOWN, its bit of SPINE_UP is cleared at the Herdsman and at both hubs, and LINK_DOWN is
reported. -/
def Obligations.TrainingAndDown : Prop :=
  (∀ (s : State) (e : LinkEnd), endRuns s e = true →
     (∀ (seen : List LaneTrain) (far : FarEnd) (lanes : List Lane) (gone : List Nat) (kept : Option Nat),
       (spn s e).state = .train → (spn s e).en = true → (spn s e).withhold = false → (spn s e).downEpoch = none →
       far.link.toNat = endLink e → far.hubX.toNat = rx (hubAt (farEnd e)) → far.hubY.toNat = ry (hubAt (farEnd e)) →
       mapLanes e ((spn s e).lanes.zipIdx.map (fun p =>
         { p.1 with failed := !(seen.any (fun t => t.lane == p.2 && t.good)) })) = some (lanes, gone, kept) →
       ∃ t, exec (.linkTrainingComplete e seen far) s = .next t ∧ (spn t e).state = .up ∧ (spn t e).lanes = lanes ∧
         (spn t e).n = 0 ∧ (spn t e).o = 0 ∧ (spn t e).pail = [] ∧ (spn t e).credit = spineDepth ∧
         (spn t e).farPoolOff = false ∧ (spn t e).firstLink = true ∧
         spn t (farEnd e) = rxFresh (spn s (farEnd e)) ∧
         ((spn s (farEnd e)).state ≠ .up → (spn t e).e = 0 ∧ (spn t e).poolOff = false ∧ (spn t e).lanesIn = []) ∧
         reported s t .linkUp .spineEnd e.val ∧ (∀ d, d ≠ e → d ≠ farEnd e → spn t d = spn s d) ∧
         t = { s with spine := t.spine, herd := t.herd } ∧
         t.herd = { s.herd with spineUp := t.herd.spineUp, reports := t.herd.reports }) ∧
     (∀ (seen : List LaneTrain) (far : FarEnd),
       (spn s e).state = .train → (spn s e).en = true → (spn s e).withhold = false → far.link.toNat ≠ endLink e →
       ∃ t, exec (.linkTrainingComplete e seen far) s = .next t ∧ (spn t e).state = .down ∧
         reported s t .linkMiswired .spineEnd e.val ∧ (∀ d, d ≠ e → spn t d = spn s d) ∧ onlyReports s t ∧
         t = { s with spine := t.spine, herd := t.herd }) ∧
     ((spn s e).state = .train →
       ∃ t, exec (.linkTrainingTimeout e) s = .next t ∧ (spn t e).state = .down ∧
         (spn t e).lastTry = epochR s (hubAt e) ∧ reported s t .linkDown .spineEnd e.val ∧
         (∀ d, d ≠ e → spn t d = spn s d) ∧ onlyReports s t ∧ t = { s with spine := t.spine, herd := t.herd }) ∧
     (∀ (seen : List LaneTrain) (lanes : List Lane) (gone : List Nat) (kept : Option Nat),
       (spn s e).state = .retrain → mapLanes e (retrainLanes (spn s e).lanes seen) = some (lanes, gone, kept) →
       ∃ t, exec (.linkRetrainComplete e seen) s = .next t ∧ (spn t e).state = .up ∧ (spn t e).lanes = lanes ∧
         (spn t e).n = (spn s e).n ∧ (spn t e).e = (spn s e).e ∧ (spn t e).firstLink = true ∧
         (spn t e).replay = (if (spn s (farEnd e)).e = (spn s e).n then none else some (spn s (farEnd e)).e) ∧
         (∀ v, tget (spn t e).credit v =
           freeCells (spn s (farEnd e)) v - unaccepted s e (some (spn s (farEnd e)).e) v) ∧
         spn t (farEnd e) = rxTrained (spn s (farEnd e)) ∧ reported s t .linkRetrain .spineEnd e.val ∧
         (∀ d, d ≠ e → d ≠ farEnd e → spn t d = spn s d) ∧ onlyReports s t ∧
           t = { s with spine := t.spine, herd := t.herd }) ∧
     ((spn s e).state = .retrain → (spn s e).attempts < 3 →
       exec (.linkRetrainFail e) s = .next (updE s e (fun x => { x with attempts := x.attempts + 1 }))) ∧
     ((spn s e).en = true → (spn s e).state = .off → (spn s (farEnd e)).state = .train →
       exec (.trainingPatternsSeen e) s = .next (updE s e (fun x => { x with state := .train, lanesIn := [] }))) ∧
     ((spn s e).en = true → (spn s e).state = .up → (spn s (farEnd e)).state = .retrain →
       ∃ t, exec (.trainingPatternsSeen e) s = .next t ∧ (spn t e).state = .retrain ∧
         (∀ d, d ≠ e → spn t d = spn s d) ∧ t = { s with spine := t.spine })) ∧
  (∀ (s : State) (l : LinkId) (i : Instr),
     ((∃ e ∈ bothEnds l, i = .linkRetrainFail e ∧ endRuns s e = true ∧ (spn s e).state = .retrain ∧
         3 ≤ (spn s e).attempts) ∨
      (∃ e ∈ bothEnds l, i = .lockLossExpiry e ∧ endRuns s e = true ∧ (spn s e).state = .retrain ∧
         (spn s e).lockTimer = true) ∨
      (∃ e ∈ bothEnds l, i = .linkDown l ∧ endRuns s e = true ∧
         ((spn s e).state = .up ∨ (spn s e).state = .retrain))) →
     ∃ t, exec i s = .next t ∧ t.herd.spineUp.getLsbD l.val = false ∧
       (∀ d ∈ bothEnds l, (spn t d).state = .down ∧ (spn t d).downEpoch = some (epochR s (hubAt d)) ∧
         (spn t d).pail = (spn s d).pail ∧ (rtr t (hubAt d)).spineUp.getLsbD l.val = false ∧
         reported s t .linkDown .spineEnd d.val) ∧
       (∀ d, d ∉ bothEnds l → spn t d = spn s d) ∧
       t = { s with routers := t.routers, spine := t.spine, herd := t.herd } ∧
       t.herd = { s.herd with spineUp := t.herd.spineUp, reports := t.herd.reports })

/-- R273, R275, R91, R276: When a DOWN end's RETURN_WAIT has passed, the packets that its far end has not taken go to
the hub's return port; where the far end cannot be read, four epochs later they are given up. Both times the end
holds nothing any longer, and LINK_RETURN is reported. A link whose LINK_EN is 0 at both ends and that has drained
reads OFF; a deterministic-class packet that waits at its hub without a route is a fatal error of the hub. -/
def Obligations.LinkTakesPacketsBack : Prop :=
  (∀ (s : State) (e : LinkEnd) (d : Nat),
     endRuns s e = true → (spn s e).state = .down → (spn s e).downEpoch = some d →
     (endReadable s (farEnd e) = true → d + (spn s e).returnWait ≤ epochR s (hubAt e) →
       ∃ t, exec (.returnWaitExpiry e) s = .next t ∧
         (rtr t (hubAt e)).returned = (rtr s (hubAt e)).returned ++
           ((sortRecs (spn s e).pailBad (pendingRecs (spn s e) (spn s (farEnd e)).e) []).filter (·.2.2)).map (·.2.1) ∧
         (spn t e).pail = [] ∧ (spn t e).queue = [] ∧ (spn t e).tx = none ∧ (spn t e).downEpoch = none ∧
         reported s t .linkReturn .spineEnd e.val ∧ (∀ d, d ≠ e → spn t d = spn s d) ∧
         (∀ r, r ≠ hubAt e → rtr t r = rtr s r) ∧ onlyReports s t ∧
         t = { s with routers := t.routers, spine := t.spine, herd := t.herd }) ∧
     (endReadable s (farEnd e) = false → d + (spn s e).returnWait + 4 ≤ epochR s (hubAt e) →
       ∃ t, exec (.returnETimeout e) s = .next t ∧ (rtr t (hubAt e)).returned = (rtr s (hubAt e)).returned ∧
         (spn t e).pail = [] ∧ (spn t e).queue = [] ∧ (spn t e).tx = none ∧ (spn t e).downEpoch = none ∧
         reported s t .linkReturn .spineEnd e.val ∧ (∀ d, d ≠ e → spn t d = spn s d) ∧
         (∀ r, r ≠ hubAt e → rtr t r = rtr s r) ∧ onlyReports s t ∧
         t = { s with routers := t.routers, spine := t.spine, herd := t.herd })) ∧
  ((∀ (s : State) (l : LinkId),
     (∀ d ∈ bothEnds l, endRuns s d = true ∧ (spn s d).en = false ∧ drainedEnd s d = true) →
     ∃ t, exec (.linkEnOff l) s = .next t ∧ t.herd.spineUp.getLsbD l.val = false ∧
       (∀ d ∈ bothEnds l, (spn t d).state = .off) ∧ (∀ d, d ∉ bothEnds l → spn t d = spn s d) ∧
       t = { s with spine := t.spine, herd := t.herd } ∧ t.herd = { s.herd with spineUp := t.herd.spineUp }) ∧
   (∀ (s : State) (q : QuadId), routerRuns s (hubOf q) = true → s.recov.die = none → noRoute s (hubOf q) ≠ [] →
     s.herd.reports.any (fun ev => ev.code == .spineNoRoute && ev.num == (hubOf q).val) = false →
     ∃ t, exec (.spineNoRoute q) s = .next t ∧ reported s t .spineNoRoute .router (hubOf q).val ∧
       t = { s with herd := t.herd } ∧ onlyReports s t))

/-! ### The Herdsman's rings (chapter 10) -/

/-- R318: What the Herdsman makes of a value for an index that it does not write. For a ring that is not enabled it is
counted as DB_STALE, and the ring's home words are read afresh once it is enabled; for an enabled ring the held
index moves when the value lies ahead by no more than the ring allows, a value that repeats the index or lies behind
it is counted as DB_STALE, and any other is RING_OVERRUN. -/
def Obligations.IndexValuesJudged : Prop :=
  (∀ (s : State) (i : Instr) (r : RingId) (v : BitVec 32) (d : Nat), herdRuns s = true → bringsIndex s i r v →
    d = (v - indexOf s r).toNat →
    ∃ t, exec i s = .next t ∧ (∀ q, q ≠ r → sameRing s t q) ∧
      (ringEn (hring s r) = false → t.herd.dbStale = s.herd.dbStale + 1 ∧ sameRing s t r) ∧
      (ringEn (hring s r) = true → d = 0 ∨ 2 ^ 31 ≤ d → t.herd.dbStale = s.herd.dbStale + 1 ∧ sameRing s t r) ∧
      (ringEn (hring s r) = true → 1 ≤ d → d ≤ indexRoom s r → d < 2 ^ 31 →
        indexOf t r = v ∧ t.herd.dbStale = s.herd.dbStale ∧
        hring t r = { hring s r with prod := (hring t r).prod, cons := (hring t r).cons, fresh := (hring t r).fresh } ∧
        (if r.val < 8 then (hring t r).cons = (hring s r).cons else (hring t r).prod = (hring s r).prod)) ∧
      (ringEn (hring s r) = true → indexRoom s r < d → d < 2 ^ 31 →
        t.herd.dbStale = s.herd.dbStale ∧ sameRing s t r ∧
        ∃ before ev, t.herd.reports = s.herd.reports ++ before ++ [ev] ∧ ev.code = .ringOverrun ∧
          ev.detail = BitVec.ofNat 32 r.val ∧
          bits ev.record 0 64 = BitVec.ofNat 64 (v.toNat * 2 ^ 32 + (indexOf s r).toNat))) ∧
  (∀ (s : State) (homes : List (RingId × MemLine)), herdRuns s = true → herdReachable s = true →
    (∀ r ∈ pollDue s, ∃ h ∈ homes, h.1 = r) → (∀ h ∈ homes, h.2.state = .good) →
    ∃ t, exec (.ringPoll homes) s = .next t ∧ t.herd.rereadAll = false ∧
      ∀ r ∈ pollDue s, (hring t r).fresh = false) ∧
  (∀ (s : State) (r : RingId) (v : Word), herdRuns s = true → s.herd.lock = false → ringEn (hring s r) = false →
    (ringFields r v).getLsbD 63 = true →
    (tget s.herd.windows (homeWinWith s r (ringFields r v))).getLsbD 63 = true →
    ∃ t, exec (.stwRing r v) s = .next t ∧ ringEn (hring t r) = true ∧ (hring t r).fresh = true)

/-- R90, R308, R517: Relays. A router takes up the SPINE_UP vector, an NI a doorbell window, and the Herdsman the
debug-authorise input, each leaving everything else as it is. -/
def Obligations.RelaysTakenUp : Prop :=
  ∀ (s : State),
    (∀ r, routerRuns s r = true → routerReached s r = true →
      ∃ t, exec (.spineUpUpdate r) s = .next t ∧ (rtr t r).spineUp = s.herd.spineUp ∧
        (∀ q, q ≠ r → rtr t q = rtr s q) ∧ t = { s with routers := t.routers }) ∧
    (∀ (n : Slot) (w : Fin 16), niRuns s n = true → niReached s n = true →
      ∃ t, exec (.doorbellWindowUpdate n w) s = .next t ∧ tget (nif t n).windows w = tget s.herd.windows w ∧
        tget (nif t n).homes w = homesOf s w ∧
        (∀ v, v ≠ w → tget (nif t n).windows v = tget (nif s n).windows v ∧
          tget (nif t n).homes v = tget (nif s n).homes v) ∧ otherNis n s t ∧
        t = { s with nis := t.nis }) ∧
    (∀ level : Bool, ∃ t, exec (.dbgAuthChange level) s = .next t ∧ t.herd.dbgAuth = level ∧ t.aon.dbgAuth = level ∧
      t = { s with herd := { s.herd with dbgAuth := level }, aon := { s.aon with dbgAuth := level } })

/-- R321, R323, R324, R336, R338, R339: Command entries are taken in order from the ring whose turn it is and its
consumer index follows; an entry whose re-read carries its index is ready; the next ready command of a ring starts,
and one that R313, R325 or R396 ends at its start has its status. A command that has ended queues its completion
descriptor, unless it is quiet and OK. At 16 unpublished entries, or at cycle 512, those that a ring has room for
are written; when each has been answered OK its index is written; when that is answered OK the entries are published
and the ring's interrupt is sent. What is answered otherwise is written once more, and a second failure halts the
ring. -/
def Obligations.CommandsReadStartedPublished : Prop :=
  (∀ (s : State) (ring : CmdRing), herdWorks s = true →
     (∀ (entries : Block), s.herd.accept = true → fetchTurn s = some ring → fetchCount s ring ≤ entries.length →
       ∃ t, exec (.commandFetch ring entries) s = .next t ∧
         t.herd.fetched = s.herd.fetched ++ ((entries.take (fetchCount s ring)).zipIdx.map (fun p =>
           fetchedCmd ring (((hring s (Fin.ofNat 14 ring.val)).cons.toNat + p.2) % 2 ^ 32) s.herd.epoch p.1)) ∧
         (hring t (Fin.ofNat 14 ring.val)).cons =
           (hring s (Fin.ofNat 14 ring.val)).cons + BitVec.ofNat 32 (fetchCount s ring) ∧
         (∀ q : RingId, q.val ≠ ring.val → hring t q = hring s q) ∧ t.herd.started = s.herd.started ∧
         t = { s with herd := t.herd }) ∧
     (∀ (c : Cmd) (rest : List Cmd) (l : MemLine) (k : Nat), s.herd.fetched = c :: rest → c.ring = ring →
       c.chk = .mismatch k → c.readAt ≠ s.herd.epoch → l.state = .good → dField l.data 6 2 = c.index % 65536 →
       ∃ t, exec (.commandIndexRecheck ring l) s = .next t ∧
         t.herd.fetched = { c with desc := l.data, chk := .ready, readAt := s.herd.epoch } :: rest ∧
         t = { s with herd := { s.herd with fetched := t.herd.fetched } }) ∧
     (∀ (c : Cmd) (rest : List Cmd), s.aon.modeReq = none → s.herd.fetched = c :: rest → c.ring = ring →
       c.chk = .ready → c.result = none → cmdWait c = false → ringFull (hring s (cplRing s ring)) = false →
       ∃ t, exec (.commandStart ring) s = .next t ∧
         t.herd.started = s.herd.started ++ [{ c with result := startFault s c }] ∧
         t.herd.fetched = (c :: rest).filter (fun d => !(d.ring == ring && d.index == c.index)) ∧
         t.herd.rings = s.herd.rings ∧ t = { s with herd := t.herd, aon := t.aon })) ∧
  (∀ (s : State), herdRuns s = true → herdReachable s = true →
     (∀ (ring : CmdRing) (c : Cmd) (r : Status × BitVec 16 × BitVec 320),
       s.herd.started.find? (fun c => c.ring == ring && c.result.isSome) = some c → c.result = some r →
       ∃ t, exec (.commandComplete ring) s = .next t ∧
         t.herd.started = s.herd.started.filter (fun d => !isCmd ring c.index d) ∧
         (cmdQuiet c = true → r.1 = .ok → t.herd.rings = s.herd.rings) ∧
         (cmdQuiet c = false →
           (hring t (cplRing s ring)).pending = (hring s (cplRing s ring)).pending ++ [completionEntry s c r] ∧
           ∀ q, q ≠ cplRing s ring → hring t q = hring s q) ∧ t = { s with herd := t.herd }) ∧
     (∀ (ring : RingId), s.herd.rereadAll = false →
       (∀ n k : Nat, 8 ≤ ring.val → ringEn (hring s ring) = true → (hring s ring).halted = false →
         (hring s ring).batch = 0 →
         n = min (hring s ring).pending.length (ringSize (hring s ring) - ringHeld (hring s ring)) → 0 < n →
         16 ≤ (hring s ring).pending.length ∨ k = 512 →
         ∃ t, exec (.publishBatch ring k) s = .next t ∧ (hring t ring).batch = n ∧
           (hring t ring).pending = batchEntries s ring n ++ (hring s ring).pending.drop n ∧
           (hring t ring).acks = List.replicate n none ∧ (hring t ring).prod = (hring s ring).prod ∧
           t.herd.memOut = s.herd.memOut ++
             (batchEntries s ring n).zipIdx.map (fun p => entryWrite s ring p.1 p.2) ∧
           (∀ q, q ≠ ring → hring t q = hring s q) ∧ t = { s with herd := t.herd }) ∧
       (0 < (hring s ring).batch → (hring s ring).indexSent = false →
         ((hring s ring).acks.all (· == some .ok) = true →
           ∃ t, exec (.publishIndex ring) s = .next t ∧ (hring t ring).indexSent = true ∧
             t.herd.memOut = s.herd.memOut ++ [indexWrite s ring] ∧ (hring t ring).batch = (hring s ring).batch ∧
             (∀ q, q ≠ ring → hring t q = hring s q) ∧ t = { s with herd := t.herd }) ∧
         ((hring s ring).acks.all (·.isSome) = true → (hring s ring).acks.all (· == some .ok) = false →
           ((hring s ring).retry = false →
             ∃ t, exec (.publishIndex ring) s = .next t ∧ (hring t ring).retry = true ∧
               t.herd.memOut = s.herd.memOut ++
                 (failedEntries (hring s ring)).map (fun p => entryWrite s ring p.1 p.2) ∧
               (∀ q, q ≠ ring → hring t q = hring s q) ∧ t = { s with herd := t.herd }) ∧
           ((hring s ring).retry = true →
             ∃ t, exec (.publishIndex ring) s = .next t ∧ (hring t ring).halted = true ∧ (hring t ring).batch = 0 ∧
               (hring t ring).prod = (hring s ring).prod ∧ reported s t .ringHalt .die 0))) ∧
       ((hring s ring).indexSent = true →
         ((hring s ring).indexAck = some .ok →
           ∃ t, exec (.ringInterrupt ring) s = .next t ∧
             (hring t ring).prod = (hring s ring).prod + BitVec.ofNat 32 (hring s ring).batch ∧
             (hring t ring).pending = (hring s ring).pending.drop (hring s ring).batch ∧ (hring t ring).batch = 0 ∧
             t.herd.memOut = s.herd.memOut ++
               (if (hring s ring).intr.1.getLsbD 63 then [intrWrite (hring s ring).intr] else []) ∧
             (∀ q, q ≠ ring → hring t q = hring s q) ∧ t = { s with herd := t.herd }) ∧
         (∀ st, st ≠ .ok → (hring s ring).indexAck = some st →
           ((hring s ring).retry = false →
             ∃ t, exec (.ringInterrupt ring) s = .next t ∧ (hring t ring).retry = true ∧
               (hring t ring).indexAck = none ∧ t.herd.memOut = s.herd.memOut ++ [indexWrite s ring] ∧
               (hring t ring).prod = (hring s ring).prod ∧ t = { s with herd := t.herd }) ∧
           ((hring s ring).retry = true →
             ∃ t, exec (.ringInterrupt ring) s = .next t ∧ (hring t ring).halted = true ∧
               (hring t ring).prod = (hring s ring).prod ∧ reported s t .ringHalt .die 0)))))

/-- R303, R327, R442: The commands that do one thing and end. NOP ends OK; GATE_FENCE ends OK with the generations of
the NI's gate sets; SCRUB_CTL sets the rate, stops and starts the engines, reports its counts, and takes a table off
the list of those that await reload; MSG_SEND hands its message to NI 188, with PRIV from rings 0 to 3, and ends
with the status and per-line fields of its answer. -/
def Obligations.PlainCommandsEnd : Prop :=
  ∀ (s : State) (c : Cmd),
    (onTurn s c 0x00 → ∃ t, exec (.nop c.ring) s = .next t ∧ ended t c.ring c.index .ok 0 0 ∧ onlyStarted s t ∧
      t = { s with herd := t.herd }) ∧
    (∀ n : Slot, onTurn s c 0x0A → dField c.desc 8 2 = n.val → niReached s n = true →
      ∃ t, exec (.gateFence c.ring) s = .next t ∧ ended t c.ring c.index .ok 0 (BitVec.ofNat 320
        ((gensOf (nif s n) n).1.toNat + (gensOf (nif s n) n).2.toNat * 2 ^ 16)) ∧
        tget t.herd.gens2 n = gensOf (nif s n) n ∧
        t = { s with herd := { s.herd with started := t.herd.started, gens2 := t.herd.gens2 } }) ∧
    (onTurn s c 0x14 → dByte c.desc 8 = 0 → dField c.desc 16 3 ≠ 0 →
      ∃ t, exec (.setRate c.ring) s = .next t ∧ ended t c.ring c.index .ok 0 0 ∧
        t.churn = { s.churn with rate := dField c.desc 16 3 } ∧ onlyStarted s t ∧
        t = { s with herd := t.herd, churn := t.churn }) ∧
    (onTurn s c 0x14 → dByte c.desc 8 = 1 →
      ∃ t, exec (.pause c.ring) s = .next t ∧ ended t c.ring c.index .ok 0 0 ∧
        t.churn = { s.churn with paused := true } ∧ onlyStarted s t ∧ t = { s with herd := t.herd, churn := t.churn }) ∧
    (onTurn s c 0x14 → dByte c.desc 8 = 2 →
      ∃ t, exec (.resume c.ring) s = .next t ∧ ended t c.ring c.index .ok 0 0 ∧
        t.churn = { s.churn with paused := false } ∧ onlyStarted s t ∧ t = { s with herd := t.herd, churn := t.churn }) ∧
    (onTurn s c 0x14 → dByte c.desc 8 = 3 →
      ∃ t res, exec (.status c.ring) s = .next t ∧ ended t c.ring c.index .ok 0 res ∧
        (s.churn.corrections < 2 ^ 32 → bits res 0 32 = BitVec.ofNat 32 s.churn.corrections) ∧ onlyStarted s t ∧
        t = { s with herd := t.herd }) ∧
    (onTurn s c 0x14 → dByte c.desc 8 = 4 → reloadedBad (dField c.desc 10 2) (dByte c.desc 12) = false →
      ∃ t, exec (.reloaded c.ring) s = .next t ∧ ended t c.ring c.index .ok 0 0 ∧
        t.churn = { s.churn with awaiting := t.churn.awaiting } ∧
        (∀ a, a ∈ t.churn.awaiting ↔ a ∈ s.churn.awaiting ∧
          ¬(tabUnitCode a.1 = dField c.desc 10 2 ∧ a.2 = dByte c.desc 12)) ∧ onlyStarted s t ∧
        t = { s with herd := t.herd, churn := t.churn }) ∧
    (onTurn s c 0x24 → dByte c.desc 9 = 0 → dByte c.desc 8 < 192 → dByte c.desc 12 ≤ 7 →
      addrBad (dField c.desc 16 8) = false →
      ∃ t, exec (.msgSendIntr c.ring) s = .next t ∧ acted t c ∧ t.herd.memOut = s.herd.memOut ++
          [intrAcc (.cmd c.ring c.index) (dByte c.desc 8) (dField c.desc 16 8 / 64) (dByte c.desc 12)
            (bits c.desc 192 64) (decide (c.ring.val < 4))] ∧
        t = { s with herd := { s.herd with started := t.herd.started, memOut := t.herd.memOut } }) ∧
    (∀ (block : Block) (n : Nat), onTurn s c 0x24 → dByte c.desc 9 = 1 → dByte c.desc 8 < 192 →
      dByte c.desc 12 = n → 0 < n → n ≤ 4 → dField c.desc 10 2 ≤ 1023 → addrBad (dField c.desc 16 8) = false →
      blockGood block n = true →
      ∃ t, exec (.msgSendMail c.ring block) s = .next t ∧ acted t c ∧ t.herd.memOut = s.herd.memOut ++
          [mailAcc (.cmd c.ring c.index) (dByte c.desc 8) (dField c.desc 10 2) ((block.take n).map (·.data))
            (decide (c.ring.val < 4))] ∧
        t = { s with herd := { s.herd with started := t.herd.started, memOut := t.herd.memOut } }) ∧
    (∀ (ring : CmdRing) (index : Nat) (st : Status) (lstat : BitVec 16),
      s.herd.started.find? (isCmd ring index) = some c → dByte c.desc 4 = 0x24 →
      useLeft s (.cmd ring index) = false →
      ended (cmdAnswered s ring index st lstat) ring index st 0 (lstat.setWidth 320) ∧
        onlyStarted s (cmdAnswered s ring index st lstat))

/-- R329, R342, R381, R474: CROCK_DRAIN sends the records of the entries asked for to memory, and the answer to a line
clears the valid bits of its entries; LINK_CTL writes the items of its mask at both ends of a link; RING_MOVE is
judged and its steps begin; SNAPSHOT starts a sequence. -/
def Obligations.OtherCommandsAct : Prop :=
  ∀ (s : State) (c : Cmd),
    (∀ (ls : List (BitVec 512 × List Nat)), onTurn s c 0x15 → dField c.desc 8 2 ≤ 4096 →
      addrBad (dField c.desc 16 8) = false →
      ls = drainLines s (if dField c.desc 8 2 = 0 then crockValids s.crock
        else (crockValids s.crock).take (dField c.desc 8 2)) →
      (ls = [] → ∃ t, exec (.crockDrain c.ring) s = .next t ∧ ended t c.ring c.index .ok 0 (drainResult s.crock 0) ∧
        onlyStarted s t ∧ t = { s with herd := t.herd }) ∧
      (ls ≠ [] → ∃ t, exec (.crockDrain c.ring) s = .next t ∧ acted t c ∧ t.herd.memOut = s.herd.memOut ++
          drainWrites s c.ring c.index (dField c.desc 16 8 / 64) none ls ∧
        t = { s with herd := { s.herd with started := t.herd.started, memOut := t.herd.memOut } })) ∧
    (∀ is : List Nat, (drainAnswered s c.ring c.index is .ok).crock = crockClear s.crock is ∧
      (∀ st, st ≠ .ok → (drainAnswered s c.ring c.index is st).crock = s.crock ∧
        (c ∈ s.herd.started → ∃ r, ended (drainAnswered s c.ring c.index is st) c.ring c.index .poison 0 r))) ∧
    (∀ l : LinkId, onTurn s c 0x18 → linkCtlBad c.desc = false → dByte c.desc 8 = l.val →
      (bothEnds l).all (endReached s) = true → (dByte c.desc 9).testBit 0 = false → (dByte c.desc 9).testBit 5 = false →
      ∃ t res, exec (.linkCtl c.ring) s = .next t ∧ ended t c.ring c.index .ok 0 res ∧
        (∀ e ∈ bothEnds l, spn t e = { spn s e with
          compress := if (dByte c.desc 9).testBit 1 then (dByte c.desc 11).testBit (e.val % 2) else (spn s e).compress
          lockLoss := if (dByte c.desc 9).testBit 2 then dField c.desc 12 2 else (spn s e).lockLoss
          laneErrMax := if (dByte c.desc 9).testBit 3 then dByte c.desc 14 else (spn s e).laneErrMax
          returnWait := if (dByte c.desc 9).testBit 4 then dByte c.desc 15 else (spn s e).returnWait }) ∧
        (∀ e, e ∉ bothEnds l → spn t e = spn s e) ∧ onlyStarted s t ∧
        t = { s with herd := t.herd, spine := t.spine }) ∧
    (∀ block : Block, onTurn s c 0x28 → s.herd.swap = none → sectorsMissed s = 0 →
      addrBad (dField c.desc 16 8) = false → blockGood block 2 = true →
      (∀ r, moveBad s block r = false) →
      ∃ t ws, exec (.ringMove c.ring block) s = .next t ∧ acted t c ∧ t.herd.moving = some ws ∧
        (∀ r : RingId, tget ws (Fin.ofNat 16 r.val) = moveWord block r) ∧ t.herd.accept = false ∧
        t.herd.rings = s.herd.rings ∧ t = { s with herd := t.herd }) ∧
    (onTurn s c 0x10 → s.dip.seq = none → dField c.desc 14 2 ≠ 0 → 8 ≤ dField c.desc 16 2 →
      ∃ t q, exec (.snapshot c.ring) s = .next t ∧ acted t c ∧ t.dip = { s.dip with seq := some q } ∧
        q.first = max (dField c.desc 8 6) (s.herd.epoch + 4) ∧ q.next = q.first ∧ q.repeats = dField c.desc 14 2 ∧
        q.interval = dField c.desc 16 2 ∧ q.ring = c.ring ∧ q.index = c.index ∧ q.user = decide (4 ≤ c.ring.val) ∧
        (q.first = s.herd.epoch + 4 → q.armed = some (q.first, ~~~ (sectorsMissed s))) ∧
        onlyStarted s t ∧ t = { s with herd := t.herd, dip := t.dip })

/-- R328, R331: CFG_WRITE of one entry writes that entry of the inactive set and nothing else of either set; CFG_COPY
makes every unit's entries of both sets equal to those of its active set, and ends when the sectors have
acknowledged it; CFG_READ sends an entry's value to memory. -/
def Obligations.ConfigSetsWrittenAndRead : Prop :=
  ∀ (s : State) (c : Cmd), swf cfgBoot s.cfgA = true → swf cfgBoot s.cfgB = true →
    (∀ (block : Block) (i : ItemInfo) (p : CfgPlace) (v : Nat), onTurn s c 0x01 →
      itemInfo (cfgArgs c).item = some i → cfgMalformed (cfgArgs c) i true = false → (cfgArgs c).source = 0 →
      cfgPlaces (cfgArgs c) i = [(p, 0)] → placeReached s p = true → (cfgArgs c).count = 1 →
      ((cfgArgs c).set == 1) ≠ s.herd.active → s.herd.swap = none →
      itemValue (cfgArgs c).item p.index (dField c.desc 32 i.bytes) = some v → (cfgArgs c).index = p.index →
      (cfgArgs c).item ≠ itBankMap → (cfgArgs c).item ≠ itGateList →
      ∃ t, exec (.cfgWrite c.ring block) s = .next t ∧ ended t c.ring c.index .ok 0 0 ∧
        cfgGet t ((cfgArgs c).set == 1) (cfgArgs c).item p.num p.port p.index = v ∧
        (if (cfgArgs c).set = 1 then
          t.cfgA = s.cfgA ∧ otherEntries s.cfgB t.cfgB (cfgKey (cfgArgs c).item p.num p.port p.index)
         else t.cfgB = s.cfgB ∧ otherEntries s.cfgA t.cfgA (cfgKey (cfgArgs c).item p.num p.port p.index)) ∧
        onlyStarted s t ∧ t = { s with herd := t.herd, cfgA := t.cfgA, cfgB := t.cfgB }) ∧
    (onTurn s c 0x02 → s.herd.copy = none → s.herd.swap = none → sectorsMissed s = 0 →
      ∃ t, exec (.cfgCopy c.ring) s = .next t ∧ acted t c ∧ t.herd.copy = some { ring := c.ring, index := c.index } ∧
        (∀ key, sget cfgBoot t.cfgA key = sget cfgBoot (if keyActive s key then s.cfgB else s.cfgA) key) ∧
        t.cfgB = t.cfgA ∧ t = { s with herd := t.herd, cfgA := t.cfgA, cfgB := t.cfgB, churn := t.churn }) ∧
    (∀ w, s.herd.copy = some w → (∃ d ∈ s.herd.started, d.ring = w.ring ∧ d.index = w.index) →
      (copyTick s).herd.copy = none ∧
      (sectorsMissed s = 0 → ended (copyTick s) w.ring w.index .ok 0 0) ∧
      (sectorsMissed s ≠ 0 → ended (copyTick s) w.ring w.index .notReady ((sectorsMissed s).setWidth 16) 0) ∧
      ∀ n, (round (copyTick s) n).dirty = (sectorsMissed s).getLsbD n.val) ∧
    (∀ (i : ItemInfo) (p : CfgPlace), onTurn s c 0x04 → itemInfo (cfgArgs c).item = some i →
      cfgMalformed (cfgArgs c) i false = false → addrBad (cfgArgs c).source = false →
      cfgPlaces (cfgArgs c) i = [(p, 0)] → placeReached s p = true →
      ∃ t d, exec (.cfgRead c.ring) s = .next t ∧ d ∈ t.herd.started ∧ d.ring = c.ring ∧ d.index = c.index ∧
        d.ran = true ∧ d.ending = (.ok, 0, 0) ∧
        t.herd.memOut = s.herd.memOut ++ [linesAcc s (.cmd c.ring c.index) opWrPartNp ((cfgArgs c).source / 64)
          [BitVec.ofNat 512 (2 ^ i.bytes - 1), BitVec.ofNat 512 (cfgGet s ((cfgArgs c).set == 1) (cfgArgs c).item
            p.num p.port p.index % 256 ^ i.bytes)]] ∧
        t = { s with herd := { s.herd with started := t.herd.started, memOut := t.herd.memOut } })

/-- R93, R332, R333, R446: CFG_SWAP arms every agent that may arm; a swap not acknowledged by every steward is cancelled
two ticks before its own and ends NOT_READY; each router swaps at its own arrival of the tick, and its outputs'
ageing counts start again. -/
def Obligations.SwapArmedCancelledApplied : Prop :=
  ∀ (s : State),
    (∀ c : Cmd, onTurn s c 0x03 → dByte c.desc 14 ≤ 1 → (dByte c.desc 14 == 1) ≠ s.herd.active →
      s.herd.epoch + 4 ≤ dField c.desc 8 6 → s.herd.swap = none → sectorsMissed s = 0 →
      (∀ n, (round s n).dirty = false) →
      ∃ t w, exec (.cfgSwap c.ring) s = .next t ∧ acted t c ∧ t.herd.swap = some w ∧ w.tick = dField c.desc 8 6 ∧
        w.toB = (dByte c.desc 14 == 1) ∧ t.herd.active = s.herd.active ∧
        (∀ r, (rtr s r).armed = none → agentMayArm s r = true → (rtr t r).armed = some (w.tick, w.toB)) ∧
        (∀ r, (rtr t r).active = (rtr s r).active) ∧ t = { s with herd := t.herd, routers := t.routers }) ∧
    (∀ w : Swap, herdRuns s = true → s.herd.swap = some w → w.tick = s.herd.epoch + 2 → swapAcked w = false →
      (∃ d ∈ s.herd.started, d.ring = w.ring ∧ d.index = w.index) →
      ∃ t, exec .cfgSwapCancel s = .next t ∧ t.herd.swap = none ∧ ended t w.ring w.index .notReady 0 0 ∧
        (∀ r, routerReached s r = true → (rtr t r).armed = none) ∧ t.herd.active = s.herd.active ∧
        (∀ r, (rtr t r).active = (rtr s r).active) ∧ t = { s with herd := t.herd, routers := t.routers }) ∧
    (∀ (r : RouterId) (e : Nat) (toB : Bool), routerRuns s r = true → (rtr s r).armed = some (e, toB) →
      e ≤ epochR s r → storeIdle s (slotAt r 0) → storeIdle s (slotAt r 1) →
      ∃ t, exec (.cfgSwapApply r) s = .next t ∧ (rtr t r).active = toB ∧ (rtr t r).armed = none ∧
        (∀ p, (outOf t r p).age = 0) ∧
        (∀ q, q ≠ r → rtr t q = rtr s q) ∧ t.cfgA = s.cfgA ∧ t.cfgB = s.cfgB ∧ t.herd = s.herd ∧ t.aon = s.aon)

/-- R227, R300, R301, R303: GATE_LOAD of one region writes it and counts the set's generation; GATE_SWAP puts the shadow
set in force; METER_PROG hands flow entries to a host-link NI, which puts them in force at its next tick; the
command then ends. -/
def Obligations.UnitTablesWritten : Prop :=
  ∀ (s : State) (c : Cmd) (n : Slot),
    (∀ (block : Block) (i : Fin 32) (set : Fin 2), onTurn s c 0x08 → dField c.desc 8 2 = n.val →
      dByte c.desc 10 = i.val → dByte c.desc 11 = 1 → niReached s n = true → set = loadSet (nif s n) n →
      (tget (nif s n).gates set).gen.toNat = dField c.desc 12 2 → addrBad (dField c.desc 16 8) = false →
      blockGood block 1 = true → storeIdle s n →
      ∃ t res, exec (.gateLoad c.ring block) s = .next t ∧ ended t c.ring c.index .ok 0 res ∧
        tget (tget (nif t n).gates set).regions i =
          regionWords (gateImage block 0).1 (gateImage block 0).2 ∧
        (∀ j, j ≠ i → tget (tget (nif t n).gates set).regions j = tget (tget (nif s n).gates set).regions j) ∧
        (tget (nif t n).gates set).gen = (tget (nif s n).gates set).gen + 1 ∧
        (∀ d, d ≠ set → tget (nif t n).gates d = tget (nif s n).gates d) ∧
        (nif t n).gateActive = (nif s n).gateActive ∧ otherNis n s t ∧
        t = { s with nis := t.nis, herd := t.herd, churn := t.churn }) ∧
    (onTurn s c 0x09 → dField c.desc 8 2 = n.val → hasOneSet n = true →
      ∃ t res, exec (.gateSwap c.ring) s = .next t ∧ ended t c.ring c.index .notReady 0 res ∧
        t = { s with herd := t.herd }) ∧
    (onTurn s c 0x09 → dField c.desc 8 2 = n.val → hasOneSet n = false → niReached s n = true →
      storeIdle s n →
      (tget (nif s n).gates (1 - (nif s n).gateActive)).gen.toNat = dField c.desc 12 2 →
      ∃ t res, exec (.gateSwap c.ring) s = .next t ∧ ended t c.ring c.index .ok 0 res ∧
        (nif t n).gateActive = 1 - (nif s n).gateActive ∧
        (tget (nif t n).gates (1 - (nif s n).gateActive)).regions =
          (tget (nif s n).gates (1 - (nif s n).gateActive)).regions ∧
        (tget (nif t n).gates (1 - (nif s n).gateActive)).gen =
          (tget (nif s n).gates (1 - (nif s n).gateActive)).gen + 1 ∧
        otherNis n s t ∧ t = { s with nis := t.nis, herd := t.herd }) ∧
    (∀ block : Block, onTurn s c 0x0C → dByte c.desc 8 = n.val → n.val < 16 → niReached s n = true →
      0 < dField c.desc 12 2 → dField c.desc 10 2 + dField c.desc 12 2 ≤ 4096 →
      addrBad (dField c.desc 16 8) = false → blockGood block ((dField c.desc 12 2 * 16 + 63) / 64) = true →
      ∃ t ws, exec (.meterProg c.ring block) s = .next t ∧ acted t c ∧
        (nif t n).meterNext = (nif s n).meterNext ++ ws ∧ ws.length = dField c.desc 12 2 ∧
        (∀ w ∈ ws, w.epoch = epochN s n ∧ w.cmd = some (c.ring, c.index) ∧ w.fill = ((dByte c.desc 9) % 2 == 1) ∧
          dField c.desc 10 2 ≤ w.tenant.val ∧
          w.tenant.val < dField c.desc 10 2 + dField c.desc 12 2) ∧ (nif t n).meter = (nif s n).meter ∧
        otherNis n s t ∧ onlyStarted s t ∧ t = { s with nis := t.nis, herd := t.herd }) ∧
    (∀ w : MeterWrite, niRuns s n = true → (nif s n).meterNext = [w] → w.epoch ≠ epochN s n → storeIdle s n →
      swf (fun _ => 0) (nif s n).meter = true →
      ∃ t, exec (.meterEntryApply n) s = .next t ∧ (nif t n).meterNext = [] ∧
        (meterWord (nif t n) w.tenant.val false).getLsbD 63 = w.w0.getLsbD 63 ∧
        (w.fill = true → meterWord (nif t n) w.tenant.val true = BitVec.ofNat 64 (epochN s n % 2 ^ 48)) ∧
        (w.fill = false → meterWord (nif t n) w.tenant.val true = meterWord (nif s n) w.tenant.val true ∧
          bits (meterWord (nif t n) w.tenant.val false) 0 56 = bits (meterWord (nif s n) w.tenant.val false) 0 56) ∧
        (∀ k : Fin 4096, k ≠ w.tenant → ∀ hi, meterWord (nif t n) k.val hi = meterWord (nif s n) k.val hi) ∧
        (∀ d ∈ s.herd.started, cmdOp d = 0x0C → d.ran = true → d.result = none → dByte d.desc 8 = n.val →
          ended t d.ring d.index .ok 0 0) ∧
        otherNis n s t ∧ onlyStarted s t ∧ t = { s with nis := t.nis, herd := t.herd, churn := t.churn })

/-- R178, R179, R180, R527: A valid enable, or change, of a DISABLED group makes it ACTIVE at the coordinator and at
every NI named, with everything from START; a change of an ACTIVE or FAILED group ends NOT_READY, and here an enable
of one too, which is the model's choice (log entry 78). A disable of a DISABLED group ends OK; of an ACTIVE one it
is NOT_READY until the group is at rest; of one at rest, or of a FAILED one, it clears the group's items and
regions, and the NIs reached drop the group. -/
def Obligations.GroupsSetUp : Prop :=
  ∀ (s : State) (c : Cmd) (g : GroupId), dByte c.desc 8 = g.val → onTurn s c 0x20 →
    (∀ (block : Block) (it : CurdItems), it = curdItems (blockLine block 0) →
      (tget s.herd.groups g).state = .disabled → addrBad (dField c.desc 16 8) = false →
      blockGood block (1 + (it.nreg + 7) / 8) = true → curdBlockBad it block g.val = none →
      curdOverlaps s it (((List.range it.nreg).map (regionWord block)).filterMap regionOf) = false →
      it.nreg ≤ freeRegions s → (maskSlots (it.members ||| it.targets)).all (niReached s) = true →
      (dByte c.desc 9 = 0 → ∃ t, exec (.enable c.ring block) s = .next t ∧ groupEnabled s t c g it) ∧
      (dByte c.desc 9 = 1 → ∃ t, exec (.change c.ring block) s = .next t ∧ groupEnabled s t c g it)) ∧
    (∀ block : Block, (tget s.herd.groups g).state ≠ .disabled →
      (dByte c.desc 9 = 0 → ∃ t, exec (.enable c.ring block) s = .next t ∧ ended t c.ring c.index .notReady 0 0 ∧
        onlyStarted s t ∧ t = { s with herd := t.herd }) ∧
      (dByte c.desc 9 = 1 → ∃ t, exec (.change c.ring block) s = .next t ∧ ended t c.ring c.index .notReady 0 0 ∧
        onlyStarted s t ∧ t = { s with herd := t.herd })) ∧
    (dByte c.desc 9 = 2 →
      ((tget s.herd.groups g).state = .disabled →
        ∃ t, exec (.disable c.ring) s = .next t ∧ ended t c.ring c.index .ok 0 0 ∧ onlyStarted s t ∧
          t = { s with herd := t.herd }) ∧
      ((tget s.herd.groups g).state = .active → groupIdle s g = false →
        ∃ t, exec (.disable c.ring) s = .next t ∧ ended t c.ring c.index .notReady 0 0 ∧ onlyStarted s t ∧
          t = { s with herd := t.herd }) ∧
      ((tget s.herd.groups g).state = .active → groupIdle s g = true →
        exec (.disable c.ring) s = .next (endCmd (disableGroup s g) c.ring c.index .ok 0)) ∧
      ((tget s.herd.groups g).state = .failed →
        exec (.disable c.ring) s = .next (endCmd (disableGroup s g) c.ring c.index .ok 0
          (BitVec.ofNat 320 (groupLeft s g % 2 ^ 32)))) ∧
      (((tget s.herd.groups g).state = .active ∧ groupIdle s g = true) ∨ (tget s.herd.groups g).state = .failed →
        (∀ n, storeIdle s n ∧ (nif s n).readWait = []) →
        ∃ t res, exec (.disable c.ring) s = .next t ∧ ended t c.ring c.index .ok 0 res ∧
          tget t.herd.groups g = CoGroup.reset ∧ (∀ d, d ≠ g → tget t.herd.groups d = tget s.herd.groups d) ∧
          (∀ j : Fin 64, (tget s.herd.regions j).getLsbD 63 = true → field (tget s.herd.regions j) 58 5 = g.val →
            tget t.herd.regions j = regionReset) ∧
          (∀ n : Slot, niRuns s n = true → niReached s n = true → (grpOf (nif t n) g).state ≠ .active) ∧
          t = { s with nis := t.nis, herd := t.herd }))

/-- R334, R335, R37, R465: Milk frames. A stop answers a read of an item with its value, and a write with OK after
writing it; a frame that fails its checks is discarded and counted at its stop; the row steward ends its wait for an
answered frame, passes an agent's event on, notes its token, sends an unanswered frame again and after three tries
gives notice; a lost row steward makes its sector unreachable until it returns, and the relays that it missed reach
it then. -/
def Obligations.MilkRounds : Prop :=
  ∀ (s : State) (sec : SectorId), herdRuns s = true →
    (∀ (stop : StopId) (ws dist : List (BitVec 32)) (f : Frame), sectorOk s sec = true → distort ws dist = ws →
      readFrame ws = some f → f.op = opMgRd → f.dst = stop.val ∨ f.dst = 15 → stop.val < 12 →
      routerRuns s (stopRouter sec stop.val) = true →
      s.aon.gated.getLsbD (clusterOf (stopRouter sec stop.val)).val = false →
      ∃ t, exec (.mgRd sec stop ws dist) s = .next t ∧
        (round t sec).toSteward = (round s sec).toSteward ++
          [writeFrame { op := opMgResp, dst := stopSteward, src := stop.val, tag := f.tag
                        second := BitVec.ofNat 32 (stCode (frameRead s (stopRouter sec stop.val) f).1 * 2 ^ 28)
                        data := (frameRead s (stopRouter sec stop.val) f).2 }] ∧
        (∃ a ∈ (round t sec).awaited, a.1 = f.tag) ∧
        (∀ q, q ≠ sec → round t q = round s q) ∧ t = { s with herd := { s.herd with rounds := t.herd.rounds } }) ∧
    (∀ (stop : StopId) (ws dist : List (BitVec 32)) (f : Frame) (i : ItemInfo) (p : CfgPlace) (v : Nat),
      sectorOk s sec = true → distort ws dist = ws → readFrame ws = some f → f.op = opMgWr →
      f.dst = stop.val ∨ f.dst = 15 → stop.val < 12 → routerRuns s (stopRouter sec stop.val) = true →
      s.aon.gated.getLsbD (clusterOf (stopRouter sec stop.val)).val = false →
      adPlace (stopRouter sec stop.val) f = some (i, p) → f.data.length = wordCount i.bytes →
      itemValue (adSpace f) p.index (ofWords f.data) = some v → adSpace f ≠ itBankMap → adSpace f ≠ itGateList →
      swf cfgBoot s.cfgA = true → swf cfgBoot s.cfgB = true →
      ∃ t, exec (.mgWr sec stop ws dist) s = .next t ∧ cfgGet t (adSet f) (adSpace f) p.num p.port p.index = v ∧
        (if adSet f then t.cfgA = s.cfgA ∧ otherEntries s.cfgB t.cfgB (cfgKey (adSpace f) p.num p.port p.index)
         else t.cfgB = s.cfgB ∧ otherEntries s.cfgA t.cfgA (cfgKey (adSpace f) p.num p.port p.index)) ∧
        t = { s with cfgA := t.cfgA, cfgB := t.cfgB, herd := { s.herd with rounds := t.herd.rounds } }) ∧
    (∀ (stop : StopId) (ws dist : List (BitVec 32)) (i : Instr), sectorOk s sec = true →
      i = .mgRd sec stop ws dist ∨ i = .mgWr sec stop ws dist → readFrame (distort ws dist) = none →
      ∃ t, exec i s = .next t ∧
        tget (round t sec).badFrames stop = tget (round s sec).badFrames stop + 1 ∧
        (round t sec).toSteward = (round s sec).toSteward ∧
        (∀ q, q ≠ sec → round t q = round s q) ∧ t = { s with herd := { s.herd with rounds := t.herd.rounds } }) ∧
    (∀ (ws dist : List (BitVec 32)) (rest : List (List (BitVec 32))) (f : Frame), sectorOk s sec = true →
      (round s sec).toSteward = ws :: rest → distort ws dist = ws → readFrame ws = some f → f.op = opMgResp →
      f.dst = stopSteward →
      ∃ t, exec (.mgResp sec dist) s = .next t ∧
        (round t sec).awaited = (round s sec).awaited.filter (fun a => a.1 != f.tag) ∧
        (round t sec).toSteward = rest ∧
        (∀ q, q ≠ sec → round t q = round s q) ∧ t = { s with herd := { s.herd with rounds := t.herd.rounds } }) ∧
    (∀ (ws dist : List (BitVec 32)) (f : Frame), sectorOk s sec = true → distort ws dist = ws →
      readFrame ws = some f →
      (isToken f = true → 0 < (round s sec).tokens →
        ∃ t, exec (.mgEvent sec ws dist) s = .next t ∧ (round t sec).token = s.herd.epoch ∧
          (round t sec).tokens = (round s sec).tokens - 1 ∧
          (∀ q, q ≠ sec → round t q = round s q) ∧ t = { s with herd := { s.herd with rounds := t.herd.rounds } }) ∧
      (∀ ev : EventCode, f.op = opMgEvent → f.data ≠ [] → f.src < 12 →
        eventOf (field f.second 16 16) = some ev →
        ∃ t, exec (.mgEvent sec ws dist) s = .next t ∧ reported s t ev .router (stopRouter sec f.src).val ∧
          (∀ a ∈ (round t sec).agentSent, a.1 ≠ ws) ∧ t = { s with herd := t.herd })) ∧
    (∀ (tag tag' : BitVec 8) (ws : List (BitVec 32)) (k : Nat), sectorOk s sec = true →
      (round s sec).awaited.find? (fun a => a.1 == tag) = some (tag', ws, k) →
      ∃ t, exec (.mgFrameTimeout sec tag) s = .next t ∧
        (k < 2 → (round t sec).sent = (round s sec).sent ++ [ws] ∧ (round t sec).lost = (round s sec).lost) ∧
        (2 ≤ k → (round t sec).lost = true ∧ (round t sec).tokenStopped = true) ∧
        (∀ q, q ≠ sec → round t q = round s q) ∧ t = { s with herd := { s.herd with rounds := t.herd.rounds } }) ∧
    (∀ silent : Bool, sectorOk s sec = true →
      silent = true ∨ (round s sec).lost = true ∨ (round s sec).token + 4 ≤ s.herd.epoch → s.aon.modeReq = none →
      ∃ t, exec (.stewardLost sec silent) s = .next t ∧ sectorOk t sec = false ∧
        (round t sec).resetAt = s.herd.epoch ∧
        reported s t .stewardLost .sector sec.val ∧ (∀ q, q ≠ sec → round t q = round s q) ∧
        t = { s with herd := { s.herd with rounds := t.herd.rounds, reports := t.herd.reports } }) ∧
    (sectorOk s sec = false →
      ∃ t, exec (.sectorReturn sec) s = .next t ∧ sectorOk t sec = true ∧
        (∀ o, slotSector o = sec → tget t.herd.gens o = tget s.herd.gens o + tget s.herd.gensLate o ∧
          tget t.herd.gensLate o = 0) ∧
        (∀ r, sectorOf r = sec → routerRuns s r = true → (rtr t r).spineUp = s.herd.spineUp ∧
          (rtr t r).govLevel = s.herd.govLevel))

/-- R34, R314, R322, R454: The Herdsman takes the first report that can reach it; a CONTAINED event goes to event ring 0
and to the Crock; one that merges opens an event that is written four epochs later with the number of its reports. -/
def Obligations.EventsWritten : Prop :=
  ∀ (s : State), herdRuns s = true → herdReachable s = true → ringFull (hring s 12) = false →
    (hring s 12).halted = false →
    (∀ (ev : Event) (rest : List Event), s.herd.reports = ev :: rest → ev.sectors &&& sectorsMissed s = 0 →
      evClass ev.code = .contained → mergeable ev.code = false → ev.code ≠ .ringHalt → ev.code ≠ .pwrAckLate →
      ev.code ≠ .pwrAckFail →
      ∃ t, exec .eventReport s = .next t ∧ t.herd.reports = rest ∧
        (hring t 12).pending = (hring s 12).pending ++
          [eventEntry ev ev.dropped] ∧ (hring t 12).dropped = (hring s 12).dropped ∧
        (∀ q, q ≠ 12 → hring t q = hring s q) ∧ t.crock = crockPut s.crock ev ev.epoch ∧
        t = { s with herd := t.herd, crock := t.crock }) ∧
    (∀ (ev : Event) (rest : List Event), s.herd.reports = ev :: rest → ev.sectors &&& sectorsMissed s = 0 →
      ev.code = .linkDown → s.herd.merges = [] →
      ∃ t, exec .eventReport s = .next t ∧
        t.herd = { s.herd with reports := rest, merges := [{ ev := ev, opened := s.herd.epoch, count := 1 }] } ∧
        t = { s with herd := t.herd }) ∧
    (∀ (m : Merge) (rest : List Merge), s.herd.merges = m :: rest → m.opened + 4 ≤ s.herd.epoch →
      m.ev.code = .linkDown →
      ∃ t, exec .eventMergeClose s = .next t ∧ t.herd.merges = rest ∧
        (hring t 12).pending = (hring s 12).pending ++
          [eventEntry { m.ev with merged := m.count } m.ev.dropped] ∧
        (∀ q, q ≠ 12 → hring t q = hring s q) ∧
        t.crock = crockPut s.crock { m.ev with merged := m.count } m.ev.epoch ∧
        t = { s with herd := t.herd, crock := t.crock })

/-! ### The metering island and the Dipper (chapters 11 and 12) -/

/-- R354, R355, R356, R357, R359, R360, R362, R364, R367: A tally word that reaches the Can undamaged on a measured lane
enters the lane's combiner under its tenant and kind; a damaged one is logged, makes the period inexact and is
reported; a marker advances the lane's epoch, empties its combiner, and at a report boundary begins the collection.
A word that leaves the lane FIFO lets a marker in that had found it full. A report closes when every measured lane
has delivered the boundary, or without those that have not when the wait is over; its lines go to NI 190 as posted
writes under a fence, then its trailer as a write that is answered, and it is complete when that is answered OK; a
line refused, or an answer that is not OK, abandons it; a fabric reset closes a report at once; a counter found
uncorrectable restarts; a missing MCLK is reported once. -/
def Obligations.TalliesAndReports : Prop :=
  (∀ (s : State) (l : LaneId) (raw dist w : BitVec 24) (rest : List (BitVec 24)) (x : TallyLane),
     canRuns s = true → (tget s.can.lanes l).fifo = raw :: rest → w = raw ^^^ dist →
     x = { tget s.can.lanes l with
       fifo := (rest ++ (tget s.can.lanes l).owed).take 32, owed := (rest ++ (tget s.can.lanes l).owed).drop 32 } →
     (field raw 0 7 ≠ 0 → parity w = false → field w 0 7 ≠ 0 → measured s.can l = true →
       (tmapOf s.can.tmap (field w 11 12)).getLsbD 15 = true → (tget s.can.lanes l).combiner = [] →
       ∃ t, exec (.tallyWord l dist) s = .next t ∧
         tget t.can.lanes l = { x with combiner := [(field w 11 12, field w 8 3, field w 0 7)] } ∧
         (∀ m, m ≠ l → tget t.can.lanes m = tget s.can.lanes m) ∧ t.can.counters = s.can.counters ∧
         t = { s with can := t.can }) ∧
     (field raw 0 7 ≠ 0 → parity w = true → herdRuns s = true →
       ∃ t, exec (.tallyWord l dist) s = .next t ∧ t.can.exact = false ∧ tget t.can.lanes l = x ∧
         t.can.counters = s.can.counters ∧ reported s t .meterTallyParity .die 0 ∧ onlyReports s t ∧
         t = { s with can := t.can, herd := t.herd }) ∧
     (∀ e : Nat, field raw 0 7 = 0 → parity w = false → field w 0 7 = 0 → (tget s.can.lanes l).fresh = false →
       e = laneEpoch (tget s.can.lanes l) (field w 11 12) → (tget s.can.lanes l).epoch < e →
       measured s.can l = true → s.can.closing = none → s.can.asked = none →
       ∃ t, exec (.tallyMarker l dist) s = .next t ∧ (tget t.can.lanes l).epoch = e ∧
         (tget t.can.lanes l).combiner = [] ∧ (tget t.can.lanes l).fifo = x.fifo ∧ (tget t.can.lanes l).owed = x.owed ∧
         (e % reportPeriod s.can = 0 → t.can.closing = some e ∧ (tget t.can.lanes l).atBoundary = some e) ∧
         (e % reportPeriod s.can ≠ 0 → t.can.closing = none) ∧
         (∀ m, m ≠ l → tget t.can.lanes m = tget s.can.lanes m) ∧ t = { s with can := t.can })) ∧
  (∀ (s : State), canRuns s = true →
     (∀ (b : Nat) (i : Instr), s.can.closing = some b → s.can.report = none →
       (i = .reportClose ∧ lanesMissing s.can = []) ∨ i = .laneAbsentTimeout →
       ∃ t r, exec i s = .next t ∧ t.can.report = some r ∧ r.boundary = b ∧ r.start = s.can.start ∧
         r.seq = s.can.nextSeq ∧ r.lines = 0 ∧
         (∀ l : LaneId, r.absent.getLsbD l.val = decide (l ∈ lanesMissing s.can)) ∧ t.can.nextSeq = s.can.nextSeq + 1 ∧
         t.can.start = b ∧ t.can.closing = none ∧ t.can.counters = s.can.counters ∧ t.can.lanes = s.can.lanes ∧
         t = { s with can := t.can }) ∧
     (∀ r, canDelivers s = true → s.can.report = some r → r.lines = 0 →
       ∃ t p, exec .reportWrite s = .next t ∧ t.can.report = some { r with lines := 4112 } ∧
         reportPackets s r = p ++ t.can.memOut ∧ (∀ k, k < 1028 → ∀ i, i < 4 →
           (((reportPackets s r).getD k []).getD i zeroFlit).dat = reportLine s.can r (4 * k + i)) ∧
         t.can.counters = s.can.counters ∧ otherNis canSlot s t ∧ t.routers = s.routers ∧ t.spine = s.spine ∧
         t.aon = s.aon ∧ t.crock = s.crock ∧ t.cfgA = s.cfgA ∧ t.cfgB = s.cfgB) ∧
     (∀ r, canDelivers s = true → s.can.report = some r → r.lines = 4112 → canRefused s = false →
       canStatus s = some .ok →
       ∃ t q p, exec .reportTrailer s = .next t ∧ t.can.report = some { r with lines := 4113 } ∧
         [q] = p ++ t.can.memOut ∧ fOp (hd q) = opWrFullNp ∧ fAddr (hd q) = (reportBase s.can r + 4112) % 2 ^ 46 ∧
         (hd q).dat = reportTrailer s.can r ∧ t.can.counters = s.can.counters ∧ otherNis canSlot s t ∧
         t.routers = s.routers ∧ t.spine = s.spine ∧ t.aon = s.aon ∧ t.crock = s.crock) ∧
     (∀ r, canDelivers s = true → herdRuns s = true → s.can.report = some r → r.lines = 4113 → canRefused s = false →
       canStatus s = some .ok →
       ∃ t, exec .reportTrailer s = .next t ∧ t.can.report = none ∧ t.can.lastFailed = false ∧
         t.can.lastSeq = r.seq ∧ t.can.memOut = s.can.memOut ∧ reported s t .meterReport .die 0 ∧ onlyReports s t ∧
         nif t canSlot = { nif s canSlot with out := [] } ∧ otherNis canSlot s t ∧
         t = { s with nis := t.nis, can := t.can, herd := t.herd }) ∧
     (∀ r st, canDelivers s = true → herdRuns s = true → s.can.report = some r → r.lines ≠ 0 →
       canRefused s = true ∨ (canStatus s = some st ∧ st ≠ .ok) →
       ∃ t, exec .reportTrailer s = .next t ∧ t.can.report = none ∧ t.can.lastFailed = true ∧
         t.can.memOut = [] ∧ reported s t .meterReportFail .die 0 ∧ onlyReports s t ∧
         nif t canSlot = { nif s canSlot with out := [] } ∧ otherNis canSlot s t ∧
         t = { s with nis := t.nis, can := t.can, herd := t.herd }) ∧
     (s.can.resetNotice = true → s.can.report = none →
       ∃ t r, exec .meterResetNotice s = .next t ∧ t.can.resetNotice = false ∧ t.can.report = some r ∧ r.reason = 4 ∧
         t.can.start = 0 ∧ (∀ l, (tget t.can.lanes l).fresh = true ∧ (tget t.can.lanes l).epoch = 0) ∧
         t = { s with can := t.can }) ∧
     (∀ i : Fin 32768, swf (fun _ => (0 : Word)) s.can.counters = true →
       ∃ t, exec (.canScrub [i]) s = .next t ∧ sget (fun _ => 0) t.can.counters i.val = 0 ∧
         (∀ j, j ≠ i.val → sget (fun _ => 0) t.can.counters j = sget (fun _ => 0) s.can.counters j) ∧
         t.can.exact = false ∧ t = { s with can := t.can }) ∧
     (s.can.mclkLost = false →
       ∃ t, exec .meterClock s = .next t ∧ t.can.mclkLost = true ∧ reported s t .meterClock .die 0 ∧ onlyReports s t ∧
         t = { s with can := t.can, herd := t.herd }))

/-- R344, R363, R365, R366, R369, R370, R498: The register page of the Can and its one-time store. Sealing needs the
key; unsealing needs SEAL_OPEN_N and a counted answer; a sealed field is not written and the attempt is reported; a
debug access is logged and does nothing; the Can's own reset clears it and it then reads its words. -/
def Obligations.CanRegistersWritten : Prop :=
  ∀ (s : State) (v : Word), herdRuns s = true → canRuns s = true →
    (v.getLsbD 0 = true → s.can.keyOk = true → s.can.sealed = false →
      ∃ t e, exec (.mtrSeal v) s = .next t ∧ t.can.sealed = true ∧ t.can.sealRefused = false ∧
        t.can.asked = some (1, e) ∧ t = { s with can := t.can }) ∧
    (v.getLsbD 0 = true → s.can.keyOk = false →
      exec (.mtrSeal v) s = .next (updCan s (fun c => { c with sealRefused := true }))) ∧
    (v.getLsbD 0 = true → s.can.ots = none →
      exec (.mtrUnseal v true) s =
        .next (updCan s (fun c => { c with sealOpen := true, ots := some 16, unsealPending := true }))) ∧
    (v.getLsbD 0 = true →
      ∃ t, exec (.mtrUnseal v false) s = .next t ∧ t.can.sealed = s.can.sealed ∧ t.can.ots = s.can.ots ∧
        reported s t .meterSealedWrite .die 0 ∧ onlyReports s t ∧ t = { s with can := t.can, herd := t.herd }) ∧
    (s.can.ots = some 16 →
      (∀ w : Word, ∃ t, exec (.unsealConfirm (.data w)) s = .next t ∧ t.can.sealed = false ∧
        t.can.unsealPending = false ∧ t.can.sealEvents = w.setWidth 32 ∧ t = { s with can := t.can }) ∧
      (∃ t, exec (.unsealConfirm .err) s = .next t ∧ t.can.sealed = s.can.sealed ∧ t.can.unsealPending = false ∧
        t.can.otsFail = true ∧ t.can.sealEvents = s.can.sealEvents ∧ t = { s with can := t.can })) ∧
    (∀ off, off = 0x028 ∨ off = 0x030 ∨ off = 0x038 → s.can.sealed = true →
      ∃ t, exec (.sealedWrite off v) s = .next t ∧ t.can.cfgNext = s.can.cfgNext ∧ t.can.tmapNext = s.can.tmapNext ∧
        t.can.tmapAddr = s.can.tmapAddr ∧ reported s t .meterSealedWrite .die 0 ∧ onlyReports s t ∧
        t = { s with can := t.can, herd := t.herd }) ∧
    (s.can.sealed = false → swf tmapReset s.can.tmapNext = true →
      ∃ t, exec (.mtrTmapData v) s = .next t ∧
        tmapOf t.can.tmapNext s.can.tmapAddr.toNat = v.setWidth 16 &&& 0x8FFF#16 ∧
        (∀ i, i ≠ s.can.tmapAddr.toNat → tmapOf t.can.tmapNext i = tmapOf s.can.tmapNext i) ∧
        t.can.tmapAddr = s.can.tmapAddr + 1 ∧ t.can.tmap = s.can.tmap ∧ t = { s with can := t.can }) ∧
    (s.can.asked = none → v.getLsbD 8 = true →
      ∃ t e, exec (.mtrRptNow v) s = .next t ∧ t.can.asked = some (3, e) ∧ t.can.rptCtl = v &&& 0xFF00FF#64 ∧
        t = { s with can := { s.can with asked := t.can.asked, rptCtl := t.can.rptCtl } }) ∧
    (∀ off, s.can.log.length < 60 →
      ∃ t r, exec (.mtrDebugAccess off) s = .next t ∧ t.can.log = s.can.log ++ [r] ∧ field r 0 16 = 0x0011 ∧
        t = { s with can := { s.can with log := t.can.log } }) ∧
    (∃ t, exec .mtrRst s = .next t ∧ t.can = { Can.reset with sealOpen := s.can.sealOpen } ∧
      t = { s with can := t.can, aon := { s.aon with clkReq := t.aon.clkReq } }) ∧
    (∀ (k : Fin 4) (w : Word), s.can.ots = some k.val →
      (∃ t, exec (.otsMAnswer (.data w)) s = .next t ∧ tget t.can.key k = w ∧ t.can.ots = some (k.val + 1) ∧
        (∀ j, j ≠ k → tget t.can.key j = tget s.can.key j) ∧ t = { s with can := t.can }) ∧
      (∃ t, exec (.otsTimeout .can) s = .next t ∧ t.can.keyFail = true ∧ t.can.otsFail = true ∧
        t.can.ots = some (k.val + 1) ∧ t = { s with can := t.can })) ∧
    (∀ w : Word, s.can.ots = some 4 →
      ∃ t, exec (.otsMAnswer (.data w)) s = .next t ∧ t.can.session = w ∧ t.can.keyOk = !s.can.keyFail ∧
        t.can.key = s.can.key ∧ t = { s with can := t.can })

/-- R378, R380, R384, R385, R386, R390, R392: A selection is written at the Herdsman and sent to its unit, which applies
it at its next tick and restarts the counter; the latch copies every counter of a router into its shadow; a gather
hands both halves to NI 188 and, once they are answered, its closing headers; those answered, it is published; one
that fails or is late is given up; DIP_ registers. -/
def Obligations.DipperWorks : Prop :=
  ∀ (s : State),
    (∀ (v : Word) (u : CtrUnit), herdRuns s = true → s.dip.busy = false → unitOf s.dip.selAddr.toNat = some u →
      selReaches s u = true → swf selReset s.dip.sel = true →
      ∃ t e, exec (.dipSelData v) s = .next t ∧
        sget selReset t.dip.sel s.dip.selAddr.toNat = selWritten s.dip.selAddr.toNat v ∧
        (∀ g, g ≠ s.dip.selAddr.toNat → sget selReset t.dip.sel g = sget selReset s.dip.sel g) ∧
        t.dip.waiting = s.dip.waiting ++ [(s.dip.selAddr.toNat, selWritten s.dip.selAddr.toNat v, e)] ∧
        t.dip.busy = true ∧ t.dip.inForce = s.dip.inForce ∧ t = { s with dip := t.dip }) ∧
    (∀ v : Word, herdRuns s = true → s.dip.busy = true → s.dip.selAddr.toNat < 3216 →
      exec (.dipSelData v) s = .next (updDip s (fun d => { d with dropped := true }))) ∧
    (∀ (u : CtrUnit) (g e : Nat) (w : BitVec 32), clusterRuns s (clusterOf (unitRouter u)) = true →
      s.dip.waiting = [(g, w, e)] → unitOf g = some u → e < tget s.epochs (clusterOf (unitRouter u)) →
      s.dip.seq = none → swf selReset s.dip.inForce = true → swf (fun _ => (0 : BitVec 48)) s.dip.value = true →
      ∃ t, exec (.selectionApply u) s = .next t ∧ sget selReset t.dip.inForce g = w ∧
        sget (fun _ => 0) t.dip.value g = 0 ∧
        (∀ j, j ≠ g → j ≠ g + 1 → sget (fun _ => 0) t.dip.value j =
          sget (fun _ => 0) (accrueUnit s u).dip.value j) ∧
        t.dip.waiting = [] ∧ t.dip.busy = false ∧ t.spine = (accrueUnit s u).spine ∧ onlyReports s t ∧
        t = { s with dip := t.dip, spine := t.spine, herd := t.herd }) ∧
    (∀ (c : ClusterId) (q : SnapSeq) (r : RouterId) (g : Nat), clusterRuns s c = true → s.dip.seq = some q →
      clusterOf r = c → armedFor q r (epochR s r) = true → tget s.dip.latched r ≠ epochR s r + 1 →
      g ∈ (routerUnits r).flatMap unitCounters → swf (fun _ => (0 : BitVec 48)) s.dip.shadow = true →
      ∃ t, exec (.snapshotLatch c) s = .next t ∧
        sget (fun _ => 0) t.dip.shadow g = sget (fun _ => 0) (accrueAt s r).dip.value g ∧
        tget t.dip.latched r = epochR s r + 1 ∧
        (∀ j, j < 3072 → sget (fun _ => 0) t.dip.value j = sget (fun _ => 0) s.dip.value j) ∧
        (rtr t r).bwShadowIn = (rtr s r).bwIn ∧ (rtr t r).bwIn = tabAll 10 0 ∧ onlyReports s t ∧
        t = { s with dip := t.dip, routers := t.routers, spine := t.spine, herd := t.herd }) ∧
    (∀ q : SnapSeq, herdRuns s = true → s.dip.seq = some q → s.dip.gather = none → q.next ≤ s.herd.epoch →
      ∃ t, exec .dipperGather s = .next t ∧ t.dip.gather = some (q.next, false) ∧
        t.dip.gBase = (s.dip.privBase, s.dip.userBase, s.dip.userCtl) ∧ t.dip.qUser = s.dip.qUser + 1 ∧
        t.dip.gatherAcks = 0 ∧ t.dip.gatherFail = false ∧ t.dip.restarted = [] ∧
        t.herd = { s.herd with memOut := s.herd.memOut ++
          ((if q.user then [] else writeHalf s q q.next s.dip.qPriv s.dip.privBase false 0) ++
            writeHalf s q q.next s.dip.qUser s.dip.userBase true s.dip.userCtl) } ∧
        t = { s with dip := t.dip, herd := t.herd }) ∧
    (∀ (q : SnapSeq) (e : Nat), herdRuns s = true → s.dip.seq = some q → s.dip.gather = some (e, false) →
      e + 6 ≤ s.herd.epoch → s.herd.epoch < e + 8 → s.dip.gatherFail = false → s.dip.gatherAcks = gatherHalves q →
      ∃ t, exec .dipperPublish s = .next t ∧ t.dip = { s.dip with gather := some (e, true), gatherAcks := 0 } ∧
        t.herd = { s.herd with memOut := s.herd.memOut ++
          ((if q.user then [] else [closeHalf s q e (s.dip.qPriv - 1) s.dip.gBase.1 false 0]) ++
            [closeHalf s q e (s.dip.qUser - 1) s.dip.gBase.2.1 true s.dip.gBase.2.2]) } ∧
        t = { s with dip := t.dip, herd := t.herd }) ∧
    (∀ (q : SnapSeq) (e : Nat), herdRuns s = true → s.dip.seq = some q → s.dip.gather = some (e, true) →
      e + 6 ≤ s.herd.epoch → s.herd.epoch < e + 8 → s.dip.gatherFail = false → s.dip.gatherAcks = gatherHalves q →
      q.stop = false →
      ∃ t, exec .dipperPublish s = .next t ∧ t.dip.gather = none ∧
        t.dip.userSeq = BitVec.ofNat 16 (s.dip.qUser - 1) ∧
        (q.user = false → t.dip.privSeq = BitVec.ofNat 32 (s.dip.qPriv - 1)) ∧
        (q.done + 1 < q.repeats →
          t.dip.seq = some { q with done := q.done + 1, next := q.next + q.interval } ∧ t.herd = (dropGather s).herd) ∧
        (q.repeats ≤ q.done + 1 → t.dip.seq = none ∧ onlyStarted (dropGather s) t ∧
          ((∃ d ∈ s.herd.started, d.ring = q.ring ∧ d.index = q.index) → q.abandoned = 0 →
            ended t q.ring q.index .ok 0 (BitVec.ofNat 320 q.first))) ∧ t = { s with dip := t.dip, herd := t.herd }) ∧
    (∀ (q : SnapSeq) (b : Bool) (e : Nat), herdRuns s = true → s.dip.seq = some q → s.dip.gather = some (e, b) →
      s.dip.gatherFail = true ∨ e + 8 ≤ s.herd.epoch → q.stop = false → q.done + 1 < q.repeats →
      ∃ t, exec .gatherAbandon s = .next t ∧
        t.dip = { s.dip with
          gather := none
          seq := some { q with done := q.done + 1, abandoned := q.abandoned + 1, next := q.next + q.interval } } ∧
        t.herd = (dropGather s).herd ∧ t = { s with dip := t.dip, herd := t.herd }) ∧
    (∀ v : Word, herdRuns s = true →
      exec (.dipSelStatus v) s =
        .next (updDip s (fun d => { d with dropped := d.dropped && !v.getLsbD 2 })) ∧
      exec (.dipUserCtl .userCtl v) s = .next (updDip s (fun d => { d with userCtl := v &&& 0x1FFFF#64 })) ∧
      exec (.dipUserCtl .userBase v) s =
        .next (updDip s (fun d => { d with userBase := v &&& 0x000FFFFFFFFFF000#64 })) ∧
      exec (.dipUserCtl .privBase v) s =
        .next (updDip s (fun d => { d with privBase := v &&& 0x000FFFFFFFFFF000#64 })))

/-! ### Modes, power and wake (chapter 13) -/

/-- R396, R397, R398, R403, R404, R405: The commands that change the mode, and the phases of an entry. -/
def Obligations.ModeEntries : Prop :=
  ∀ (s : State), herdRuns s = true →
    (∀ c : Cmd, onTurn s c 0x1C → dByte c.desc 8 = 2 → mayJoin s = false → modeFault s false = none →
      s.aon.mode = .train → serveFault s (c.desc.getLsbD 72) = none →
      ∃ t, exec (.modeReqServe c.ring) s = .next t ∧ t.aon.mode = .serve ∧ ended t c.ring c.index .ok 0 0 ∧
        (∀ n, (nif t n).reqReady = true) ∧ onlyStarted s t ∧ t.aon.lastTarget = .serve ∧
        t = { s with nis := t.nis, herd := t.herd, aon := t.aon }) ∧
    (∀ c : Cmd, onTurn s c 0x1C → dByte c.desc 8 = 2 → mayJoin s = true →
      ∃ t, exec (.modeReqServe c.ring) s = .next t ∧ acted t c ∧
        t.aon = { s.aon with joined := s.aon.joined ++ [(c.ring, c.index)] } ∧ onlyStarted s t ∧
        t = { s with herd := t.herd, aon := t.aon }) ∧
    (∀ c : Cmd, onTurn s c 0x1C → dByte c.desc 8 = 3 → modeFault s true = none → s.aon.mode = .serve →
      ∃ t m, exec (.modeReqDrowse c.ring) s = .next t ∧ acted t c ∧ t.aon.modeReq = some m ∧ m.target = .drowse ∧
        m.phase = 2 ∧ m.drainFrom = acl s ∧ t.aon.mode = .serve ∧ (∀ n, (nif t n).holdPosted = true) ∧
        onlyStarted s t ∧ t = { s with nis := t.nis, herd := t.herd, aon := t.aon }) ∧
    (∀ c : Cmd, onTurn s c 0x1C → dByte c.desc 8 = 4 → modeFault s true = none →
      s.aon.mode = .serve ∨ s.aon.mode = .drowse → s.dip.gather = none →
      ∃ t m, exec (.modeReqRetain c.ring) s = .next t ∧ acted t c ∧ t.aon.modeReq = some m ∧ m.target = .retain ∧
        m.phase = 2 ∧ t.aon.mode = s.aon.mode ∧ (∀ n, n ≠ herdSlot → (nif t n).holdAll = true) ∧
        t.can = { s.can with paused := true } ∧ onlyStarted s t ∧
        t = { s with nis := t.nis, herd := t.herd, can := t.can, aon := t.aon }) ∧
    (∀ m : ModeReq, s.aon.modeReq = some m → m.phase = 2 → postedDone s = true → m.target = .retain →
      exec .postedDrainDone s = .next (updAon s (fun a => { a with modeReq := some { m with phase := 3 } }))) ∧
    (∀ m : ModeReq, s.aon.modeReq = some m → m.phase = 2 → postedDone s = true → m.target = .drowse →
      s.aon.mode = .serve → s.aon.rootAck = false → s.aon.exitStep = none → (∀ n, storeIdle s n) →
      ∃ t, exec .postedDrainDone s = .next t ∧ t.aon.rootSel = true ∧
        t.aon.modeReq = some { m with phase := 3 } ∧ (∀ n, (nif t n).holdPosted = false) ∧
        t = { s with nis := t.nis, aon := t.aon }) ∧
    (∀ m : ModeReq, s.aon.modeReq = some m → m.phase = 2 → m.drainFrom + m.limit ≤ acl s →
      (∀ n, storeIdle s n) → (∃ d ∈ s.herd.started, d.ring = m.ring ∧ d.index = m.index) →
      ∃ t res, exec .drainTimeout s = .next t ∧ t.aon.modeReq = none ∧ ended t m.ring m.index .notReady 0x0001 res ∧
        t.aon.mode = s.aon.mode ∧ (∀ n, (nif t n).holdPosted = false ∧ (nif t n).holdAll = false) ∧
        reported s t .modeRefused .die 0 ∧ t = { s with nis := t.nis, herd := t.herd, can := t.can, aon := t.aon }) ∧
    (∀ m : ModeReq, s.aon.modeReq = some m → m.phase = 3 → m.target = .retain → fabricQuiet s = true →
      herdQuiet s = true →
      ∃ t, exec .quietReached s = .next t ∧ t.aon.modeReq = some { m with phase := 4, s := s.herd.epoch + 1 } ∧
        t.aon.clkReq = 0 ∧ t.aon.mode = s.aon.mode ∧
        t.churn = { s.churn with canaries := some (canaryWords (s.herd.epoch + 1)) } ∧
        t = { s with aon := t.aon, churn := t.churn }) ∧
    (∀ m : ModeReq, s.aon.modeReq = some m → m.phase = 4 → m.target = .drowse → s.aon.mode = .serve →
      s.aon.exitStep = none → s.aon.pwrReq = true → s.aon.want = none → s.aon.latch = none →
      (∃ d ∈ s.herd.started, d.ring = m.ring ∧ d.index = m.index) →
      ∃ t res, exec (.pwrcAck true) s = .next t ∧ t.aon.mode = .drowse ∧ t.aon.modeReq = none ∧
        t.aon.pwrReq = false ∧ t.aon.pwrAck = true ∧ ended t m.ring m.index .ok 0 res ∧ onlyStarted s t ∧
        t = { s with herd := t.herd, can := t.can, aon := t.aon })

/-- R402, R407, R411, R413, R414, R418, R419, R421, R423: Handshakes, wake events and the ways back to SERVE. -/
def Obligations.WakesAndReturns : Prop :=
  ∀ (s : State),
    (∀ c : BitVec 2 × BitVec 6 × BitVec 4, s.aon.pwrReq = false → s.aon.want = some c →
      ∃ t, exec (.pwrcAck false) s = .next t ∧ t.aon.supply = c.1 ∧ t.aon.bias = c.2.1 ∧ t.aon.assist = c.2.2 ∧
        t.aon.pwrReq = true ∧ t.aon.pwrAck = false ∧ t.aon.want = none ∧ t = { s with aon := t.aon }) ∧
    (∀ (m : Mode) (d : Nat), s.aon.mode ≠ .freeze → handshakesDone s = false → s.aon.pwrDue = some (m, d) →
      d ≤ acl s → s.aon.pwrLate = false →
      ∃ t ev, exec .pwrAckLate s = .next t ∧ t.aon.pwrLate = true ∧ ev.code = .pwrAckLate ∧
        t.crock = crockPut s.crock ev s.herd.epoch ∧ t.herd = s.herd ∧ t = { s with crock := t.crock, aon := t.aon }) ∧
    (∀ (n : Fin 26) (level : Bool), s.aon.clkReq.getLsbD n.val = level →
      ∃ t, exec (.clkcAck n level) s = .next t ∧ t.aon.clkAck.getLsbD n.val = level ∧
        (∀ m : Fin 26, m ≠ n → t.aon.clkAck.getLsbD m.val = s.aon.clkAck.getLsbD m.val) ∧
        t = { s with aon := { s.aon with clkAck := t.aon.clkAck } }) ∧
    (∀ level : Bool, s.aon.mode = .drowse → s.aon.exitStep = some 3 → s.aon.rootSel = level →
      s.aon.modeReq = none → s.aon.joined = [] →
      ∃ t, exec (.clkcRootAck level) s = .next t ∧ t.aon.mode = .serve ∧ t.aon.exitStep = none ∧
        (∀ n, (nif t n).reqReady = true) ∧ t = { s with nis := t.nis, can := t.can, aon := t.aon }) ∧
    (∀ (n : Fin 8) (level : Bool), s.aon.mode = .drowse → s.aon.armedLatch = false → s.aon.exitStep = none →
      pinEn s.aon n = true → s.aon.wakeIn.getLsbD n.val ≠ level → level = pinPol s.aon n →
      ∃ t, exec (.wakeEvent (.pin n level)) s = .next t ∧ t.aon.exitStep = some 1 ∧
        t.aon.wakeIn.getLsbD n.val = level ∧ t.aon.lastWake.getLsbD 63 = true ∧ field t.aon.lastWake 57 4 = n.val ∧
        t.aon.lastWakeAclk = s.aon.aclk ∧ t.aon.mode = .drowse ∧ t = { s with aon := t.aon }) ∧
    (alarmMet s = true → s.aon.mode ≠ .retain → s.aon.mode ≠ .freeze → alarmEn s.aon = false →
      exec .epochAlarm s = .next (updAon s (fun a => { a with alarm := setField a.alarm 63 1 0 }))) ∧
    (s.aon.mode = .drowse → s.aon.exitStep = some 2 → s.aon.stepFrom + 160 ≤ acl s → s.aon.rootAck = true →
      ∃ t, exec .drowseExit s = .next t ∧ t.aon.exitStep = some 3 ∧ t.aon.rootSel = false ∧ t.aon.mode = .drowse ∧
        t = { s with aon := t.aon }) ∧
    (s.aon.mode = .retain → s.aon.retStep = some 1 → s.aon.stepFrom + 640 ≤ acl s → codesDone s = true →
      ∃ t, exec (.retainReturn []) s = .next t ∧ t.aon.retStep = some 2 ∧ t.aon.mode = .retain ∧
        t = { s with aon := t.aon }) ∧
    (s.aon.mode = .retain → s.aon.retStep = some 2 → s.aon.stepFrom + 160 ≤ acl s → codesDone s = true →
      freezeAsked s = false →
      ∃ t, exec (.retainReturn []) s = .next t ∧ t.aon.retStep = some 3 ∧ t.aon.mode = .train ∧
        t.aon.rootSel = false ∧ t.can.paused = false ∧ t = { s with nis := t.nis, can := t.can, aon := t.aon }) ∧
    (s.aon.mode = .train → s.aon.retStep = some 5 → s.aon.stepFrom + 256 ≤ acl s → s.aon.retFailed = false →
      s.aon.epRec = 0 → s.aon.modeReq = none → s.aon.joined = [] → (∀ n, storeIdle s n) →
      ∃ t, exec (.retainReturn []) s = .next t ∧ t.aon.retStep = none ∧ t.aon.mode = .serve ∧
        (∀ c, tget t.epochs c = s.aon.retS - 1) ∧ t.herd.epoch = s.aon.retS - 1 ∧ t.herd.rereadAll = true ∧
        (∀ n, (nif t n).closed = (nif s n).recovering.isSome ∧ (nif t n).reqReady = true) ∧
        t.spine = s.spine ∧ t.cfgA = s.cfgA ∧ t.cfgB = s.cfgB ∧ t.churn = s.churn)

/-- R400, R401, R425, R426, R429, R430: Cluster gating in DROWSE, FREEZE and THAW. -/
def Obligations.GatingAndFreeze : Prop :=
  ∀ (s : State),
    (∀ (c : ClusterId) (k : Nat), clusterRuns s c = true → s.aon.mode = .drowse →
      s.aon.drowseWhey.getLsbD c.val = true → gateExempt c = false → clusterQuiescent s c = true →
      ∃ t, exec (.clusterGate c k) s = .next t ∧ clusterRuns t c = false ∧
        (∀ d : ClusterId, d ≠ c → t.aon.gated.getLsbD d.val = s.aon.gated.getLsbD d.val) ∧
        t = { s with aon := { s.aon with gated := t.aon.gated } }) ∧
    (∀ c : ClusterId, s.aon.gated.getLsbD c.val = true →
      ∃ t, exec (.clusterUngate c) s = .next t ∧ t.aon.gated.getLsbD c.val = false ∧
        (∀ d : ClusterId, d ≠ c → t.aon.gated.getLsbD d.val = s.aon.gated.getLsbD d.val) ∧
        (∀ r, clusterOf r = c → (rtr t r).govLevel = s.herd.govLevel) ∧
        (∀ r, clusterOf r ≠ c → rtr t r = rtr s r) ∧
        t = { s with routers := t.routers, aon := { s.aon with gated := t.aon.gated } }) ∧
    (s.aon.mode = .serve ∨ s.aon.mode = .drowse ∨ s.aon.mode = .train ∨ s.aon.mode = .recover →
      ∃ t, exec .freeze s = .next t ∧ t.aon.mode = .freeze ∧ t.aon.freezeFrom = s.aon.mode ∧
        t.aon.freezeStop = s.aon.aclk ∧ t.aon.freezePin = true ∧ clocksRun t = false ∧ t = { s with aon := t.aon }) ∧
    (s.aon.mode = .freeze → s.aon.freezeFrom = .serve → s.aon.freezeHold = false → s.aon.exitStep = none →
      s.aon.retStep = none → s.aon.modeReq = none → s.aon.rootSel = false → s.aon.armedLatch = false →
      s.aon.latch = none →
      ∃ t, exec .thaw s = .next t ∧ t.aon.mode = .serve ∧ t.aon.freezeThaw = s.aon.aclk ∧ t.aon.freezePin = false ∧
        (∀ e, (spn s e).state = .up → (spn t e).state = .retrain) ∧
        (∀ e, (spn s e).state ≠ .up → spn t e = spn s e) ∧ t.nis = s.nis ∧ t.routers = s.routers ∧ t.herd.fetched =
          s.herd.fetched ∧ t.cfgA = s.cfgA ∧ t.cfgB = s.cfgB)

/-! ### Stored data, faults and recovery (chapters 14 and 15) -/

/-- R435, R440, R443, R445, R36, R456, R457, R460, R466: A due line of a bank is scrubbed and the engine goes on to the
next; a corrected word is counted; a line whose valid-bit group fails its parity is logged at that access, under
KIND 2, and its group rewritten at the next; the copy of a moved bank is complete. Faults. A lost cluster clock is
seen by the neighbours, whose links into the cluster are down at once, and reported by each row steward of the
cluster; an uncorrectable router state and one of the Herdsman are reported; a parity or pointer error of an NI
closes it, quarantines its tags, drops what it held and advances its generation; a recovered NI whose bank passes
reopens. -/
def Obligations.DataKeptAndFaultsMet : Prop :=
  (∀ (s : State) (b : BankRef) (row : Nat),
     (∀ i : Instr, i = .scrubLine b row [] ∨ (i = .scrubForce b row [] ∧ pailEnd b = none) →
       validBank b = true → engineRuns s b = true → (engineOf s b).done < bankDue s b →
       row = (engineOf s b).done % bankRows b → (∀ e, pailEnd b = some e → (spn s e).replay = none) →
       ∃ t, exec i s = .next t ∧ (engineOf t b).done = (engineOf s b).done + 1 ∧
         (∀ d, d ≠ b → engineOf t d = engineOf s d) ∧
         t = { s with churn := { s.churn with
           engines := t.churn.engines, groupBad := s.churn.groupBad.filter (fun g => !isGroup b row g) } }) ∧
     (∀ (i : Instr) (syn : BitVec 8) (k : WordKind),
       i = .scrubLine b row [(.single syn, k)] ∨ (i = .scrubForce b row [(.single syn, k)] ∧ pailEnd b = none) →
       validBank b = true → engineRuns s b = true → (engineOf s b).done < bankDue s b →
       row = (engineOf s b).done % bankRows b → (∀ e, pailEnd b = some e → (spn s e).replay = none) →
       ∃ t, exec i s = .next t ∧ t.churn.corrections = min (2 ^ 32 - 1) (s.churn.corrections + 1) ∧
         (engineOf t b).done = (engineOf s b).done + 1 ∧ t.churn.bad = s.churn.bad ∧ onlyReports s t ∧
         t = { s with churn := t.churn, herd := t.herd }) ∧
     (∀ i : Instr, i = .scrubLine b row [(.group, .other)] ∨ (i = .scrubForce b row [(.group, .other)] ∧ pailEnd b = none) →
       validBank b = true → engineRuns s b = true → (engineOf s b).done < bankDue s b →
       row = (engineOf s b).done % bankRows b → (∀ e, pailEnd b = some e → (spn s e).replay = none) →
       (s.churn.groupBad.any (isGroup b row) = false →
         ∃ t ev, exec i s = .next t ∧ t.churn.uncorrectable = min (2 ^ 32 - 1) (s.churn.uncorrectable + 1) ∧
           t.churn.groupBad = s.churn.groupBad ++ [(b, row, [.other])] ∧ t.churn.engines = s.churn.engines ∧
           t.herd.reports = s.herd.reports ++ [ev] ∧ ev.code = .eccUncorrectable ∧ field ev.record 90 3 = 2 ∧
           field ev.record 104 8 = row % 256 ∧ onlyReports s t ∧ t = { s with churn := t.churn, herd := t.herd }) ∧
       (s.churn.groupBad.any (isGroup b row) = true →
         ∃ t, exec i s = .next t ∧ (engineOf t b).done = (engineOf s b).done + 1 ∧
           t.churn.groupBad.any (isGroup b row) = false ∧ t.churn.uncorrectable = s.churn.uncorrectable ∧
           t = { s with churn := t.churn })) ∧
     (routerRuns s (tabRouter b.unit) = true →
       ∃ t, exec (.bankCopyDone b) s = .next t ∧ (∀ p, (b, p) ∈ s.churn.copying → (b, p) ∈ t.churn.copied) ∧
         (∀ p, (b, p) ∉ t.churn.copying) ∧
         t = { s with churn := { s.churn with copying := t.churn.copying, copied := t.churn.copied } })) ∧
  (∀ (s : State),
     (∀ c : ClusterId, clusterRuns s c = true →
       ∃ t, exec (.clusterClockLost c) s = .next t ∧ reported s t .clusterClockLost .cluster c.val ∧
         t.herd.reports.length = s.herd.reports.length + (clusterSectors c).length ∧
         (∀ n ∈ clusterSectors c, ∃ ev ∈ t.herd.reports, ev.code = .clusterClockLost ∧ ev.num = c.val ∧
           ev.sectors = secBit n) ∧
         (∀ r p, (r, p) ∈ linksInto c → outOf t r p = { outOf s r p with down := true }) ∧
         (∀ r p, (r, p) ∉ linksInto c → outOf t r p = outOf s r p) ∧ onlyReports s t ∧
         t = { s with routers := t.routers, herd := t.herd }) ∧
     (∀ r : RouterId, clocksRun s = true → s.recov.dead.getLsbD (clusterOf r).val = false →
       ∃ t, exec (.routerStateUe r) s = .next t ∧ reported s t .routerStateUe .router r.val ∧ onlyReports s t ∧
         t = { s with herd := t.herd }) ∧
     (herdRuns s = true →
       ∃ t, exec .herdStateUe s = .next t ∧ reported s t .herdStateUe .die 0 ∧ onlyReports s t ∧
         t = { s with herd := t.herd }) ∧
     (∀ (n : Slot) (f : CdcFifo) (i : Instr) (code : EventCode),
       (i = .niStateParity n ∧ code = .niStateParity) ∨ (i = .cdcPtr n f ∧ code = .cdcPtr) →
       niRuns s n = true → s.recov.die = none → s.recov.failed = false → clusterRec s (slotCluster n) = none →
       (nif s n).recovering = none → niReached s n = true →
       ∃ t, exec i s = .next t ∧ (nif t n).closed = true ∧ (nif t n).recovering.isSome = true ∧
         (∀ g ∈ (nif t n).tags, g.quarantined = true) ∧ (nif t n).tags.length = (nif s n).tags.length ∧
         (nif t n).inj = [] ∧ (nif t n).store = [] ∧ (nif t n).reqFifo = [] ∧ (nif t n).stage = [] ∧ (nif t n).locks = [] ∧
         (∀ v, tget (nif t n).ej v = []) ∧ tget t.herd.gens n = tget s.herd.gens n + 1 ∧
         reported s t code .ni n.val ∧ otherNis n s t ∧ t.cfgA = s.cfgA ∧ t.cfgB = s.cfgB ∧ t.spine = s.spine) ∧
     (∀ (n : Slot) (x : NiRec), niRuns s n = true → (nif s n).recovering = some x → epochN s n ≤ x.start + 8 →
       ∃ t, exec (.niRecoveryDone n []) s = .next t ∧ (nif t n).closed = false ∧ (nif t n).recovering = none ∧
         (nif t n).orderedFrom = epochN s n + 8 ∧ (nif t n).tags = (nif s n).tags ∧
         reported s t .recoverDone .ni n.val ∧ otherNis n s t ∧ onlyReports s t ∧
         t = { s with nis := t.nis, herd := t.herd }))

/-- R461, R463, R464, R466: The steps of cluster-scope and die-scope recovery follow one another; the last ends the
recovery and is reported; a cluster whose clock does not come is tried again, and after three attempts is dead. -/
def Obligations.RecoverySteps : Prop :=
  ∀ (s : State), herdRuns s = true →
    (∀ (c : ClusterId) (x : ClusterRec), clusterRec s c = some x → clusterReached s c = true →
      (1 ≤ x.step → x.step ≤ 5 → (x.step = 2 → s.aon.clkAck.getLsbD c.val = true) →
        ∃ t, exec (.clusterRecoveryStep c []) s = .next t ∧
          (clusterRec t c).map (·.step) = some (x.step + 1) ∧
          (∀ d, d ≠ c → clusterRec t d = clusterRec s d) ∧
          (x.step = 1 → t.aon.clkReq.getLsbD c.val = true) ∧
          (x.step = 3 → tget t.epochs c = s.herd.epoch) ∧
          (x.step = 5 → ∀ n, slotCluster n = c → (nif t n).closed = false) ∧ t.recov.dead = s.recov.dead) ∧
      (x.step = 6 →
        ∃ t, exec (.clusterRecoveryStep c []) s = .next t ∧ clusterRec t c = none ∧
          (∀ d, d ≠ c → clusterRec t d = clusterRec s d) ∧ reported s t .recoverDone .cluster c.val)) ∧
    (∀ (c : ClusterId) (x : ClusterRec), clusterRec s c = some x → x.step = 2 →
      s.aon.clkAck.getLsbD c.val = false → x.clkAsked + 320 ≤ acl s →
      (x.attempts < 3 →
        ∃ t, exec (.clusterRecoveryRestart c) s = .next t ∧
          clusterRec t c = some { x with step := 1, attempts := x.attempts + 1 } ∧ t.recov.dead = s.recov.dead) ∧
      (3 ≤ x.attempts →
        ∃ t, exec (.clusterRecoveryRestart c) s = .next t ∧ clusterRec t c = none ∧
          t.recov.dead.getLsbD c.val = true ∧ t.aon.clkReq.getLsbD c.val = false ∧
          reported s t .clusterDead .cluster c.val)) ∧
    (∀ d : DieRec, s.recov.die = some d → s.recov.failed = false →
      (1 ≤ d.step → d.step ≤ 4 → (d.step = 2 → dieDrained s = true ∨ d.since + 16 ≤ s.herd.epoch) →
        (d.step = 4 → ∀ e, (spn s e).state ≠ .train) →
        ∃ t, exec (.dieRecoveryStep []) s = .next t ∧ (t.recov.die).map (·.step) = some (d.step + 1) ∧
          (d.step = 2 → (∀ n, (nif t n).closed = true ∧ (nif t n).inj = []) ∧ t.herd.spineUp = 0) ∧
          t.aon.mode = s.aon.mode) ∧
      (d.step = 5 →
        ∃ t, exec (.dieRecoveryStep []) s = .next t ∧ t.recov.die = none ∧ t.aon.mode = .train ∧
          (∀ c, tget t.epochs c = s.herd.epoch) ∧
          (∀ n, s.recov.dead.getLsbD (slotCluster n).val = false → (nif t n).closed = false) ∧
          reported s t .recoverDone .die 0))

/-! ### Set-up registers, the test port and resets (chapters 13, 16 and 17) -/

/-- R338, R340, R412, R413, R473, R507, R508, R509, R516, R517, R518, R520: What writes of the set-up registers do. -/
def Obligations.SetupRegistersWritten : Prop :=
  ∀ (s : State) (v : Word), herdRuns s = true →
    (∃ t, exec (.fabLock v) s = .next t ∧ t.herd.lock = (s.herd.lock || v.getLsbD 0) ∧
      t = { s with herd := { s.herd with lock := t.herd.lock } }) ∧
    (s.herd.lock = false → s.herd.winNext = none →
      exec (.fabWin v) s = .next (updHerd s (fun h => { h with win := winField v }))) ∧
    (s.herd.lock = true → s.herd.winNext = none → exec (.fabWin v) s = .next s) ∧
    (∀ r : RingId, s.herd.lock = true ∨ ringEn (hring s r) = true → exec (.stwRing r v) s = .next s) ∧
    (∀ r : RingId, s.herd.lock = false → ringEn (hring s r) = false → (ringFields r v).getLsbD 63 = true →
      (tget s.herd.windows (homeWinWith s r (ringFields r v))).getLsbD 63 = true →
      ∃ t, exec (.stwRing r v) s = .next t ∧ (hring t r).word = ringFields r v ∧ (hring t r).prod = 0 ∧
        (hring t r).cons = 0 ∧ (hring t r).halted = false ∧ (hring t r).fresh = true ∧
        (∀ q, q ≠ r → hring t q = hring s q) ∧
        t.herd.memOut = s.herd.memOut ++ (if 8 ≤ r.val then [homeWrite s .home (prodHome t r) 0] else []) ∧
        t = { s with herd := { s.herd with rings := t.herd.rings, memOut := t.herd.memOut } }) ∧
    (∃ t, exec (.stwRingCtl v) s = .next t ∧
      (∀ r : RingId, hring t r = { hring s r with halted := (hring s r).halted && !v.getLsbD r.val }) ∧
      t = { s with herd := { s.herd with rings := t.herd.rings } }) ∧
    (∀ w : Fin 16, s.herd.lock = false → namesWin s w = false →
      ∃ t, exec (.stwDbw w v) s = .next t ∧ field (tget t.herd.windows w) 12 40 = field v 12 40 ∧
        (tget t.herd.windows w).getLsbD 63 = v.getLsbD 63 ∧ field (tget t.herd.windows w) 0 12 = 0 ∧
        (∀ x, x ≠ w → tget t.herd.windows x = tget s.herd.windows x) ∧
        t = { s with herd := { s.herd with windows := t.herd.windows } }) ∧
    (∀ w : Fin 16, s.herd.lock = true ∨ namesWin s w = true → exec (.stwDbw w v) s = .next s) ∧
    (exec (.stwIrqMask v) s = .next (updHerd s (fun h => { h with irqMask := v }))) ∧
    (∃ t, exec (.stwIrqCause v) s = .next t ∧ t.herd.causeDropped = (s.herd.causeDropped && !v.getLsbD 9) ∧
      t.herd.causeFatal = (s.herd.causeFatal && !v.getLsbD 7) ∧
      t = { s with herd := { s.herd with causeDropped := t.herd.causeDropped, causeFatal := t.herd.causeFatal } }) ∧
    (∀ k : Fin 6,
      (∃ t, exec (.stwIntr k true v) s = .next t ∧ tget t.herd.intrVal k = v ∧
        (∀ j, j ≠ k → tget t.herd.intrVal j = tget s.herd.intrVal j) ∧
        t = { s with herd := { s.herd with intrVal := t.herd.intrVal } }) ∧
      (∃ t, exec (.stwIntr k false v) s = .next t ∧ field (tget t.herd.intrAddr k) 3 49 = field v 3 49 ∧
        field (tget t.herd.intrAddr k) 55 9 = field v 55 9 ∧ field (tget t.herd.intrAddr k) 0 3 = 0 ∧
        (∀ j, j ≠ k → tget t.herd.intrAddr j = tget s.herd.intrAddr j) ∧
        t = { s with herd := { s.herd with intrAddr := t.herd.intrAddr } })) ∧
    (∃ t, exec (.crkRearm v) s = .next t ∧ t.crock.arm = v.getLsbD 0 ∧
      (v.getLsbD 1 = true → t.crock.stopped = false ∧ t.crock.triggered = false ∧ t.crock.lost = 0) ∧
      (v.getLsbD 1 = false → t.crock = { s.crock with arm := v.getLsbD 0 }) ∧
      t.crock.entries = s.crock.entries ∧ t.crock.valid = s.crock.valid ∧ t = { s with crock := t.crock }) ∧
    (s.aon.mode = .serve → s.aon.armedLatch = false →
      ∃ t, exec (.pwrWakeCfg v) s = .next t ∧ t.aon = { s.aon with wakeCfg := setField 0 0 26 (field v 0 26) } ∧
        t = { s with aon := t.aon }) ∧
    (exec (.pwrAlarm v) s = .next (updAon s (fun a => { a with alarm := setField v 56 6 0 }))) ∧
    (exec (.pwrDrain v) s = .next (updAon s (fun a => { a with drain := bits v 0 16 }))) ∧
    (∀ (off : BitVec 16) (mask : BitVec 8), mask ≠ 0xFF → exec (.registerWrite off v mask) s = .next s) ∧
    (s.herd.winNext = none →
      exec (.registerWrite 0x2008 v 0xFF) s = .next (updAon s (fun a => { a with drain := bits v 0 16 })))

/-- R425, R428, R476, R500, R501: The test port. -/
def Obligations.TestPortWorks : Prop :=
  ∀ (s : State),
    (∃ t, exec .idcode s = .next t ∧ t.aon.tapIr = 0x01 ∧ field t.aon.tapDr 0 1 = 1 ∧
      field t.aon.tapDr 12 16 = 0x2C0C ∧ field t.aon.tapDr 28 4 = 1 ∧
      t = { s with aon := { s.aon with tapIr := t.aon.tapIr, tapDr := t.aon.tapDr } }) ∧
    (s.aon.mode = .reset →
      ∃ t, exec (.testEntry true) s = .next t ∧ t.aon.mode = .test ∧ t.aon.tapIr = 0x10 ∧ t = { s with aon := t.aon }) ∧
    (s.aon.dbgAuth = true → s.aon.mode = .serve →
      ∃ t, exec (.frzHold true) s = .next t ∧ t.aon.mode = .freeze ∧ t.aon.freezeHold = true ∧ t.aon.tapIr = 0x20 ∧
        t = { s with aon := t.aon }) ∧
    (s.aon.dbgAuth = false →
      ∃ t, exec (.frzHold true) s = .next t ∧ t.aon.mode = s.aon.mode ∧ t.aon.freezeHold = s.aon.freezeHold ∧
        t = { s with aon := { s.aon with tapIr := t.aon.tapIr, tapDr := t.aon.tapDr } }) ∧
    (∀ seg : BitVec 16, s.aon.mode = .freeze → s.aon.dbgAuth = true →
      ∃ t, exec (.frzRead seg) s = .next t ∧ t.aon.tapDr = Config.readout s.drawn ∧ t.aon.tapIr = 0x21 ∧
        t = { s with aon := { s.aon with tapIr := t.aon.tapIr, tapDr := t.aon.tapDr }, drawn := s.drawn + 1 }) ∧
    (∀ seg : BitVec 16, s.aon.mode = .freeze → s.aon.dbgAuth = false →
      ∃ t, exec (.frzRead seg) s = .next t ∧ t.aon.tapDr = Config.openChain seg (openEntries s) (openFields s) ∧
        t.aon.tapIr = 0x21 ∧ t = { s with aon := { s.aon with tapIr := t.aon.tapIr, tapDr := t.aon.tapDr } }) ∧
    (∀ seg : BitVec 16, s.aon.mode ≠ .freeze →
      ∃ t, exec (.frzRead seg) s = .next t ∧ t.aon.tapDr = 0 ∧
        t = { s with aon := { s.aon with tapIr := t.aon.tapIr, tapDr := t.aon.tapDr } }) ∧
    (∀ (flit : Flit) (fetch : Bool), isHead flit = true → offered s 191 opRdLine [flit] →
      step1Bad (nif s 191) opRdLine [flit] = false → unpoliced s 191 [flit] →
      admitted s 191 opRdLine fetch [flit] (planOf s 191 opRdLine [flit]) →
      ∃ t, exec (.dbgMaster flit false fetch) s = .next t ∧ accepted s t 191 opRdLine [flit] ∧
        t.aon.tapIr = 0x30 ∧ otherNis 191 s t ∧ t.routers = s.routers ∧ t.spine = s.spine) ∧
    (∀ (flit f : Flit) (fetch : Bool) (rest : List EpOut), isHead flit = true → takesRequest s 191 1 = false →
      nextOut (nif s 191).out = some (f, rest) →
      ∃ t, exec (.dbgMaster flit false fetch) s = .next t ∧ t.aon.tapDr = (flitWires f).setWidth 714 ∧
        nif t 191 = { nif s 191 with out := rest } ∧ otherNis 191 s t ∧
        t = { s with nis := t.nis, aon := { s.aon with tapIr := 0x30, tapDr := t.aon.tapDr } }) ∧
    (∀ code : BitVec 8, code ≠ 0x01 → code ≠ 0x10 → code ≠ 0x20 → code ≠ 0x21 → code ≠ 0x30 →
      exec (.bypass code) s = .next (updAon s (fun a => { a with tapIr := code, tapDr := 0 }))) ∧
    (s.aon.mode ≠ .freeze →
      exec .tapReset s = .next (updAon s (fun a => { a with
        tapIr := 0x01, tapDr := 0, tapAns := [], freezeHold := false })))

/-- R395, R473, R499, R510, R511: Resets. A hard reset brings every unit to its reset state but for the Crock and the
levels driven from outside; a warm one leaves the always-on registers, and in TEST gives only its notice to the Can;
power-on clears the Crock; a boot word is taken in order; the reset sequence ends in TRAIN with the enabled links
training. -/
def Obligations.ResetsWork : Prop :=
  ∀ (s : State),
    (∃ t, exec .hardReset s = .next t ∧ t.aon.mode = .reset ∧ t.aon.aclk = 0 ∧ t.aon.codes = Aon.reset.codes ∧
      t.aon.wakeIn = s.aon.wakeIn ∧ t.routers = State.reset.routers ∧ t.spine = State.reset.spine ∧
      t.epochs = State.reset.epochs ∧ t.cfgA = [] ∧ t.cfgB = [] ∧ t.herd.rings = Herd.reset.rings ∧
      t.herd.lock = false ∧ t.dip.sel = Dipper.reset.sel ∧ t.crock = s.crock ∧ t.recov = Recovery.reset ∧
      (∀ n, nif t n = { NI.reset0 with
        reset := (nif s n).resetPin, resetPin := (nif s n).resetPin, ready := (nif s n).ready }) ∧
      t.can.resetNotice = true ∧
      t.pending = s.pending ∧ t.drawn = s.drawn) ∧
    (s.aon.mode ≠ .test →
      ∃ t, exec .warmReset s = .next t ∧ t.aon.mode = .reset ∧ t.aon.aclk = s.aon.aclk ∧ t.aon.codes = s.aon.codes ∧
        t.aon.wakeCfg = s.aon.wakeCfg ∧ t.aon.alarm = s.aon.alarm ∧ t.aon.drain = s.aon.drain ∧ t.aon.warm = true ∧
        t.routers = State.reset.routers ∧ t.spine = State.reset.spine ∧ t.epochs = State.reset.epochs ∧
        t.cfgA = [] ∧ t.cfgB = [] ∧ t.herd.lock = false ∧ t.crock = s.crock ∧ t.can.resetNotice = true ∧
        t.can.counters = s.can.counters ∧ t.churn.rate = s.churn.rate ∧ t.churn.paused = s.churn.paused ∧
        t.pending = s.pending) ∧
    (s.aon.mode = .test → exec .warmReset s = .next (updCan s (fun c => { c with resetNotice := true }))) ∧
    (∃ t, exec .supplyPowerOn s = .next t ∧ t.crock = Crock.reset ∧ t.aon = { s.aon with crkBoot := true } ∧
      t = { s with crock := t.crock, aon := t.aon, churn := t.churn }) ∧
    (∀ ans : OtsAnswer, s.aon.mode = .reset → s.aon.bootWords.length < 256 →
      (∀ w, ans = .data w →
        exec (.bootWordRead ans) s = .next (updAon s (fun a => { a with bootWords := a.bootWords ++ [some w] }))) ∧
      (∃ t, exec (.otsTimeout .boot) s = .next t ∧ t.aon.bootWords = s.aon.bootWords ++ [none] ∧
        t.aon.bootFailed = min 255 (s.aon.bootFailed + 1) ∧
        (s.aon.bootFailed = 0 → t.aon.bootFirst = s.aon.bootWords.length) ∧ t = { s with aon := t.aon })) ∧
    (s.aon.mode = .reset → 256 ≤ s.aon.bootWords.length → freezeAsked s = false →
      ∃ t, exec .resetSequenceComplete s = .next t ∧ t.aon.mode = .train ∧ t.aon.resetDone = true ∧
        t.herd.bootStatus.getLsbD 63 = true ∧
        (∀ e, (spn s e).state = .off → (spn s e).en = true → (spn t e).state = .train) ∧
        (∀ n : Slot, (nif t n).reqReady = decide (180 ≤ n.val)) ∧ t.epochs = s.epochs ∧ t.routers = s.routers)
end

