-- ==== Sys2Proof/Laws/Ops.lean ====
section
/-! SUPPORT. What the shared operations on flits, packets and SFUs do, for proofs to cite. -/

namespace Sys2Proof.Laws
open Sys2Proof.Machine

/-- A word with its own check byte is clean. -/
@[simp] theorem eccDecode_secded (w : Word) : eccDecode w (secded w) = .clean := by simp [eccDecode]

/-- A flit whose used words carry their own check bytes passes its check unchanged. -/
theorem checkData_clean {op : BitVec 6} {len i : Nat} {f : Flit}
    (h : ∀ w, w < 8 → usedWord op (isWide op f) len i w = true → chkByte f w = secded (word f w)) :
    checkData op len i f = (f, 0, []) := by
  have fold : ∀ l : List Nat, (∀ w ∈ l, w < 8) → l.foldl (fun (acc : Flit × Nat × List Nat) w =>
      if usedWord op (isWide op f) len i w then
        match eccDecode (word f w) (chkByte f w) with
        | .clean => acc
        | .corrected x c =>
          ({ acc.1 with dat := setField acc.1.dat (64 * w) 64 x.toNat
                        chk := setField acc.1.chk (8 * w) 8 c.toNat }, acc.2.1 + 1, acc.2.2)
        | .bad => (setPoison acc.1 true, acc.2.1, acc.2.2 ++ [w])
      else acc) (f, 0, []) = (f, 0, []) := by
    intro l
    induction l with
    | nil => intro _; rfl
    | cons w l ih =>
      intro hl
      rw [List.foldl_cons]
      by_cases u : usedWord op (isWide op f) len i w = true
      · simp only [u, if_true, h w (hl w (by simp)) u, eccDecode_secded]
        exact ih (fun v hv => hl v (by simp [hv]))
      · simp only [u]
        exact ih (fun v hv => hl v (by simp [hv]))
  exact fold _ (by simp)

/-- What a check at injection or ejection hands on is each flit checked by itself. -/
theorem checkOut_packet (s : State) (n : Slot) (pkt : Packet) (quiet : List Nat) :
    (checkOut s n pkt quiet).2 = pkt.zipIdx.map (fun p =>
    (checkData (fOp (hd pkt)) (pkt.length - 1) p.2 (clearUnused (fOp (hd pkt)) (pkt.length - 1) p.2 p.1)).1) := by
  have fold : ∀ (l : List (Flit × Nat)) (step : State × Packet → Flit × Nat → State × Packet) (acc : State × Packet),
      (∀ a p, (step a p).2 = a.2 ++ [(checkData (fOp (hd pkt)) (pkt.length - 1) p.2
        (clearUnused (fOp (hd pkt)) (pkt.length - 1) p.2 p.1)).1]) →
      (l.foldl step acc).2 = acc.2 ++ l.map (fun p => (checkData (fOp (hd pkt)) (pkt.length - 1) p.2
        (clearUnused (fOp (hd pkt)) (pkt.length - 1) p.2 p.1)).1) := by
    intro l step
    induction l with
    | nil => intro acc _; simp
    | cons p l ih => intro acc h; rw [List.foldl_cons, ih _ h, h]; simp
  unfold checkOut
  rw [fold _ _ _ (fun a p => rfl)]; rfl

/-- A packet all of whose words are used and carry their own check bytes passes unchanged. -/
theorem checkOut_clean {s : State} {n : Slot} {pkt : Packet} {quiet : List Nat}
    (used : ∀ i w wide, usedWord (fOp (hd pkt)) wide (pkt.length - 1) i w = true)
    (good : ∀ f ∈ pkt, ∀ w, w < 8 → chkByte f w = secded (word f w)) :
    (checkOut s n pkt quiet).2 = pkt := by
  have keep : ∀ i f, clearUnused (fOp (hd pkt)) (pkt.length - 1) i f = f := fun i f => by
    unfold clearUnused
    generalize List.range 8 = l
    induction l with
    | nil => rfl
    | cons w l ih => rw [List.foldl_cons, if_pos (used i w _)]; exact ih
  rw [checkOut_packet]
  have each : ∀ p ∈ pkt.zipIdx, (checkData (fOp (hd pkt)) (pkt.length - 1) p.2
      (clearUnused (fOp (hd pkt)) (pkt.length - 1) p.2 p.1)).1 = p.1 := fun p hp => by
    rw [keep, checkData_clean (fun w hw _ => good p.1 (List.fst_mem_of_mem_zipIdx hp) w hw)]
  rw [List.map_congr_left each]
  simp

/-- A packet whose body flits all pass their control parity check goes through it unchanged (R70). -/
theorem parityPoison_clean {len : Nat} : ∀ {fs : List Flit} {i : Nat},
    (∀ p ∈ fs.zipIdx i, 0 < p.2 → p.2 ≤ len → bodyBad len p.2 p.1 = false) →
    parityPoison len i fs [] = (fs, [])
  | [], _, _ => rfl
  | f :: rest, i, h => by
    have here : (decide (0 < i) && decide (i ≤ len) && bodyBad len i f) = false := by
      by_cases a : 0 < i
      · by_cases b : i ≤ len
        · simp [a, b, h (f, i) (by simp [List.zipIdx_cons]) a b]
        · simp [b]
      · simp [a]
    have ih := parityPoison_clean (len := len) (fs := rest) (i := i + 1)
      (fun p hp => h p (by simp [List.zipIdx_cons, hp]))
    simp [parityPoison, here, ih]

/-- A flit at the head's position is not judged (R69 judges it). -/
@[simp] theorem parityPoison_head (len : Nat) (f : Flit) : parityPoison len 0 [f] [] = ([f], []) := rfl

/-- The bits of an SFU: the CRC lies below the body (R244). -/
theorem sfuOf_bit (pre : BitVec 13) (body : BitVec 480) (i : Nat) :
    (sfuOf pre body).getLsbD i = if i < 32 then (crcOf pre body).getLsbD i else body.getLsbD (i - 32) := by
  show (body ++ crcOf pre body : BitVec (480 + 32)).getLsbD i = _
  rw [BitVec.getLsbD_append]

@[simp] theorem sfuOf_crc (pre : BitVec 13) (body : BitVec 480) : sfuCrc (sfuOf pre body) = crcOf pre body := by
  apply BitVec.eq_of_getLsbD_eq
  intro i hi
  rw [sfuCrc, bits, BitVec.getLsbD_extractLsb', sfuOf_bit]
  simp [hi]

@[simp] theorem sfuOf_body (pre : BitVec 13) (body : BitVec 480) : sfuBody (sfuOf pre body) = body := by
  apply BitVec.eq_of_getLsbD_eq
  intro i hi
  rw [sfuBody, bits, BitVec.getLsbD_extractLsb', sfuOf_bit]
  simp [hi]

@[simp] theorem sfuOf_kind (pre : BitVec 13) (body : BitVec 480) : sfuKind (sfuOf pre body) = field body 478 2 := by
  have h : bits (sfuOf pre body) 510 2 = bits body 478 2 := by
    apply BitVec.eq_of_getLsbD_eq
    intro i hi
    rw [bits, bits, BitVec.getLsbD_extractLsb', BitVec.getLsbD_extractLsb', sfuOf_bit, if_neg (by omega)]
    rw [show 510 + i - 32 = 478 + i by omega]
  exact congrArg BitVec.toNat h

/-- R254: a DATA SFU under the expected sequence passes. -/
theorem sfuCheck_data {e : BitVec 12} {body : BitVec 480} (k : field body 478 2 = 1) :
    sfuCheck e (sfuOf (dataPrefix e) body) = .data := by
  simp only [sfuCheck, sfuOf_crc, sfuOf_body, sfuOf_kind, k]; simp

/-- R254: a LINK SFU passes. -/
theorem sfuCheck_link {e : BitVec 12} {body : BitVec 480} (k : field body 478 2 = 2) :
    sfuCheck e (sfuOf linkPrefix body) = .link := by
  simp only [sfuCheck, sfuOf_crc, sfuOf_body, sfuOf_kind, k]; simp

/-- R254: an SFU of neither kind fails. -/
theorem sfuCheck_bad {e : BitVec 12} {x : BitVec 512} (d : sfuKind x ≠ 1) (l : sfuKind x ≠ 2) : sfuCheck e x = .bad := by
  simp [sfuCheck, d, l]

/-! ### Accesses of the Herdsman (R30) -/

@[simp] theorem memWrite_memOut (s : State) (a : MemAcc) : (memWrite s a).herd.memOut = s.herd.memOut ++ [a] := rfl
@[simp] theorem memWrites_memOut (s : State) (l : List MemAcc) : (memWrites s l).herd.memOut = s.herd.memOut ++ l := rfl

/-- Handing accesses over changes nothing but the Herdsman's list of them. -/
theorem memWrites_frame (s : State) (l : List MemAcc) :
    memWrites s l = { s with herd := { s.herd with memOut := s.herd.memOut ++ l } } := rfl

/-- An answer to an access that NI 188 does not hold changes nothing. -/
theorem memAnswer_none {s : State} {tag : Nat} {st : Status} {l : BitVec 16}
    (h : s.herd.memBusy.find? (fun b => b.tag == tag) = none) : memAnswer s tag st l = s := by
  simp [memAnswer, h]

/-- The answer to an entry of a publication is kept with its ring (R336). -/
theorem answered_entry (s : State) (r : RingId) (i : Nat) (st : Status) (l : BitVec 16) :
    answered s (.entry r i) st l = updHerd s (fun h => { h with
      rings := tupd h.rings r (fun x => { x with acks := x.acks.set i (some st) }) }) := rfl

/-- A command that has started ends with the result given, and stands last among those started (R324). -/
theorem endCmd_started {s : State} {ring : CmdRing} {index : Nat} {c : Cmd} {st : Status} {d : BitVec 16} {r : BitVec 320}
    (h : s.herd.started.find? (isCmd ring index) = some c) :
    (endCmd s ring index st d r).herd.started =
      s.herd.started.filter (fun e => !isCmd ring index e) ++ [{ c with result := some (st, d, r) }] := by
  simp [endCmd, updHerd, h]

/-! ### The tally lanes (R352) -/

/-- A lane FIFO never holds more than 32 words, and loses none. -/
theorem fill_fifo (l : TallyLane) : l.fill.fifo.length ≤ 32 ∧ l.fill.fifo ++ l.fill.owed = l.fifo ++ l.owed := by
  simp [TallyLane.fill, List.take_append_drop]
end Sys2Proof.Laws
end

