-- ==== Sys2Proof/Laws/Sparse.lean ====
section
/-! SUPPORT. The laws of the sparse stores: a read after a write, and a write keeps the canonical form. -/

namespace Sys2Proof

variable {α : Type} [DecidableEq α]

/-- What an address below every entry reads as. -/
theorem sget_below (d : Nat → α) (m : Sparse α) (lo a : Nat) (h : swfFrom d lo m = true) (ha : a < lo) :
    sget d m a = d a := by
  induction m generalizing lo with
  | nil => rfl
  | cons p m ih =>
    obtain ⟨b, y⟩ := p
    simp only [swfFrom, Bool.and_eq_true, decide_eq_true_eq] at h
    have hab : a ≠ b := by omega
    simp only [sget, hab, if_false]
    exact ih (b + 1) h.2 (by omega)

theorem swfFrom_mono (d : Nat → α) (m : Sparse α) (lo lo' : Nat) (h : swfFrom d lo m = true) (hl : lo' ≤ lo) :
    swfFrom d lo' m = true := by
  cases m with
  | nil => rfl
  | cons p m =>
    obtain ⟨b, y⟩ := p
    simp only [swfFrom, Bool.and_eq_true, decide_eq_true_eq] at h ⊢
    exact ⟨⟨by omega, h.1.2⟩, h.2⟩

theorem swfFrom_sput (d : Nat → α) (a : Nat) (x : α) (m : Sparse α) (lo : Nat) (h : swfFrom d lo m = true)
    (ha : lo ≤ a) : swfFrom d lo (sput d a x m) = true := by
  induction m generalizing lo with
  | nil =>
    simp only [sput]
    split
    · rfl
    · rename_i hx
      simp [swfFrom, ha, hx]
  | cons p m ih =>
    obtain ⟨b, y⟩ := p
    simp only [swfFrom, Bool.and_eq_true, decide_eq_true_eq] at h
    obtain ⟨⟨hb, hy⟩, hm⟩ := h
    simp only [sput]
    split
    · split
      · simp only [swfFrom, Bool.and_eq_true, decide_eq_true_eq]
        exact ⟨⟨hb, hy⟩, hm⟩
      · rename_i hab hx
        simp only [swfFrom, Bool.and_eq_true, decide_eq_true_eq]
        exact ⟨⟨ha, hx⟩, ⟨by omega, hy⟩, hm⟩
    · split
      · split
        · exact swfFrom_mono d m (b + 1) lo hm (by omega)
        · rename_i hab hx
          simp only [swfFrom, Bool.and_eq_true, decide_eq_true_eq]
          subst hab
          exact ⟨⟨ha, hx⟩, hm⟩
      · simp only [swfFrom, Bool.and_eq_true, decide_eq_true_eq]
        exact ⟨⟨hb, hy⟩, ih (b + 1) hm (by omega)⟩

/-- A write keeps the canonical form. -/
theorem swf_sput (d : Nat → α) (a : Nat) (x : α) (m : Sparse α) (h : swf d m = true) :
    swf d (sput d a x m) = true := swfFrom_sput d a x m 0 h (Nat.zero_le a)

/-- A read of the address just written gives the value written. -/
theorem sget_sput (d : Nat → α) (a : Nat) (x : α) (m : Sparse α) (h : swf d m = true) :
    sget d (sput d a x m) a = x := by
  unfold swf at h
  generalize hl : 0 = lo at h
  clear hl
  induction m generalizing lo with
  | nil =>
    simp only [sput]
    split
    · rename_i hx; simp [sget, hx]
    · simp [sget]
  | cons p m ih =>
    obtain ⟨b, y⟩ := p
    have hw := h
    simp only [swfFrom, Bool.and_eq_true, decide_eq_true_eq] at h
    obtain ⟨⟨hb, hy⟩, hm⟩ := h
    simp only [sput]
    split
    · split
      · rename_i hab hx
        have : a ≠ b := by omega
        simp only [sget, this, if_false]
        rw [sget_below d m (b + 1) a hm (by omega), hx]
      · simp [sget]
    · split
      · rename_i hab
        subst hab
        split
        · rename_i hx
          rw [sget_below d m (a + 1) a hm (by omega), hx]
        · simp [sget]
      · rename_i hab
        simp only [sget, hab, if_false]
        exact ih (b + 1) hm

/-- A write leaves every other address as it was. -/
theorem sget_sput_ne (d : Nat → α) (a c : Nat) (x : α) (m : Sparse α) (hc : c ≠ a) :
    sget d (sput d a x m) c = sget d m c := by
  induction m with
  | nil =>
    simp only [sput]
    split <;> simp [sget, hc]
  | cons p m ih =>
    obtain ⟨b, y⟩ := p
    simp only [sput]
    split
    · split <;> simp [sget, hc]
    · split
      · rename_i hab
        subst hab
        split <;> simp [sget, hc]
      · simp only [sget]
        split
        · rfl
        · exact ih

/-- Writes in turn keep the canonical form. -/
theorem swf_foldl {β : Type} (d : Nat → α) (l : List β) (g : Sparse α → β → Sparse α) (m : Sparse α)
    (hg : ∀ m x, swf d m = true → swf d (g m x) = true) (h : swf d m = true) : swf d (l.foldl g m) = true := by
  induction l generalizing m with
  | nil => exact h
  | cons x l ih => exact ih (g m x) (hg m x h)

theorem swfFrom_filter (d : Nat → α) (p : Nat × α → Bool) (m : Sparse α) (lo : Nat) (h : swfFrom d lo m = true) :
    swfFrom d lo (m.filter p) = true := by
  induction m generalizing lo with
  | nil => rfl
  | cons q m ih =>
    obtain ⟨b, y⟩ := q
    simp only [swfFrom, Bool.and_eq_true, decide_eq_true_eq] at h
    obtain ⟨⟨hb, hy⟩, hm⟩ := h
    simp only [List.filter_cons]
    split
    · simp only [swfFrom, Bool.and_eq_true, decide_eq_true_eq]
      exact ⟨⟨hb, hy⟩, ih (b + 1) hm⟩
    · exact swfFrom_mono d _ (b + 1) lo (ih (b + 1) hm) (by omega)

/-- Dropping entries keeps the canonical form. -/
theorem swf_filter (d : Nat → α) (p : Nat × α → Bool) (m : Sparse α) (h : swf d m = true) :
    swf d (m.filter p) = true := swfFrom_filter d p m 0 h

end Sys2Proof
end

