-- ==== Sys2Proof/Laws/State.lean ====
section
/-! SUPPORT. What each named update of the block changes and what it leaves: one lemma for each component of `State`
under each update, and the laws of the fixed-size tables. -/

namespace Sys2Proof

/-! ### Tables -/

@[simp] theorem tget_tabAll {α : Type} {n : Nat} (x : α) (i : Fin n) : tget (tabAll n x) i = x := by
  simp [tget, tabAll]

@[simp] theorem tget_tabOf {α : Type} {n : Nat} (f : Fin n → α) (i : Fin n) : tget (tabOf f) i = f i := by
  simp [tget, tabOf, Vector.getElem_mk]

@[simp] theorem tget_tmap {α β : Type} {n : Nat} (v : Vector α n) (f : Fin n → α → β) (i : Fin n) :
    tget (tmap v f) i = f i (tget v i) := by
  simp [tmap]

@[simp] theorem tget_tupd {α : Type} {n : Nat} (v : Vector α n) (i : Fin n) (f : α → α) :
    tget (tupd v i f) i = f (tget v i) := by
  simp [tget, tupd]

theorem tget_tupd_ne {α : Type} {n : Nat} (v : Vector α n) (i j : Fin n) (f : α → α) (h : i ≠ j) :
    tget (tupd v i f) j = tget v j := by
  have : i.val ≠ j.val := fun e => h (Fin.ext e)
  simp [tget, tupd, this]

theorem tget_tupd_if {α : Type} {n : Nat} (v : Vector α n) (i j : Fin n) (f : α → α) :
    tget (tupd v i f) j = if i = j then f (tget v j) else tget v j := by
  by_cases h : i = j
  · subst h; simp
  · simp [tget_tupd_ne _ _ _ _ h, h]

namespace Machine

/-! ### One component under each update -/

@[simp] theorem updR_routers (s : State) (r : RouterId) (f : Router → Router) :
    (updR s r f).routers = tupd s.routers r f := rfl
@[simp] theorem updR_nis (s : State) (r : RouterId) (f : Router → Router) : (updR s r f).nis = s.nis := rfl
@[simp] theorem updR_spine (s : State) (r : RouterId) (f : Router → Router) : (updR s r f).spine = s.spine := rfl
@[simp] theorem updR_epochs (s : State) (r : RouterId) (f : Router → Router) : (updR s r f).epochs = s.epochs := rfl
@[simp] theorem updR_cfgA (s : State) (r : RouterId) (f : Router → Router) : (updR s r f).cfgA = s.cfgA := rfl
@[simp] theorem updR_cfgB (s : State) (r : RouterId) (f : Router → Router) : (updR s r f).cfgB = s.cfgB := rfl
@[simp] theorem updR_herd (s : State) (r : RouterId) (f : Router → Router) : (updR s r f).herd = s.herd := rfl
@[simp] theorem updR_dip (s : State) (r : RouterId) (f : Router → Router) : (updR s r f).dip = s.dip := rfl
@[simp] theorem updR_can (s : State) (r : RouterId) (f : Router → Router) : (updR s r f).can = s.can := rfl
@[simp] theorem updR_crock (s : State) (r : RouterId) (f : Router → Router) : (updR s r f).crock = s.crock := rfl
@[simp] theorem updR_aon (s : State) (r : RouterId) (f : Router → Router) : (updR s r f).aon = s.aon := rfl
@[simp] theorem updR_churn (s : State) (r : RouterId) (f : Router → Router) : (updR s r f).churn = s.churn := rfl
@[simp] theorem updR_recov (s : State) (r : RouterId) (f : Router → Router) : (updR s r f).recov = s.recov := rfl
@[simp] theorem updR_drawn (s : State) (r : RouterId) (f : Router → Router) : (updR s r f).drawn = s.drawn := rfl
@[simp] theorem updR_pending (s : State) (r : RouterId) (f : Router → Router) : (updR s r f).pending = s.pending := rfl

@[simp] theorem updN_routers (s : State) (n : Slot) (f : NI → NI) : (updN s n f).routers = s.routers := rfl
@[simp] theorem updN_nis (s : State) (n : Slot) (f : NI → NI) : (updN s n f).nis = tupd s.nis n f := rfl
@[simp] theorem updN_spine (s : State) (n : Slot) (f : NI → NI) : (updN s n f).spine = s.spine := rfl
@[simp] theorem updN_epochs (s : State) (n : Slot) (f : NI → NI) : (updN s n f).epochs = s.epochs := rfl
@[simp] theorem updN_cfgA (s : State) (n : Slot) (f : NI → NI) : (updN s n f).cfgA = s.cfgA := rfl
@[simp] theorem updN_cfgB (s : State) (n : Slot) (f : NI → NI) : (updN s n f).cfgB = s.cfgB := rfl
@[simp] theorem updN_herd (s : State) (n : Slot) (f : NI → NI) : (updN s n f).herd = s.herd := rfl
@[simp] theorem updN_dip (s : State) (n : Slot) (f : NI → NI) : (updN s n f).dip = s.dip := rfl
@[simp] theorem updN_can (s : State) (n : Slot) (f : NI → NI) : (updN s n f).can = s.can := rfl
@[simp] theorem updN_crock (s : State) (n : Slot) (f : NI → NI) : (updN s n f).crock = s.crock := rfl
@[simp] theorem updN_aon (s : State) (n : Slot) (f : NI → NI) : (updN s n f).aon = s.aon := rfl
@[simp] theorem updN_churn (s : State) (n : Slot) (f : NI → NI) : (updN s n f).churn = s.churn := rfl
@[simp] theorem updN_recov (s : State) (n : Slot) (f : NI → NI) : (updN s n f).recov = s.recov := rfl
@[simp] theorem updN_drawn (s : State) (n : Slot) (f : NI → NI) : (updN s n f).drawn = s.drawn := rfl
@[simp] theorem updN_pending (s : State) (n : Slot) (f : NI → NI) : (updN s n f).pending = s.pending := rfl

@[simp] theorem updE_routers (s : State) (e : LinkEnd) (f : SpineEnd → SpineEnd) : (updE s e f).routers = s.routers := rfl
@[simp] theorem updE_nis (s : State) (e : LinkEnd) (f : SpineEnd → SpineEnd) : (updE s e f).nis = s.nis := rfl
@[simp] theorem updE_spine (s : State) (e : LinkEnd) (f : SpineEnd → SpineEnd) :
    (updE s e f).spine = tupd s.spine e f := rfl
@[simp] theorem updE_epochs (s : State) (e : LinkEnd) (f : SpineEnd → SpineEnd) : (updE s e f).epochs = s.epochs := rfl
@[simp] theorem updE_cfgA (s : State) (e : LinkEnd) (f : SpineEnd → SpineEnd) : (updE s e f).cfgA = s.cfgA := rfl
@[simp] theorem updE_cfgB (s : State) (e : LinkEnd) (f : SpineEnd → SpineEnd) : (updE s e f).cfgB = s.cfgB := rfl
@[simp] theorem updE_herd (s : State) (e : LinkEnd) (f : SpineEnd → SpineEnd) : (updE s e f).herd = s.herd := rfl
@[simp] theorem updE_dip (s : State) (e : LinkEnd) (f : SpineEnd → SpineEnd) : (updE s e f).dip = s.dip := rfl
@[simp] theorem updE_can (s : State) (e : LinkEnd) (f : SpineEnd → SpineEnd) : (updE s e f).can = s.can := rfl
@[simp] theorem updE_crock (s : State) (e : LinkEnd) (f : SpineEnd → SpineEnd) : (updE s e f).crock = s.crock := rfl
@[simp] theorem updE_aon (s : State) (e : LinkEnd) (f : SpineEnd → SpineEnd) : (updE s e f).aon = s.aon := rfl
@[simp] theorem updE_churn (s : State) (e : LinkEnd) (f : SpineEnd → SpineEnd) : (updE s e f).churn = s.churn := rfl
@[simp] theorem updE_recov (s : State) (e : LinkEnd) (f : SpineEnd → SpineEnd) : (updE s e f).recov = s.recov := rfl
@[simp] theorem updE_drawn (s : State) (e : LinkEnd) (f : SpineEnd → SpineEnd) : (updE s e f).drawn = s.drawn := rfl
@[simp] theorem updE_pending (s : State) (e : LinkEnd) (f : SpineEnd → SpineEnd) : (updE s e f).pending = s.pending := rfl

@[simp] theorem updHerd_routers (s : State) (f : Herd → Herd) : (updHerd s f).routers = s.routers := rfl
@[simp] theorem updHerd_nis (s : State) (f : Herd → Herd) : (updHerd s f).nis = s.nis := rfl
@[simp] theorem updHerd_spine (s : State) (f : Herd → Herd) : (updHerd s f).spine = s.spine := rfl
@[simp] theorem updHerd_epochs (s : State) (f : Herd → Herd) : (updHerd s f).epochs = s.epochs := rfl
@[simp] theorem updHerd_cfgA (s : State) (f : Herd → Herd) : (updHerd s f).cfgA = s.cfgA := rfl
@[simp] theorem updHerd_cfgB (s : State) (f : Herd → Herd) : (updHerd s f).cfgB = s.cfgB := rfl
@[simp] theorem updHerd_herd (s : State) (f : Herd → Herd) : (updHerd s f).herd = f s.herd := rfl
@[simp] theorem updHerd_dip (s : State) (f : Herd → Herd) : (updHerd s f).dip = s.dip := rfl
@[simp] theorem updHerd_can (s : State) (f : Herd → Herd) : (updHerd s f).can = s.can := rfl
@[simp] theorem updHerd_crock (s : State) (f : Herd → Herd) : (updHerd s f).crock = s.crock := rfl
@[simp] theorem updHerd_aon (s : State) (f : Herd → Herd) : (updHerd s f).aon = s.aon := rfl
@[simp] theorem updHerd_churn (s : State) (f : Herd → Herd) : (updHerd s f).churn = s.churn := rfl
@[simp] theorem updHerd_recov (s : State) (f : Herd → Herd) : (updHerd s f).recov = s.recov := rfl
@[simp] theorem updHerd_drawn (s : State) (f : Herd → Herd) : (updHerd s f).drawn = s.drawn := rfl
@[simp] theorem updHerd_pending (s : State) (f : Herd → Herd) : (updHerd s f).pending = s.pending := rfl

@[simp] theorem updAon_routers (s : State) (f : Aon → Aon) : (updAon s f).routers = s.routers := rfl
@[simp] theorem updAon_nis (s : State) (f : Aon → Aon) : (updAon s f).nis = s.nis := rfl
@[simp] theorem updAon_spine (s : State) (f : Aon → Aon) : (updAon s f).spine = s.spine := rfl
@[simp] theorem updAon_epochs (s : State) (f : Aon → Aon) : (updAon s f).epochs = s.epochs := rfl
@[simp] theorem updAon_cfgA (s : State) (f : Aon → Aon) : (updAon s f).cfgA = s.cfgA := rfl
@[simp] theorem updAon_cfgB (s : State) (f : Aon → Aon) : (updAon s f).cfgB = s.cfgB := rfl
@[simp] theorem updAon_herd (s : State) (f : Aon → Aon) : (updAon s f).herd = s.herd := rfl
@[simp] theorem updAon_dip (s : State) (f : Aon → Aon) : (updAon s f).dip = s.dip := rfl
@[simp] theorem updAon_can (s : State) (f : Aon → Aon) : (updAon s f).can = s.can := rfl
@[simp] theorem updAon_crock (s : State) (f : Aon → Aon) : (updAon s f).crock = s.crock := rfl
@[simp] theorem updAon_aon (s : State) (f : Aon → Aon) : (updAon s f).aon = f s.aon := rfl
@[simp] theorem updAon_churn (s : State) (f : Aon → Aon) : (updAon s f).churn = s.churn := rfl
@[simp] theorem updAon_recov (s : State) (f : Aon → Aon) : (updAon s f).recov = s.recov := rfl
@[simp] theorem updAon_drawn (s : State) (f : Aon → Aon) : (updAon s f).drawn = s.drawn := rfl
@[simp] theorem updAon_pending (s : State) (f : Aon → Aon) : (updAon s f).pending = s.pending := rfl

@[simp] theorem updCan_routers (s : State) (f : Can → Can) : (updCan s f).routers = s.routers := rfl
@[simp] theorem updCan_nis (s : State) (f : Can → Can) : (updCan s f).nis = s.nis := rfl
@[simp] theorem updCan_spine (s : State) (f : Can → Can) : (updCan s f).spine = s.spine := rfl
@[simp] theorem updCan_epochs (s : State) (f : Can → Can) : (updCan s f).epochs = s.epochs := rfl
@[simp] theorem updCan_cfgA (s : State) (f : Can → Can) : (updCan s f).cfgA = s.cfgA := rfl
@[simp] theorem updCan_cfgB (s : State) (f : Can → Can) : (updCan s f).cfgB = s.cfgB := rfl
@[simp] theorem updCan_herd (s : State) (f : Can → Can) : (updCan s f).herd = s.herd := rfl
@[simp] theorem updCan_dip (s : State) (f : Can → Can) : (updCan s f).dip = s.dip := rfl
@[simp] theorem updCan_can (s : State) (f : Can → Can) : (updCan s f).can = f s.can := rfl
@[simp] theorem updCan_crock (s : State) (f : Can → Can) : (updCan s f).crock = s.crock := rfl
@[simp] theorem updCan_aon (s : State) (f : Can → Can) : (updCan s f).aon = s.aon := rfl
@[simp] theorem updCan_churn (s : State) (f : Can → Can) : (updCan s f).churn = s.churn := rfl
@[simp] theorem updCan_recov (s : State) (f : Can → Can) : (updCan s f).recov = s.recov := rfl
@[simp] theorem updCan_drawn (s : State) (f : Can → Can) : (updCan s f).drawn = s.drawn := rfl
@[simp] theorem updCan_pending (s : State) (f : Can → Can) : (updCan s f).pending = s.pending := rfl

@[simp] theorem updDip_routers (s : State) (f : Dipper → Dipper) : (updDip s f).routers = s.routers := rfl
@[simp] theorem updDip_nis (s : State) (f : Dipper → Dipper) : (updDip s f).nis = s.nis := rfl
@[simp] theorem updDip_spine (s : State) (f : Dipper → Dipper) : (updDip s f).spine = s.spine := rfl
@[simp] theorem updDip_epochs (s : State) (f : Dipper → Dipper) : (updDip s f).epochs = s.epochs := rfl
@[simp] theorem updDip_cfgA (s : State) (f : Dipper → Dipper) : (updDip s f).cfgA = s.cfgA := rfl
@[simp] theorem updDip_cfgB (s : State) (f : Dipper → Dipper) : (updDip s f).cfgB = s.cfgB := rfl
@[simp] theorem updDip_herd (s : State) (f : Dipper → Dipper) : (updDip s f).herd = s.herd := rfl
@[simp] theorem updDip_dip (s : State) (f : Dipper → Dipper) : (updDip s f).dip = f s.dip := rfl
@[simp] theorem updDip_can (s : State) (f : Dipper → Dipper) : (updDip s f).can = s.can := rfl
@[simp] theorem updDip_crock (s : State) (f : Dipper → Dipper) : (updDip s f).crock = s.crock := rfl
@[simp] theorem updDip_aon (s : State) (f : Dipper → Dipper) : (updDip s f).aon = s.aon := rfl
@[simp] theorem updDip_churn (s : State) (f : Dipper → Dipper) : (updDip s f).churn = s.churn := rfl
@[simp] theorem updDip_recov (s : State) (f : Dipper → Dipper) : (updDip s f).recov = s.recov := rfl
@[simp] theorem updDip_drawn (s : State) (f : Dipper → Dipper) : (updDip s f).drawn = s.drawn := rfl
@[simp] theorem updDip_pending (s : State) (f : Dipper → Dipper) : (updDip s f).pending = s.pending := rfl

@[simp] theorem updCrock_routers (s : State) (f : Crock → Crock) : (updCrock s f).routers = s.routers := rfl
@[simp] theorem updCrock_nis (s : State) (f : Crock → Crock) : (updCrock s f).nis = s.nis := rfl
@[simp] theorem updCrock_spine (s : State) (f : Crock → Crock) : (updCrock s f).spine = s.spine := rfl
@[simp] theorem updCrock_epochs (s : State) (f : Crock → Crock) : (updCrock s f).epochs = s.epochs := rfl
@[simp] theorem updCrock_cfgA (s : State) (f : Crock → Crock) : (updCrock s f).cfgA = s.cfgA := rfl
@[simp] theorem updCrock_cfgB (s : State) (f : Crock → Crock) : (updCrock s f).cfgB = s.cfgB := rfl
@[simp] theorem updCrock_herd (s : State) (f : Crock → Crock) : (updCrock s f).herd = s.herd := rfl
@[simp] theorem updCrock_dip (s : State) (f : Crock → Crock) : (updCrock s f).dip = s.dip := rfl
@[simp] theorem updCrock_can (s : State) (f : Crock → Crock) : (updCrock s f).can = s.can := rfl
@[simp] theorem updCrock_crock (s : State) (f : Crock → Crock) : (updCrock s f).crock = f s.crock := rfl
@[simp] theorem updCrock_aon (s : State) (f : Crock → Crock) : (updCrock s f).aon = s.aon := rfl
@[simp] theorem updCrock_churn (s : State) (f : Crock → Crock) : (updCrock s f).churn = s.churn := rfl
@[simp] theorem updCrock_recov (s : State) (f : Crock → Crock) : (updCrock s f).recov = s.recov := rfl
@[simp] theorem updCrock_drawn (s : State) (f : Crock → Crock) : (updCrock s f).drawn = s.drawn := rfl
@[simp] theorem updCrock_pending (s : State) (f : Crock → Crock) : (updCrock s f).pending = s.pending := rfl

@[simp] theorem updChurn_routers (s : State) (f : Churn → Churn) : (updChurn s f).routers = s.routers := rfl
@[simp] theorem updChurn_nis (s : State) (f : Churn → Churn) : (updChurn s f).nis = s.nis := rfl
@[simp] theorem updChurn_spine (s : State) (f : Churn → Churn) : (updChurn s f).spine = s.spine := rfl
@[simp] theorem updChurn_epochs (s : State) (f : Churn → Churn) : (updChurn s f).epochs = s.epochs := rfl
@[simp] theorem updChurn_cfgA (s : State) (f : Churn → Churn) : (updChurn s f).cfgA = s.cfgA := rfl
@[simp] theorem updChurn_cfgB (s : State) (f : Churn → Churn) : (updChurn s f).cfgB = s.cfgB := rfl
@[simp] theorem updChurn_herd (s : State) (f : Churn → Churn) : (updChurn s f).herd = s.herd := rfl
@[simp] theorem updChurn_dip (s : State) (f : Churn → Churn) : (updChurn s f).dip = s.dip := rfl
@[simp] theorem updChurn_can (s : State) (f : Churn → Churn) : (updChurn s f).can = s.can := rfl
@[simp] theorem updChurn_crock (s : State) (f : Churn → Churn) : (updChurn s f).crock = s.crock := rfl
@[simp] theorem updChurn_aon (s : State) (f : Churn → Churn) : (updChurn s f).aon = s.aon := rfl
@[simp] theorem updChurn_churn (s : State) (f : Churn → Churn) : (updChurn s f).churn = f s.churn := rfl
@[simp] theorem updChurn_recov (s : State) (f : Churn → Churn) : (updChurn s f).recov = s.recov := rfl
@[simp] theorem updChurn_drawn (s : State) (f : Churn → Churn) : (updChurn s f).drawn = s.drawn := rfl
@[simp] theorem updChurn_pending (s : State) (f : Churn → Churn) : (updChurn s f).pending = s.pending := rfl

@[simp] theorem updRecov_routers (s : State) (f : Recovery → Recovery) : (updRecov s f).routers = s.routers := rfl
@[simp] theorem updRecov_nis (s : State) (f : Recovery → Recovery) : (updRecov s f).nis = s.nis := rfl
@[simp] theorem updRecov_spine (s : State) (f : Recovery → Recovery) : (updRecov s f).spine = s.spine := rfl
@[simp] theorem updRecov_epochs (s : State) (f : Recovery → Recovery) : (updRecov s f).epochs = s.epochs := rfl
@[simp] theorem updRecov_cfgA (s : State) (f : Recovery → Recovery) : (updRecov s f).cfgA = s.cfgA := rfl
@[simp] theorem updRecov_cfgB (s : State) (f : Recovery → Recovery) : (updRecov s f).cfgB = s.cfgB := rfl
@[simp] theorem updRecov_herd (s : State) (f : Recovery → Recovery) : (updRecov s f).herd = s.herd := rfl
@[simp] theorem updRecov_dip (s : State) (f : Recovery → Recovery) : (updRecov s f).dip = s.dip := rfl
@[simp] theorem updRecov_can (s : State) (f : Recovery → Recovery) : (updRecov s f).can = s.can := rfl
@[simp] theorem updRecov_crock (s : State) (f : Recovery → Recovery) : (updRecov s f).crock = s.crock := rfl
@[simp] theorem updRecov_aon (s : State) (f : Recovery → Recovery) : (updRecov s f).aon = s.aon := rfl
@[simp] theorem updRecov_churn (s : State) (f : Recovery → Recovery) : (updRecov s f).churn = s.churn := rfl
@[simp] theorem updRecov_recov (s : State) (f : Recovery → Recovery) : (updRecov s f).recov = f s.recov := rfl
@[simp] theorem updRecov_drawn (s : State) (f : Recovery → Recovery) : (updRecov s f).drawn = s.drawn := rfl
@[simp] theorem updRecov_pending (s : State) (f : Recovery → Recovery) : (updRecov s f).pending = s.pending := rfl

@[simp] theorem updAllN_routers (s : State) (f : Slot → NI → NI) : (updAllN s f).routers = s.routers := rfl
@[simp] theorem updAllN_nis (s : State) (f : Slot → NI → NI) : (updAllN s f).nis = tmap s.nis f := rfl
@[simp] theorem updAllN_spine (s : State) (f : Slot → NI → NI) : (updAllN s f).spine = s.spine := rfl
@[simp] theorem updAllN_epochs (s : State) (f : Slot → NI → NI) : (updAllN s f).epochs = s.epochs := rfl
@[simp] theorem updAllN_cfgA (s : State) (f : Slot → NI → NI) : (updAllN s f).cfgA = s.cfgA := rfl
@[simp] theorem updAllN_cfgB (s : State) (f : Slot → NI → NI) : (updAllN s f).cfgB = s.cfgB := rfl
@[simp] theorem updAllN_herd (s : State) (f : Slot → NI → NI) : (updAllN s f).herd = s.herd := rfl
@[simp] theorem updAllN_dip (s : State) (f : Slot → NI → NI) : (updAllN s f).dip = s.dip := rfl
@[simp] theorem updAllN_can (s : State) (f : Slot → NI → NI) : (updAllN s f).can = s.can := rfl
@[simp] theorem updAllN_crock (s : State) (f : Slot → NI → NI) : (updAllN s f).crock = s.crock := rfl
@[simp] theorem updAllN_aon (s : State) (f : Slot → NI → NI) : (updAllN s f).aon = s.aon := rfl
@[simp] theorem updAllN_churn (s : State) (f : Slot → NI → NI) : (updAllN s f).churn = s.churn := rfl
@[simp] theorem updAllN_recov (s : State) (f : Slot → NI → NI) : (updAllN s f).recov = s.recov := rfl
@[simp] theorem updAllN_drawn (s : State) (f : Slot → NI → NI) : (updAllN s f).drawn = s.drawn := rfl
@[simp] theorem updAllN_pending (s : State) (f : Slot → NI → NI) : (updAllN s f).pending = s.pending := rfl

@[simp] theorem updAllR_routers (s : State) (f : RouterId → Router → Router) :
    (updAllR s f).routers = tmap s.routers f := rfl
@[simp] theorem updAllR_nis (s : State) (f : RouterId → Router → Router) : (updAllR s f).nis = s.nis := rfl
@[simp] theorem updAllR_spine (s : State) (f : RouterId → Router → Router) : (updAllR s f).spine = s.spine := rfl
@[simp] theorem updAllR_epochs (s : State) (f : RouterId → Router → Router) : (updAllR s f).epochs = s.epochs := rfl
@[simp] theorem updAllR_cfgA (s : State) (f : RouterId → Router → Router) : (updAllR s f).cfgA = s.cfgA := rfl
@[simp] theorem updAllR_cfgB (s : State) (f : RouterId → Router → Router) : (updAllR s f).cfgB = s.cfgB := rfl
@[simp] theorem updAllR_herd (s : State) (f : RouterId → Router → Router) : (updAllR s f).herd = s.herd := rfl
@[simp] theorem updAllR_dip (s : State) (f : RouterId → Router → Router) : (updAllR s f).dip = s.dip := rfl
@[simp] theorem updAllR_can (s : State) (f : RouterId → Router → Router) : (updAllR s f).can = s.can := rfl
@[simp] theorem updAllR_crock (s : State) (f : RouterId → Router → Router) : (updAllR s f).crock = s.crock := rfl
@[simp] theorem updAllR_aon (s : State) (f : RouterId → Router → Router) : (updAllR s f).aon = s.aon := rfl
@[simp] theorem updAllR_churn (s : State) (f : RouterId → Router → Router) : (updAllR s f).churn = s.churn := rfl
@[simp] theorem updAllR_recov (s : State) (f : RouterId → Router → Router) : (updAllR s f).recov = s.recov := rfl
@[simp] theorem updAllR_drawn (s : State) (f : RouterId → Router → Router) : (updAllR s f).drawn = s.drawn := rfl
@[simp] theorem updAllR_pending (s : State) (f : RouterId → Router → Router) : (updAllR s f).pending = s.pending := rfl

@[simp] theorem updAllE_routers (s : State) (f : LinkEnd → SpineEnd → SpineEnd) : (updAllE s f).routers = s.routers := rfl
@[simp] theorem updAllE_nis (s : State) (f : LinkEnd → SpineEnd → SpineEnd) : (updAllE s f).nis = s.nis := rfl
@[simp] theorem updAllE_spine (s : State) (f : LinkEnd → SpineEnd → SpineEnd) :
    (updAllE s f).spine = tmap s.spine f := rfl
@[simp] theorem updAllE_epochs (s : State) (f : LinkEnd → SpineEnd → SpineEnd) : (updAllE s f).epochs = s.epochs := rfl
@[simp] theorem updAllE_cfgA (s : State) (f : LinkEnd → SpineEnd → SpineEnd) : (updAllE s f).cfgA = s.cfgA := rfl
@[simp] theorem updAllE_cfgB (s : State) (f : LinkEnd → SpineEnd → SpineEnd) : (updAllE s f).cfgB = s.cfgB := rfl
@[simp] theorem updAllE_herd (s : State) (f : LinkEnd → SpineEnd → SpineEnd) : (updAllE s f).herd = s.herd := rfl
@[simp] theorem updAllE_dip (s : State) (f : LinkEnd → SpineEnd → SpineEnd) : (updAllE s f).dip = s.dip := rfl
@[simp] theorem updAllE_can (s : State) (f : LinkEnd → SpineEnd → SpineEnd) : (updAllE s f).can = s.can := rfl
@[simp] theorem updAllE_crock (s : State) (f : LinkEnd → SpineEnd → SpineEnd) : (updAllE s f).crock = s.crock := rfl
@[simp] theorem updAllE_aon (s : State) (f : LinkEnd → SpineEnd → SpineEnd) : (updAllE s f).aon = s.aon := rfl
@[simp] theorem updAllE_churn (s : State) (f : LinkEnd → SpineEnd → SpineEnd) : (updAllE s f).churn = s.churn := rfl
@[simp] theorem updAllE_recov (s : State) (f : LinkEnd → SpineEnd → SpineEnd) : (updAllE s f).recov = s.recov := rfl
@[simp] theorem updAllE_drawn (s : State) (f : LinkEnd → SpineEnd → SpineEnd) : (updAllE s f).drawn = s.drawn := rfl
@[simp] theorem updAllE_pending (s : State) (f : LinkEnd → SpineEnd → SpineEnd) : (updAllE s f).pending = s.pending := rfl

/-! ### One unit under each update -/

theorem nif_updN (s : State) (n m : Slot) (f : NI → NI) :
    nif (updN s n f) m = if n = m then f (nif s m) else nif s m := tget_tupd_if _ _ _ _

@[simp] theorem nif_updN_same (s : State) (n : Slot) (f : NI → NI) : nif (updN s n f) n = f (nif s n) :=
  tget_tupd _ _ _

theorem nif_updN_ne (s : State) (n m : Slot) (f : NI → NI) (h : n ≠ m) : nif (updN s n f) m = nif s m :=
  tget_tupd_ne _ _ _ _ h

theorem rtr_updR (s : State) (r q : RouterId) (f : Router → Router) :
    rtr (updR s r f) q = if r = q then f (rtr s q) else rtr s q := tget_tupd_if _ _ _ _

theorem rtr_updR_ne (s : State) (r q : RouterId) (f : Router → Router) (h : r ≠ q) : rtr (updR s r f) q = rtr s q :=
  tget_tupd_ne _ _ _ _ h

theorem spn_updE (s : State) (e d : LinkEnd) (f : SpineEnd → SpineEnd) :
    spn (updE s e f) d = if e = d then f (spn s d) else spn s d := tget_tupd_if _ _ _ _

theorem spn_updE_ne (s : State) (e d : LinkEnd) (f : SpineEnd → SpineEnd) (h : e ≠ d) :
    spn (updE s e f) d = spn s d := tget_tupd_ne _ _ _ _ h

end Machine

end Sys2Proof
end

