-- ==== Sys2Proof/WellFormed.lean ====
section
/-! DEFINITION. What commands the surroundings can send: bounds on operands that the types do not already state. The
meanings do not rest on it: a command that is not well-formed acts as its operands say, or leaves the state as it is. -/

namespace Sys2Proof

/-- An epoch has 1,024 FCLK cycles (R210), and up to 1,030 where a freeze interrupts it (R430). -/
def cycleOk (k : Nat) : Bool := decide (k < 1030)

/-- What is presented at once is one to four flits (R51). -/
def packetOk (pkt : Packet) : Bool := decide (1 ≤ pkt.length) && decide (pkt.length ≤ 4)

/-- Ports, rings and stops are named once each. -/
def onceEach {α : Type} [DecidableEq α] : List α → Bool
  | [] => true
  | a :: rest => !rest.contains a && onceEach rest

/-- Physical lanes of a link end (R239): at most 68. -/
def laneOk (l : Nat) : Bool := decide (l < 68)

/-- Tables 0 to 6 (R431), eight banks at most. -/
def bankOk (b : BankRef) : Bool := decide (b.table ≤ 6) && decide (b.lbank < 8)

/-- An offset within a register page (R503). -/
def offsetOk (off : Nat) : Bool := decide (off < 4096) && decide (off % 8 = 0)

/-- The surroundings can send the command. -/
def wellFormed : Instr → Bool
  | .headFlitArrival _ _ k _ _ => cycleOk k
  | .switchAllocation _ ports k => cycleOk k && onceEach ports
  | .escEntry _ _ _ k => cycleOk k
  | .publishBatch _ k => cycleOk k
  | .rdLine _ k _ pkt => cycleOk k && packetOk pkt
  | .rdSpray _ k _ pkt => cycleOk k && packetOk pkt
  | .wrFullP _ k pkt => cycleOk k && packetOk pkt
  | .wrFullNp _ k pkt => cycleOk k && packetOk pkt
  | .wrPartP _ k pkt => cycleOk k && packetOk pkt
  | .wrPartNp _ k pkt => cycleOk k && packetOk pkt
  | .atAdd _ k pkt => cycleOk k && packetOk pkt
  | .atMin _ k pkt => cycleOk k && packetOk pkt
  | .atMax _ k pkt => cycleOk k && packetOk pkt
  | .atSwap _ k pkt => cycleOk k && packetOk pkt
  | .atCas _ k pkt => cycleOk k && packetOk pkt
  | .lkAcq _ k pkt => cycleOk k && packetOk pkt
  | .lkRel _ k pkt => cycleOk k && packetOk pkt
  | .fnStoreT _ k pkt => cycleOk k && packetOk pkt
  | .fnStoreG _ k pkt => cycleOk k && packetOk pkt
  | .fnFullT _ k pkt => cycleOk k && packetOk pkt
  | .fnFullG _ k pkt => cycleOk k && packetOk pkt
  | .msgIntr _ k pkt => cycleOk k && packetOk pkt
  | .msgMail _ k pkt => cycleOk k && packetOk pkt
  | .epochClose _ k pkt => cycleOk k && packetOk pkt
  | .malformed _ k pkt => cycleOk k && packetOk pkt
  | .prematureHead _ k _ pkt => cycleOk k && packetOk pkt
  | .meterHoldRetry _ k => cycleOk k
  | .requestStep5Resume _ k => cycleOk k
  | .pieceInject _ k => cycleOk k
  | .endpointAnswer _ pkt => packetOk pkt
  | .ringPoll homes => onceEach (homes.map (·.1))
  | .spineRecordSend _ k => cycleOk k
  | .dataSfuReceive _ k _ => cycleOk k
  | .linkSfuReceive _ k _ => cycleOk k
  | .nakRepeat _ k => cycleOk k
  | .ackDue _ k => cycleOk k
  | .replayTimeout _ k => cycleOk k
  | .returnPortReinject _ k => cycleOk k
  | .clusterGate _ k => cycleOk k
  | .laneLockLoss _ l => laneOk l
  | .laneFailing _ l => laneOk l
  | .linkTrainingComplete _ lanes _ | .linkRetrainComplete _ lanes =>
    lanes.all (fun t => laneOk t.lane) && onceEach (lanes.map (·.lane))
  | .laneMarker _ seen => seen.all (fun m => laneOk m.lane) && onceEach (seen.map (·.lane))
  | .scrubLine b row _ => bankOk b && decide (row < 192)
  | .scrubForce b row _ => bankOk b && decide (row < 192)
  | .bankCopyDone b => bankOk b
  | .retainReturn failed => failed.all (fun f => bankOk f.bank)
  | .niRecoveryDone _ failed => failed.all (fun f => bankOk f.bank)
  | .clusterRecoveryStep _ failed => failed.all (fun f => bankOk f.bank)
  | .dieRecoveryStep failed => failed.all (fun f => bankOk f.bank)
  | .sealedWrite off _ => offsetOk off
  | .mtrDebugAccess off => offsetOk off
  | .registerWrite off _ _ => decide (off.toNat % 8 = 0)
  | .hardReset | .warmReset | .resetSequenceComplete | .bootWordRead _ | .mtrRst | .otsMAnswer _ | .otsTimeout _
  | .herdsmanTick | .clusterTick _ | .governorLevelApply _ | .creditReturn _ _ | .endpointAbandon _
  | .abandonRemainderDiscard _ _ | .inboundRequest _ _ | .ordGap _ _ | .inboundDiscard _ | .inboundDiscardEnd _
  | .inboundOffer _ | .atomicExecute _ | .atomicReadReturn _ _ _ _ | .atomicWritebackAck _ _ _
  | .lockTableAcquire _ | .lockTableRelease _ | .lockLease _ | .ownerGenerationChange _ _
  | .lockReopenWindowEnd _ | .responseArrival _ _ | .responseDelivery _ | .fenceComplete _ | .tagLost _ _
  | .quarantineEnd _ _ | .epResetAssert _ | .epResetRelease _ | .requestReadyRise _ | .epReadyChange _ _
  | .epExc _ | .dbFwd | .commandFetch _ _ | .commandIndexRecheck _ _ | .commandStart _ | .nop _ | .cfgWrite _ _
  | .cfgCopy _ | .cfgSwap _ | .cfgRead _ | .cfgSwapCancel | .cfgSwapApply _ | .gateLoad _ _ | .gateSwap _
  | .gateFence _ | .meterProg _ _ | .meterEntryApply _ | .snapshot _ | .setRate _ | .pause _ | .resume _
  | .status _ | .reloaded _ | .crockDrain _ | .linkCtl _ | .modeReqServe _ | .modeReqDrowse _
  | .modeReqRetain _ | .enable _ _ | .change _ _ | .disable _ | .msgSendIntr _ | .msgSendMail _ _
  | .ringMove _ _ | .commandComplete _ | .publishIndex _ | .ringInterrupt _ | .mgRd _ _ _ _
  | .mgWr _ _ _ _ | .mgResp _ _ | .mgEvent _ _ _ | .mgFrameTimeout _ _ | .stewardLost _ _ | .sectorReturn _
  | .eventReport | .eventMergeClose | .spineUpUpdate _ | .doorbellWindowUpdate _ _ | .groupStateChange _ _
  | .dbgAuthChange _ | .epochCloseInject _ _ | .epochCloseArrival | .closeRepeat _ | .commitRepeat | .cmCommit _
  | .curdMemberCommit _ _ | .curdRelease _ _ | .curdEpochReleased _ _ | .curdReleaseResume _ | .vatSpill _
  | .vatDrain _ | .vatData _ | .linkTrainingTimeout _ | .linkRetrainFail _
  | .lockLossExpiry _ | .linkDown _ | .linkDownRetry _ | .returnWaitExpiry _ | .returnETimeout _ | .linkEnOff _
  | .spineNoRoute _ | .tallyWord _ _ | .tallyMarker _ _ | .reportClose | .laneAbsentTimeout | .reportWrite
  | .reportTrailer | .meterResetNotice | .canScrub _ | .meterClock | .mtrSeal _ | .mtrUnseal _ _
  | .unsealConfirm _ | .mtrTmapData _ | .mtrRptNow _ | .dipSelData _ | .selectionApply _ | .snapshotLatch _
  | .dipperGather | .dipperPublish | .gatherAbandon | .postedDrainDone | .drainTimeout | .quietReached
  | .pwrcAck _ | .pwrAckLate | .clkcRootAck _ | .clkcAck _ _ | .wakeEvent _ | .epochAlarm | .drowseExit
  | .clusterUngate _ | .freeze | .thaw | .clusterClockLost _ | .routerStateUe _ | .niStateParity _ | .cdcPtr _ _
  | .clusterRecoveryRestart _ | .herdStateUe | .fabLock _ | .fabWin _ | .stwRing _ _ | .stwRingCtl _
  | .stwDbw _ _ | .stwIrqMask _ | .stwIrqCause _ | .stwIntr _ _ _ | .dipSelStatus _ | .dipUserCtl _ _
  | .crkRearm _ | .pwrWakeCfg _ | .pwrAlarm _ | .pwrDrain _ | .idcode | .testEntry _ | .frzHold _ | .frzRead _
  | .dbgMaster _ _ _ | .bypass _ | .tapReset | .supplyPowerOn | .trainingPatternsSeen _ => true

end Sys2Proof
end

