-- ==== Sys2Proof/Tests/Slice0.lean ====
section
/-! SUPPORT. Tests: well-formedness refuses what it should, single steps on small states with results taken from the
spec's rules, and for each statement with hypotheses a state and operands that meet them. -/

open Sys2Proof Sys2Proof.Machine Sys2Proof.Safety Sys2Proof.Laws

section
set_option Elab.async false

/-! ### States and packets for the tests -/

/-- A gate set whose region 0 lets every slot do everything everywhere, at both ends. -/
def openSet : GateSet :=
  { GateSet.reset with ctl := 0xFF00C00000000000#64, regions := tupd GateSet.reset.regions 0 (fun _ => (0xBF60000000000000#64, 0xFF0000FFFFFFFFFF#64)) }

/-- An endpoint at work. -/
def liveNi : NI :=
  { NI.reset0 with reqReady := true, ready := true, gates := tabAll 2 openSet }

/-- The block in SERVE, all counters at epoch 5,120. -/
def live : State :=
  { State.reset with
    aon := { Aon.reset with mode := .serve, aclk := 100000, clkReq := 0x3FFFFFF, clkAck := 0x3FFFFFF }
    epochs := tabAll 24 5120
    herd := { Herd.reset with epoch := 5120, commitLeft := 192 }
    nis := tabAll 192 liveNi }

/-- `live` with NI `n` changed. -/
def at_ (n : Slot) (f : NI → NI) : State := updN live n f

/-- A head flit. -/
def tHead (op : BitVec 6) (src dest tag len line : Nat) : Flit :=
  withCtl zeroFlit (setField (setField (setField (setField (setField (setField (0 : BitVec 128) 103 6 op.toNat) 112 8 src)
    120 8 dest) 94 9 tag) 92 2 len) 34 46 line)

/-- Body flit `i` of a packet with LEN `len`. -/
def tBody (i len : Nat) : Flit := withCtl zeroFlit (bodyCtl 0 i len false)

/-! ### Well-formedness: one ill-formed term for each check -/

theorem test_wf_cycle : wellFormed (.meterHoldRetry 0 1030) = false := by decide
theorem test_wf_cycle_top : wellFormed (.meterHoldRetry 0 1029) = true := by decide
theorem test_wf_packet_empty : wellFormed (.endpointAnswer 0 []) = false := by decide
theorem test_wf_packet_long : wellFormed (.rdLine 0 0 false (List.replicate 5 zeroFlit)) = false := by decide
theorem test_wf_ports_twice : wellFormed (.switchAllocation 0 [1, 1] 0) = false := by decide
theorem test_wf_lane : wellFormed (.laneFailing 0 68) = false := by decide
theorem test_wf_bank : wellFormed (.bankCopyDone { unit := .router 0, table := 7, lbank := 0 }) = false := by decide
theorem test_wf_row : wellFormed (.scrubForce { unit := .router 0, table := 0, lbank := 0 } 192 []) = false := by decide

/-! ### Single steps and operations, with results from the spec -/

/-- R41: an all-zero word has an all-zero check byte. -/
theorem test_zero_word_check : secded 0 = 0 := by decide +kernel
/-- R40: an all-zero control field is correct under all-zero parity bits. -/
theorem test_zero_parity : badGroups zeroFlit = 0 := by decide +kernel
/-- R23, R24: the placement of MC40, found from its router and local port. -/
theorem test_slot_grid : slotAt (routerOf 56) ((localPort 56).val - 8) = 56 := by decide +kernel
/-- R26: router 25 is (1, 2), in cluster 6. -/
theorem test_cluster : clusterOf 25 = 6 := by decide +kernel
/-- R406, R519: the always-on counter counts. -/
theorem test_idle_counts : (aclkCycle live).aon.aclk = live.aon.aclk + 1 := by decide +kernel
/-- R395: a hard reset enters RESET. -/
theorem test_hard_reset_mode : ∃ t, exec .hardReset live = .next t ∧ t.aon.mode = .reset := ⟨_, rfl, by decide +kernel⟩

/-! ### Endpoint requests -/

/-- One request packet of `len + 1` flits from slot 20 for line 77 at slot 30, its tag 5. -/
def tReq (op : BitVec 6) (len : Nat) : Packet := tHead op 20 30 5 len 77 :: (List.range len).map (fun i => tBody (i + 1) len)
/-- The request of one line that waits at step 5. -/
def tPend (held : Bool) : PendReq :=
  { op := opRdLine, fetch := false, pkt := tReq opRdLine 0, metered := if held then .held else .colour 1
    parity := [], tagFree := true, bad := false, plan := planOf live 20 opRdLine (tReq opRdLine 0) }

theorem witness_requestForLines (h : Obligations.RequestForLinesAccepted) :
    (∃ t, exec (.rdLine 20 0 false (tReq opRdLine 0)) (live) = .next t) ∧
    (∃ t, exec (.rdSpray 20 0 false (tReq opRdSpray 0)) (live) = .next t) ∧
    (∃ t, exec (.wrFullP 20 0 (tReq opWrFullP 0)) (live) = .next t) ∧
    (∃ t, exec (.wrFullNp 20 0 (tReq opWrFullNp 3)) (live) = .next t) ∧
    (∃ t, exec (.wrPartP 20 0 (tReq opWrPartP 1)) (live) = .next t) ∧
    (∃ t, exec (.wrPartNp 20 0 (tReq opWrPartNp 3)) (live) = .next t) ∧
    (∃ t, exec (.atAdd 20 0 (tReq opAtAdd 0)) (live) = .next t) ∧
    (∃ t, exec (.atMin 20 0 (tReq opAtMin 0)) (live) = .next t) ∧
    (∃ t, exec (.atMax 20 0 (tReq opAtMax 0)) (live) = .next t) ∧
    (∃ t, exec (.atSwap 20 0 (tReq opAtSwap 0)) (live) = .next t) ∧
    (∃ t, exec (.atCas 20 0 (tReq opAtCas 0)) (live) = .next t) ∧
    (∃ t, exec (.lkAcq 20 0 (tReq opLkAcq 0)) (live) = .next t) ∧
    (∃ t, exec (.lkRel 20 0 (tReq opLkRel 0)) (live) = .next t) ∧
    (∃ t, exec (.msgIntr 20 0 (tReq opMsgIntr 0)) (live) = .next t) ∧
    (∃ t, exec (.msgMail 20 0 (tReq opMsgMail 0)) (live) = .next t) :=
  ⟨let ⟨t, e, _⟩ := h live 20 0 false (tReq opRdLine 0) ((.rdLine 20 0 false (tReq opRdLine 0)), opRdLine, false) (by simp [lineRows]) (by unfold offered clean operandClean soundWords; decide +kernel) (by decide +kernel) (by unfold unpoliced; decide +kernel) (by unfold admitted checksOf; decide +kernel); ⟨_, e⟩,
    let ⟨t, e, _⟩ := h live 20 0 false (tReq opRdSpray 0) ((.rdSpray 20 0 false (tReq opRdSpray 0)), opRdSpray, false) (by simp [lineRows]) (by unfold offered clean operandClean soundWords; decide +kernel) (by decide +kernel) (by unfold unpoliced; decide +kernel) (by unfold admitted checksOf; decide +kernel); ⟨_, e⟩,
    let ⟨t, e, _⟩ := h live 20 0 false (tReq opWrFullP 0) ((.wrFullP 20 0 (tReq opWrFullP 0)), opWrFullP, false) (by simp [lineRows]) (by unfold offered clean operandClean soundWords; decide +kernel) (by decide +kernel) (by unfold unpoliced; decide +kernel) (by unfold admitted checksOf; decide +kernel); ⟨_, e⟩,
    let ⟨t, e, _⟩ := h live 20 0 false (tReq opWrFullNp 3) ((.wrFullNp 20 0 (tReq opWrFullNp 3)), opWrFullNp, false) (by simp [lineRows]) (by unfold offered clean operandClean soundWords; decide +kernel) (by decide +kernel) (by unfold unpoliced; decide +kernel) (by unfold admitted checksOf; decide +kernel); ⟨_, e⟩,
    let ⟨t, e, _⟩ := h live 20 0 false (tReq opWrPartP 1) ((.wrPartP 20 0 (tReq opWrPartP 1)), opWrPartP, false) (by simp [lineRows]) (by unfold offered clean operandClean soundWords; decide +kernel) (by decide +kernel) (by unfold unpoliced; decide +kernel) (by unfold admitted checksOf; decide +kernel); ⟨_, e⟩,
    let ⟨t, e, _⟩ := h live 20 0 false (tReq opWrPartNp 3) ((.wrPartNp 20 0 (tReq opWrPartNp 3)), opWrPartNp, false) (by simp [lineRows]) (by unfold offered clean operandClean soundWords; decide +kernel) (by decide +kernel) (by unfold unpoliced; decide +kernel) (by unfold admitted checksOf; decide +kernel); ⟨_, e⟩,
    let ⟨t, e, _⟩ := h live 20 0 false (tReq opAtAdd 0) ((.atAdd 20 0 (tReq opAtAdd 0)), opAtAdd, false) (by simp [lineRows]) (by unfold offered clean operandClean soundWords; decide +kernel) (by decide +kernel) (by unfold unpoliced; decide +kernel) (by unfold admitted checksOf; decide +kernel); ⟨_, e⟩,
    let ⟨t, e, _⟩ := h live 20 0 false (tReq opAtMin 0) ((.atMin 20 0 (tReq opAtMin 0)), opAtMin, false) (by simp [lineRows]) (by unfold offered clean operandClean soundWords; decide +kernel) (by decide +kernel) (by unfold unpoliced; decide +kernel) (by unfold admitted checksOf; decide +kernel); ⟨_, e⟩,
    let ⟨t, e, _⟩ := h live 20 0 false (tReq opAtMax 0) ((.atMax 20 0 (tReq opAtMax 0)), opAtMax, false) (by simp [lineRows]) (by unfold offered clean operandClean soundWords; decide +kernel) (by decide +kernel) (by unfold unpoliced; decide +kernel) (by unfold admitted checksOf; decide +kernel); ⟨_, e⟩,
    let ⟨t, e, _⟩ := h live 20 0 false (tReq opAtSwap 0) ((.atSwap 20 0 (tReq opAtSwap 0)), opAtSwap, false) (by simp [lineRows]) (by unfold offered clean operandClean soundWords; decide +kernel) (by decide +kernel) (by unfold unpoliced; decide +kernel) (by unfold admitted checksOf; decide +kernel); ⟨_, e⟩,
    let ⟨t, e, _⟩ := h live 20 0 false (tReq opAtCas 0) ((.atCas 20 0 (tReq opAtCas 0)), opAtCas, false) (by simp [lineRows]) (by unfold offered clean operandClean soundWords; decide +kernel) (by decide +kernel) (by unfold unpoliced; decide +kernel) (by unfold admitted checksOf; decide +kernel); ⟨_, e⟩,
    let ⟨t, e, _⟩ := h live 20 0 false (tReq opLkAcq 0) ((.lkAcq 20 0 (tReq opLkAcq 0)), opLkAcq, false) (by simp [lineRows]) (by unfold offered clean operandClean soundWords; decide +kernel) (by decide +kernel) (by unfold unpoliced; decide +kernel) (by unfold admitted checksOf; decide +kernel); ⟨_, e⟩,
    let ⟨t, e, _⟩ := h live 20 0 false (tReq opLkRel 0) ((.lkRel 20 0 (tReq opLkRel 0)), opLkRel, false) (by simp [lineRows]) (by unfold offered clean operandClean soundWords; decide +kernel) (by decide +kernel) (by unfold unpoliced; decide +kernel) (by unfold admitted checksOf; decide +kernel); ⟨_, e⟩,
    let ⟨t, e, _⟩ := h live 20 0 false (tReq opMsgIntr 0) ((.msgIntr 20 0 (tReq opMsgIntr 0)), opMsgIntr, false) (by simp [lineRows]) (by unfold offered clean operandClean soundWords; decide +kernel) (by decide +kernel) (by unfold unpoliced; decide +kernel) (by unfold admitted checksOf; decide +kernel); ⟨_, e⟩,
    let ⟨t, e, _⟩ := h live 20 0 false (tReq opMsgMail 0) ((.msgMail 20 0 (tReq opMsgMail 0)), opMsgMail, false) (by simp [lineRows]) (by unfold offered clean operandClean soundWords; decide +kernel) (by decide +kernel) (by unfold unpoliced; decide +kernel) (by unfold admitted checksOf; decide +kernel); ⟨_, e⟩⟩

/-- An NI with group 3 active, of which it is a member and a target. -/
def tGroup (x : NI) (f : NiGroup → NiGroup) : NI :=
  { x with groups := tupd x.groups 3 (fun q => f { q with state := .active, member := true, target := true }) }
/-- The same of group 0, at logical epoch 255. -/
def tGroup0 (x : NI) : NI :=
  { x with groups := tupd x.groups 0 (fun q => { q with state := .active, member := true, k := 255 }) }
/-- The close of logical epoch 256 of group 0. -/
def tClose : Packet := [tHead opEpochClose 20 188 5 0 0]

theorem witness_fencesAndCloses (h : Obligations.FenceAndCloseAccepted) :
    (∃ t, exec (.fnStoreT 20 0 (tReq opFnStoreT 0)) (live) = .next t) ∧
    (∃ t, exec (.fnStoreG 20 0 (tReq opFnStoreG 0)) (live) = .next t) ∧
    (∃ t, exec (.fnFullT 20 0 (tReq opFnFullT 0)) (live) = .next t) ∧
    (∃ t, exec (.fnFullG 20 0 (tReq opFnFullG 0)) (live) = .next t) ∧
    (∃ t, exec (.epochClose 20 0 tClose) (at_ 20 tGroup0) = .next t) :=
  ⟨let ⟨t, e, _⟩ := h.1 live 20 0 (tReq opFnStoreT 0) ((.fnStoreT 20 0 (tReq opFnStoreT 0)), opFnStoreT) (by simp [fenceRows]) (by unfold offered clean operandClean soundWords; decide +kernel) (by decide +kernel) (by decide +kernel) (by decide +kernel); ⟨_, e⟩,
    let ⟨t, e, _⟩ := h.1 live 20 0 (tReq opFnStoreG 0) ((.fnStoreG 20 0 (tReq opFnStoreG 0)), opFnStoreG) (by simp [fenceRows]) (by unfold offered clean operandClean soundWords; decide +kernel) (by decide +kernel) (by decide +kernel) (by decide +kernel); ⟨_, e⟩,
    let ⟨t, e, _⟩ := h.1 live 20 0 (tReq opFnFullT 0) ((.fnFullT 20 0 (tReq opFnFullT 0)), opFnFullT) (by simp [fenceRows]) (by unfold offered clean operandClean soundWords; decide +kernel) (by decide +kernel) (by decide +kernel) (by decide +kernel); ⟨_, e⟩,
    let ⟨t, e, _⟩ := h.1 live 20 0 (tReq opFnFullG 0) ((.fnFullG 20 0 (tReq opFnFullG 0)), opFnFullG) (by simp [fenceRows]) (by unfold offered clean operandClean soundWords; decide +kernel) (by decide +kernel) (by decide +kernel) (by decide +kernel); ⟨_, e⟩,
    let ⟨t, _, e, _⟩ := h.2 (at_ 20 tGroup0) 20 0 tClose 0 (by unfold offered clean operandClean soundWords; decide +kernel) (by decide +kernel) (by decide +kernel) (by decide +kernel) (by decide +kernel) (by decide +kernel) (by decide +kernel); ⟨_, e⟩⟩

theorem witness_malformed (h : Obligations.MalformedRequestRefused) :
    (∃ t, exec (.malformed 20 0 (tReq 0x3E 0)) (live) = .next t) ∧
    (∃ t, exec (.malformed 20 0 (tReq opWrPartP 0)) (live) = .next t) :=
  ⟨let ⟨t, e, _⟩ := h live 20 0 (tReq 0x3E 0) (by unfold offered clean operandClean soundWords; decide +kernel) (by decide +kernel); ⟨_, e⟩,
    let ⟨t, e, _⟩ := h live 20 0 (tReq opWrPartP 0) (by unfold offered clean operandClean soundWords; decide +kernel) (by decide +kernel); ⟨_, e⟩⟩

theorem witness_waiting (h : Obligations.WaitingRequestAccepted) :
    (∃ t, exec (.requestStep5Resume 20 0) (at_ 20 (fun x => { x with store := [tPend false] })) = .next t) ∧
    (∃ t, exec (.meterHoldRetry 20 0) (at_ 20 (fun x => { x with store := [tPend true] })) = .next t) :=
  ⟨let ⟨t, e, _⟩ := (h (at_ 20 (fun x => { x with store := [tPend false] })) 20 0 (tPend false) ((.rdLine 20 0 false (tReq opRdLine 0)), opRdLine, false) (by simp [lineRows, tPend]) (by decide +kernel) (by decide +kernel) (by decide +kernel) (by decide +kernel) (by decide +kernel) (by decide +kernel) (by decide +kernel) (by decide +kernel) (by unfold soundWords; decide +kernel) (by unfold admitted checksOf; decide +kernel)).1 1 (by decide +kernel); ⟨_, e⟩,
    let ⟨t, e, _⟩ := (h (at_ 20 (fun x => { x with store := [tPend true] })) 20 0 (tPend true) ((.rdLine 20 0 false (tReq opRdLine 0)), opRdLine, false) (by simp [lineRows, tPend]) (by decide +kernel) (by decide +kernel) (by decide +kernel) (by decide +kernel) (by decide +kernel) (by decide +kernel) (by decide +kernel) (by decide +kernel) (by unfold soundWords; decide +kernel) (by unfold admitted checksOf; decide +kernel)).2 (by decide +kernel) (by unfold unpoliced; decide +kernel); ⟨_, e⟩⟩

/-- A packet of two flits of which one has come. -/
def tPart : PendReq := { tPend false with op := opWrFullNp, pkt := [tHead opWrFullNp 20 30 5 1 77], plan := [] }

theorem witness_partialPacket (h : Obligations.PartialPacketEnds) :
    (∃ t, exec (.endpointAbandon 20) (at_ 20 (fun x => { x with partialReq := some tPart, partialTicks := 64 })) = .next t) ∧
    (∃ t, exec (.prematureHead 20 0 false [tHead opWrFullNp 20 30 6 1 77]) (at_ 20 (fun x => { x with partialReq := some tPart, partialTicks := 64 })) = .next t) ∧
    (∃ t, exec (.abandonRemainderDiscard 20 (tBody 1 1)) (at_ 20 (fun x => { x with remainder := 1 })) = .next t) :=
  ⟨let ⟨t, e, _⟩ := (h.1 (at_ 20 (fun x => { x with partialReq := some tPart, partialTicks := 64 })) 20 tPart (by decide +kernel) (by decide +kernel) (by decide +kernel)).1 (by decide +kernel); ⟨_, e⟩,
    let ⟨t, _, e, _⟩ := (h.1 (at_ 20 (fun x => { x with partialReq := some tPart, partialTicks := 64 })) 20 tPart (by decide +kernel) (by decide +kernel) (by decide +kernel)).2 0 false [tHead opWrFullNp 20 30 6 1 77] (by decide +kernel) (by decide +kernel) (by unfold clean; decide +kernel) (by decide +kernel) (by decide +kernel) (by decide +kernel); ⟨_, e⟩,
    ⟨_, h.2 (at_ 20 (fun x => { x with remainder := 1 })) 20 (tBody 1 1) (by decide +kernel) (by decide +kernel) (by decide +kernel) (by decide +kernel)⟩⟩

/-- A read of one line, accepted and not yet injected. -/
def tPiece : Piece :=
  { pid := 0, req := 0, pkt := tReq opRdLine 0, base := 0, nlines := 1, codes := [.ok], posted := false, split := false
    doorbells := [], canon := [], parity := [], own := false }
/-- Its request. -/
def tEnt : ReqEnt :=
  { num := 0, op := opRdLine, head := tHead opRdLine 20 30 5 0 77, tag := 5, frees := true, lines := [none], whole := .ok
    aux := 0, done := 0, slot := false, data := true, discard := false }
def tInj : State := at_ 20 (fun x => { x with inj := [tPiece], reqs := [tEnt], nextPid := 1, nextReq := 1 })

/-- A write of two lines, accepted and not yet injected. -/
def tPiece2 : Piece := { tPiece with pkt := tReq opWrFullNp 1, nlines := 2, codes := [.ok, .ok] }
def tInj2 : State := at_ 20 (fun x => { x with inj := [tPiece2], reqs := [tEnt], nextPid := 1, nextReq := 1 })

theorem witness_pieceInjected (h : Obligations.PieceInjected) :
    (∃ t, exec (.pieceInject 20 0) (tInj) = .next t) ∧
    (∃ t, exec (.pieceInject 20 0) (tInj2) = .next t) :=
  ⟨let ⟨t, e, _⟩ := h tInj 20 0 { q := .req, stamp := 0, pkt := tReq opRdLine 0, cls := .a, body := none } false tPiece 5 (by decide +kernel) (by unfold storeIdle; decide +kernel) (by decide +kernel) rfl rfl (by decide +kernel) (by decide +kernel); ⟨_, e⟩,
    let ⟨t, e, _⟩ := h tInj2 20 0 { q := .req, stamp := 0, pkt := tReq opWrFullNp 1, cls := .a, body := none } false tPiece2 5 (by decide +kernel) (by unfold storeIdle; decide +kernel) (by decide +kernel) rfl rfl (by decide +kernel) (by decide +kernel); ⟨_, e⟩⟩

/-! ### The target side -/

/-- A request packet from slot 20 for slot 30, at its ejection latch. -/
def tEj (vc : VcId) : State := at_ 30 (fun x => { x with ej := tupd x.ej vc (fun _ => setVc vc.val <$> tReq opRdLine 0) })
/-- A queued request packet. -/
def tIn (op : BitVec 6) (stamp : Nat) (early : Bool) : InPkt :=
  { pkt := tReq op 0, cream := false, early := early, epoch := 4000, codes := [.ok], bad := [false], stamp := stamp, arrived := 7 }

theorem witness_inboundQueue (h : Obligations.InboundQueueWorks) :
    (∃ t, exec (.inboundRequest 30 0) (tEj 0) = .next t) ∧
    (∃ t, exec (.inboundRequest 30 1) (tEj 1) = .next t) ∧
    (∃ t, exec (.inboundRequest 30 4) (tEj 4) = .next t) ∧
    (∃ t, exec (.inboundDiscard 30) (at_ 30 (fun x => { x with idle := 16, ej := tupd x.ej 4 (fun _ => tReq opRdLine 0), inq := List.replicate 16 { tIn opRdLine 7 false with cream := true } })) = .next t) ∧
    (∃ t, exec (.inboundDiscardEnd 30) (live) = .next t) ∧
    (∃ t, exec (.ordGap 30 20) (at_ 30 (fun x => { x with inq := [tIn opRdLine 7 true] })) = .next t) :=
  ⟨let ⟨t, _, e, _⟩ := h.1 (tEj 0) 30 0 (setVc 0 <$> tReq opRdLine 0) (by decide +kernel) (by decide +kernel) (by decide +kernel) (by decide +kernel) (by decide +kernel) (by decide +kernel) (by decide +kernel); ⟨_, e⟩,
    let ⟨t, _, e, _⟩ := h.1 (tEj 1) 30 1 (setVc 1 <$> tReq opRdLine 0) (by decide +kernel) (by decide +kernel) (by decide +kernel) (by decide +kernel) (by decide +kernel) (by decide +kernel) (by decide +kernel); ⟨_, e⟩,
    let ⟨t, _, e, _⟩ := h.1 (tEj 4) 30 4 (setVc 4 <$> tReq opRdLine 0) (by decide +kernel) (by decide +kernel) (by decide +kernel) (by decide +kernel) (by decide +kernel) (by decide +kernel) (by decide +kernel); ⟨_, e⟩,
    let ⟨t, e, _⟩ := (h.2 (at_ 30 (fun x => { x with idle := 16, ej := tupd x.ej 4 (fun _ => tReq opRdLine 0), inq := List.replicate 16 { tIn opRdLine 7 false with cream := true } })) 30 (by decide +kernel)).1 (by decide +kernel) (by decide +kernel) (by decide +kernel); ⟨_, e⟩,
    ⟨_, (h.2 live 30 (by decide +kernel)).2.1⟩,
    let ⟨t, e, _⟩ := (h.2 (at_ 30 (fun x => { x with inq := [tIn opRdLine 7 true] })) 30 (by decide +kernel)).2.2 20 0 (tIn opRdLine 7 true) (tIn opRdLine 7 true) (by decide +kernel) (by decide +kernel) (by decide +kernel) (by decide +kernel) (by decide +kernel) (by decide +kernel); ⟨_, e⟩⟩

theorem witness_inboundOffer (h : Obligations.InboundPacketOffered) :
    (∃ t, exec (.inboundOffer 30) (at_ 30 (fun x => { x with inq := [tIn opRdLine 7 false] })) = .next t) :=
  let ⟨t, _, _, e, _⟩ := h (at_ 30 (fun x => { x with inq := [tIn opRdLine 7 false] })) 30 (tIn opRdLine 7 false) (by decide +kernel) (by decide +kernel) (by decide +kernel) (by decide +kernel) (by decide +kernel) (by decide +kernel) (by decide +kernel) (by decide +kernel); ⟨_, e⟩

/-- An atomic in progress, and the endpoint work that it waits for. -/
def tAtom (k : OfferKind) : NI → NI := fun x =>
  { x with
    atoms := [{ num := 0, pkt := tReq opAtAdd 0, phase := 0, old := goodLine 0, fresh := 0, stagedIdx := none }]
    taken := [{ kind := k, pkt := tReq opAtAdd 0, tag := 0, results := [], first := 0, count := 1, rest := []
                whole := .ok, after := [] }] }
def tWork (k : OfferKind) : Taken :=
  { kind := k, pkt := tReq opAtAdd 0, tag := 0, results := [], first := 0, count := 1, rest := [], whole := .ok, after := [] }
def tAtomE : AtomEnt :=
  { num := 0, pkt := tReq opAtAdd 0, phase := 0, old := goodLine 0, fresh := 0, stagedIdx := none }

theorem witness_atomics (h : Obligations.AtomicsPerformed) :
    (∃ t, exec (.atomicExecute 30) (at_ 30 (fun x => { x with inq := [tIn opAtAdd 7 false] })) = .next t) ∧
    (∃ t, exec (.atomicReadReturn 30 0 (goodLine 0) .ok) (at_ 30 (tAtom (.atomicRead 0))) = .next t) ∧
    (∃ t, exec (.atomicWritebackAck 30 0 .ok) (at_ 30 (tAtom (.atomicWrite 0))) = .next t) :=
  ⟨let ⟨t, _, e, _⟩ := (h.1 (at_ 30 (fun x => { x with inq := [tIn opAtAdd 7 false] })) 30 (by decide +kernel) (by decide +kernel)).1 (tIn opAtAdd 7 false) (by decide +kernel) (by decide +kernel) (by decide +kernel) (by decide +kernel) (by decide +kernel); ⟨_, e⟩,
    let ⟨t, e, _⟩ := (h.1 (at_ 30 (tAtom (.atomicRead 0))) 30 (by decide +kernel) (by decide +kernel)).2.1 (tWork (.atomicRead 0)) [] tAtomE (goodLine 0) 0 0 (by decide +kernel) (by decide +kernel) (by decide +kernel) (by decide +kernel) (by decide +kernel) (by decide +kernel) (by decide +kernel) (by decide +kernel) (by decide +kernel) (by decide +kernel); ⟨_, e⟩,
    let ⟨t, e, _⟩ := (h.1 (at_ 30 (tAtom (.atomicWrite 0))) 30 (by decide +kernel) (by decide +kernel)).2.2 (tWork (.atomicWrite 0)) [] tAtomE (by decide +kernel) (by decide +kernel) (by decide +kernel) (by decide +kernel) (by decide +kernel) (by decide +kernel) (by decide +kernel); ⟨_, e⟩⟩

/-- A lock that slot 20 holds, and its release in the queue. -/
def tLock : LockEnt := { line := 77, word := 0, owner := some 20, gen := 0, epoch := 5120 }
def tLocked : State := at_ 30 (fun x => { x with inq := [tIn opLkRel 7 false], locks := [tLock] })

theorem witness_locks (h : Obligations.LocksHeldAndBroken) :
    (∃ t, exec (.lockTableAcquire 30) (at_ 30 (fun x => { x with inq := [tIn opLkAcq 7 false] })) = .next t) ∧
    (∃ t, exec (.lockTableRelease 30) (tLocked) = .next t) ∧
    (∃ t, exec (.lockLease 30) (cfgPut tLocked false itLockLease 30 0 0 1) = .next t) ∧
    (∃ t, exec (.ownerGenerationChange 30 20) ({ tLocked with herd := { tLocked.herd with gens := tupd tLocked.herd.gens 20 (fun _ => 1) } }) = .next t) ∧
    (∃ t, exec (.lockReopenWindowEnd 30) (at_ 30 (fun x => { x with lockReopen := some 5001 })) = .next t) :=
  ⟨let ⟨t, _, e, _⟩ := (h.1 (at_ 30 (fun x => { x with inq := [tIn opLkAcq 7 false] })) 30 (tIn opLkAcq 7 false) (by decide +kernel) (by decide +kernel) (by decide +kernel)).1 (by decide +kernel) (by decide +kernel) (by decide +kernel) (by decide +kernel); ⟨_, e⟩,
    let ⟨t, e, _⟩ := (h.1 tLocked 30 (tIn opLkRel 7 false) (by decide +kernel) (by decide +kernel) (by decide +kernel)).2 tLock 20 (by decide +kernel) (by decide +kernel) (by decide +kernel) (by decide +kernel); ⟨_, e⟩,
    let ⟨t, e, _⟩ := (h.2 (cfgPut tLocked false itLockLease 30 0 0 1) 30 (by decide +kernel)).1 (by decide +kernel); ⟨_, e⟩,
    let ⟨t, e, _⟩ := (h.2 ({ tLocked with herd := { tLocked.herd with gens := tupd tLocked.herd.gens 20 (fun _ => 1) } }) 30 (by decide +kernel)).2.1 20 (by decide +kernel) (by decide +kernel); ⟨_, e⟩,
    ⟨_, (h.2 (at_ 30 (fun x => { x with lockReopen := some 5001 })) 30 (by decide +kernel)).2.2 5001 (by decide +kernel) (by decide +kernel)⟩⟩

/-- The answer of slot 30 to a read that it was offered under tag 9. -/
def tAnswer : Packet := [tHead opRdData 30 20 9 0 0]
def tAsked : Taken := { tWork .request with pkt := tReq opRdLine 0, tag := 9 }

theorem witness_endpointAnswer (h : Obligations.EndpointAnswerForwarded) :
    (∃ t, exec (.endpointAnswer 30 tAnswer) (at_ 30 (fun x => { x with taken := [tAsked] })) = .next t) :=
  let ⟨t, e, _⟩ := h (at_ 30 (fun x => { x with taken := [tAsked] })) 30 tAnswer tAsked [] (by decide +kernel) (by decide +kernel) (by unfold clean; decide +kernel) (by decide +kernel) (by decide +kernel) (by decide +kernel) (by decide +kernel) (by decide +kernel) (by decide +kernel) (by decide +kernel); ⟨_, e⟩

theorem witness_endpointPort (h : Obligations.EndpointPort) :
    (∃ t, exec (.epResetAssert 30) (live) = .next t) ∧
    (∃ t, exec (.epResetRelease 30) (at_ 30 (fun x => { x with reset := true, resetPin := true })) = .next t) ∧
    (∃ t, exec (.requestReadyRise 30) (at_ 30 (fun x => { x with readyHold := true })) = .next t) ∧
    (∃ t, exec (.epReadyChange 30 false) (live) = .next t) ∧
    (∃ t, exec (.epExc 30) (live) = .next t) :=
  ⟨let ⟨t, e, _⟩ := (h live 30 (by decide +kernel) (by decide +kernel)).1 (by decide +kernel) (by decide +kernel); ⟨_, e⟩,
    ⟨_, (h (at_ 30 (fun x => { x with reset := true, resetPin := true })) 30 (by decide +kernel) (by decide +kernel)).2.1 (by decide +kernel) (by decide +kernel) (by decide +kernel) (by decide +kernel) (by decide +kernel)⟩,
    ⟨_, (h (at_ 30 (fun x => { x with readyHold := true })) 30 (by decide +kernel) (by decide +kernel)).2.2.1 (by decide +kernel) (by decide +kernel) (by decide +kernel) (by decide +kernel) (by decide +kernel)⟩,
    let ⟨t, e, _⟩ := (h live 30 (by decide +kernel) (by decide +kernel)).2.2.2.1 false (by decide +kernel); ⟨_, e⟩,
    ⟨_, (h live 30 (by decide +kernel) (by decide +kernel)).2.2.2.2⟩⟩

/-! ### The master side -/

/-- The network tag of `tEnt`'s only piece. -/
def tTag : TagEnt :=
  { tag := 5, pid := 0, req := 0, quarantined := false, orphan := false, injected := true, epoch := 4000
    head := tHead opRdLine 20 30 5 0 77, base := 0, nlines := 1, codes := [.ok], posted := false, split := false, lines := 1
    canon := [], staged := false, own := false }
/-- The response of slot 30 to it. -/
def tRsp : Packet := [tHead opRdData 30 20 5 0 0]
def tWaits (vc : VcId) : State :=
  at_ 20 (fun x => { x with
    reqs := [tEnt], tags := [tTag], order := tabAll 3 [0], nextReq := 1, nextPid := 1, ej := tupd x.ej vc (fun _ => tRsp) })
def tDone : ReqEnt := { tEnt with lines := [some { line := goodLine 0, code := .ok, whole := .ok, src := 30 }] }
def tTwo : ReqEnt := { tDone with
  lines := List.replicate 5 (some { line := goodLine 0, code := .ok, whole := .ok, src := 30 }) }

theorem witness_responses (h : Obligations.ResponsesTakenAndDelivered) :
    (∃ t, exec (.responseArrival 20 2) (tWaits 2) = .next t) ∧
    (∃ t, exec (.responseArrival 20 3) (tWaits 3) = .next t) ∧
    (∃ t, exec (.responseArrival 20 5) (tWaits 5) = .next t) ∧
    (∃ t, exec (.responseDelivery 20) (at_ 20 (fun x => { x with reqs := [tDone], order := tabAll 3 [0] })) = .next t) ∧
    (∃ t, exec (.responseDelivery 20) (at_ 20 (fun x => { x with reqs := [tTwo], order := tabAll 3 [0] })) = .next t) :=
  ⟨let ⟨t, e, _⟩ := h.1 (tWaits 2) 20 2 tRsp tTag (by decide +kernel) (by decide +kernel) (by decide +kernel) (by unfold storeIdle; decide +kernel) (by decide +kernel) (by decide +kernel) (by decide +kernel) (by decide +kernel) (by decide +kernel) (by decide +kernel) (by decide +kernel) (by decide +kernel); ⟨_, e⟩,
    let ⟨t, e, _⟩ := h.1 (tWaits 3) 20 3 tRsp tTag (by decide +kernel) (by decide +kernel) (by decide +kernel) (by unfold storeIdle; decide +kernel) (by decide +kernel) (by decide +kernel) (by decide +kernel) (by decide +kernel) (by decide +kernel) (by decide +kernel) (by decide +kernel) (by decide +kernel); ⟨_, e⟩,
    let ⟨t, e, _⟩ := h.1 (tWaits 5) 20 5 tRsp tTag (by decide +kernel) (by decide +kernel) (by decide +kernel) (by unfold storeIdle; decide +kernel) (by decide +kernel) (by decide +kernel) (by decide +kernel) (by decide +kernel) (by decide +kernel) (by decide +kernel) (by decide +kernel) (by decide +kernel); ⟨_, e⟩,
    let ⟨t, e, _⟩ := h.2 (at_ 20 (fun x => { x with reqs := [tDone], order := tabAll 3 [0] })) 20 tDone (by decide +kernel) (by decide +kernel) (by decide +kernel) (by decide +kernel) (by unfold storeIdle; decide +kernel) (by decide +kernel); ⟨_, e⟩,
    let ⟨t, e, _⟩ := h.2 (at_ 20 (fun x => { x with reqs := [tTwo], order := tabAll 3 [0] })) 20 tTwo (by decide +kernel) (by decide +kernel) (by decide +kernel) (by decide +kernel) (by unfold storeIdle; decide +kernel) (by decide +kernel); ⟨_, e⟩⟩

/-- A fence of store packets to slot 30 that waits for nothing, after three stores were lost there. -/
def tFence : Fence := { req := 0, op := opFnStoreT, dest := 30, wait := [] }
def tFenced : State := at_ 20 (fun x => { x with
  fences := [tFence], reqs := [tEnt], lostStores := tupd x.lostStores 30 (fun _ => 3) })
def tQuar : TagEnt := { tTag with quarantined := true }

theorem witness_fencesAndTags (h : Obligations.FencesAndTagsEnd) :
    (∃ t, exec (.fenceComplete 20) (tFenced) = .next t) ∧
    (∃ t, exec (.tagLost 20 5) (tWaits 2) = .next t) ∧
    (∃ t, exec (.quarantineEnd 20 5) (at_ 20 (fun x => { x with tags := [tQuar] })) = .next t) :=
  ⟨let ⟨t, e, _⟩ := h.1 tFenced 20 tFence (by decide +kernel) (by decide +kernel) (by unfold storeIdle; decide +kernel) (by decide +kernel); ⟨_, e⟩,
    let ⟨t, e, _⟩ := (h.2 (tWaits 2) 20 5 tTag (by decide +kernel) (by decide +kernel) (by decide +kernel) (by unfold storeIdle; decide +kernel) (by decide +kernel)).1 (by decide +kernel) (by decide +kernel) (by decide +kernel) (by decide +kernel); ⟨_, e⟩,
    let ⟨t, e, _⟩ := (h.2 (at_ 20 (fun x => { x with tags := [tQuar] })) 20 5 tQuar (by decide +kernel) (by decide +kernel) (by decide +kernel) (by unfold storeIdle; decide +kernel) (by decide +kernel)).2 (by decide +kernel) (by decide +kernel); ⟨_, e⟩⟩

/-! ### Curd mode -/

/-- `live` with NI 20 a member and target of group 3. -/
def tG (f : NiGroup → NiGroup) : State := at_ 20 (tGroup · f)
def tWait : CloseWait := { req := 0, lep := 1, wait := [], inexact := true }
/-- Group 0 active at the coordinator, with slot 20 its member, whose close is the last logical epoch before 0. -/
def tCo (st : GroupState) : State :=
  { live with herd := { live.herd with groups := tupd live.herd.groups 0 (fun c =>
      { c with state := st, members := 1#192 <<< 20, targets := 1#192 <<< 30, ks := tupd c.ks 20 (fun _ => 2 ^ 48 - 1)
               lastCommit := some (7, 9, false) }) } }
/-- The close of logical epoch 0 of group 0 by slot 20 stands at slot 188. -/
def tCloseIn : Packet := [tHead opEpochClose 20 188 0 0 0]
def tCloseAt : State := updN (tCo .active) 188 (fun x => { x with ej := tupd x.ej 6 (fun _ => tCloseIn) })
/-- The commit of logical epoch 0 of group 0 for release at epoch 0 stands at slot 20. -/
def tCommit : Packet := [tHead opCmCommit 188 20 0 0 0]
def tCommitAt : State := at_ 20 (fun x => { x with
  ej := tupd x.ej 6 (fun _ => tCommit)
  groups := tupd x.groups 0 (fun q => { q with
    state := .active, member := true, target := true, cm := 2 ^ 48 - 1, ct := 2 ^ 48 - 1, through := 2 ^ 48 - 1 }) })

theorem witness_epochClose (h : Obligations.EpochCloseSent) :
    (∃ t, exec (.epochCloseInject 20 3) (tG (fun q => { q with close := some tWait })) = .next t) ∧
    (∃ t, exec (.closeRepeat 20) (at_ 20 (fun x => { tGroup x (fun q => { q with k := 5 }) with repeatDue := true })) = .next t) ∧
    (∃ t, exec (.epochCloseArrival) (tCloseAt) = .next t) :=
  ⟨let ⟨t, e, _⟩ := (h (tG (fun q => { q with close := some tWait })) 20 3 tWait (by decide +kernel) (by decide +kernel) (by decide +kernel)).1 (by unfold storeIdle; decide +kernel) (by decide +kernel) (by decide +kernel) (by decide +kernel); ⟨_, e⟩,
    let ⟨t, e, _⟩ := (h (at_ 20 (fun x => { tGroup x (fun q => { q with k := 5 }) with repeatDue := true })) 20 3 tWait (by decide +kernel) (by decide +kernel) (by decide +kernel)).2.1 (by decide +kernel) (by decide +kernel) (by decide +kernel) (by decide +kernel) (by decide +kernel); ⟨_, e⟩,
    let ⟨t, e, _⟩ := (h tCloseAt 20 0 tWait (by decide +kernel) (by decide +kernel) (by decide +kernel)).2.2 tCloseIn (by decide +kernel) (by decide +kernel) (by decide +kernel) (by decide +kernel) (by decide +kernel) (by decide +kernel) (by decide +kernel) (by decide +kernel) (by decide +kernel) (by decide +kernel); ⟨_, e⟩⟩

theorem witness_memberCommits (h : Obligations.MemberCommits) :
    (∃ t, exec (.curdMemberCommit 20 3) (tG (fun q => { q with cmNext := [(1, 5120)] })) = .next t) ∧
    (∃ t, exec (.curdMemberCommit 20 3) (tG (fun q => { q with cmNext := [(1, 5120)] })) = .next t) ∧
    (∃ t, exec (.curdMemberCommit 20 3) (tG id) = .next t) :=
  ⟨let ⟨t, e, _⟩ := (h (tG (fun q => { q with cmNext := [(1, 5120)] })) 20 3 (by decide +kernel) (by decide +kernel)).1 (1, 5120) (by decide +kernel) (by decide +kernel); ⟨_, e⟩,
    let ⟨t, e, _⟩ := (h (tG (fun q => { q with cmNext := [(1, 5120)] })) 20 3 (by decide +kernel) (by decide +kernel)).2.1 1 5120 (by unfold storeIdle; decide +kernel) (by decide +kernel) (by decide +kernel) (by decide +kernel); ⟨_, e⟩,
    ⟨_, (h (tG id) 20 3 (by decide +kernel) (by decide +kernel)).2.2 (by decide +kernel)⟩⟩

theorem witness_commits (h : Obligations.CommitsTravel) :
    (∃ t, exec (.cmCommit 20) (tCommitAt) = .next t) ∧
    (∃ t, exec (.commitRepeat) (tCo .active) = .next t) :=
  ⟨let ⟨t, e, _⟩ := h.1 tCommitAt 20 0 tCommit 0 0 (by decide +kernel) (by decide +kernel) (by decide +kernel) (by decide +kernel) (by decide +kernel) (by decide +kernel) (by decide +kernel) (by decide +kernel) (by decide +kernel) (by decide +kernel) (by decide +kernel) (by decide +kernel) (by decide +kernel) (by decide +kernel); ⟨_, e⟩,
    let ⟨t, e, _⟩ := h.2 (tCo .active) 0 7 9 false (by decide +kernel) (by decide +kernel) (by decide +kernel) (by decide +kernel) (by decide +kernel) (by decide +kernel) (by decide +kernel); ⟨_, e⟩⟩

/-- A staged full write of logical epoch 2 of group 3 at NI 20, whose release has begun. -/
def tStaged : StageEnt :=
  { group := 3, lep := 2, src := 30, idx := 0, op := opWrFullNp, line := 77, mask := BitVec.allOnes 64, data := goodLine 0
    head := tHead opWrFullNp 30 20 5 0 77, sent := false, ue := false, ueMeta := false }

theorem witness_releases (h : Obligations.ReleaseRuns) :
    (∃ t, exec (.curdRelease 20 3) (tG (fun q => { q with relNext := [(2, 5120)] })) = .next t) ∧
    (∃ t, exec (.curdEpochReleased 20 3) (tG (fun q => { q with releasing := some 2, through := 2 })) = .next t) ∧
    (∃ t, exec (.curdReleaseResume 20) (at_ 20 (fun x => { tGroup x (fun q => { q with releasing := some 2, through := 2 }) with stage := [tStaged] })) = .next t) :=
  ⟨let ⟨t, e, _⟩ := (h.1 (tG (fun q => { q with relNext := [(2, 5120)] })) 20 3 2 (by decide +kernel) (by decide +kernel)).1 5120 (by decide +kernel) (by decide +kernel) (by decide +kernel) (by decide +kernel) (by decide +kernel) (by decide +kernel) (by decide +kernel) (by decide +kernel) (by decide +kernel); ⟨_, e⟩,
    let ⟨t, e, _⟩ := (h.1 (tG (fun q => { q with releasing := some 2, through := 2 })) 20 3 2 (by decide +kernel) (by decide +kernel)).2 (by decide +kernel) (by decide +kernel) (by decide +kernel) (by decide +kernel) (by decide +kernel) (by decide +kernel); ⟨_, e⟩,
    let ⟨t, _, e, _⟩ := h.2 (at_ 20 (fun x => { tGroup x (fun q => { q with releasing := some 2, through := 2 }) with stage := [tStaged] })) 20 3 2 tStaged (by decide +kernel) (by decide +kernel) (by decide +kernel) (by decide +kernel) (by decide +kernel) (by decide +kernel) (by decide +kernel) (by decide +kernel) (by decide +kernel) (by decide +kernel) (by decide +kernel) (by decide +kernel) (by decide +kernel) (by decide +kernel) (by decide +kernel); ⟨_, e⟩⟩

theorem witness_groupLeaves (h : Obligations.GroupLeavesActive) :
    (∃ t, exec (.groupStateChange 20 3) (tG id) = .next t) ∧
    (∃ t, exec (.groupStateChange 20 3) ({ tG id with herd := { live.herd with groups := tupd live.herd.groups 3 (fun c => { c with state := .active }) } }) = .next t) ∧
    (∃ t, exec (.groupStateChange 20 3) ({ tG id with herd := { live.herd with groups := tupd live.herd.groups 3 (fun c => { c with state := .failed, members := 1#192 <<< 20 }) } }) = .next t) :=
  ⟨let ⟨t, e, _⟩ := (h (tG id) 20 3 (by decide +kernel) (by decide +kernel) (by unfold storeIdle; decide +kernel) (by decide +kernel) (by decide +kernel)).1 (.inl (by decide +kernel)); ⟨_, e⟩,
    let ⟨t, e, _⟩ := (h ({ tG id with herd := { live.herd with groups := tupd live.herd.groups 3 (fun c => { c with state := .active }) } }) 20 3 (by decide +kernel) (by decide +kernel) (by unfold storeIdle; decide +kernel) (by decide +kernel) (by decide +kernel)).1 (.inr (by decide +kernel)); ⟨_, e⟩,
    let ⟨t, e, _⟩ := (h ({ tG id with herd := { live.herd with groups := tupd live.herd.groups 3 (fun c => { c with state := .failed, members := 1#192 <<< 20 }) } }) 20 3 (by decide +kernel) (by decide +kernel) (by unfold storeIdle; decide +kernel) (by decide +kernel) (by decide +kernel)).2 (by decide +kernel) (by decide +kernel); ⟨_, e⟩⟩

/-- A packet of VC 7 at NI 20, whose endpoint is ready or not. -/
def tVat (ready : Bool) (pkt : Packet) : State := at_ 20 (fun x => { x with ready := ready, ej := tupd x.ej 7 (fun _ => pkt) })
/-- A drained record of group 3, logical epoch 0: the metadata line is valid. -/
def tRecord : Packet :=
  [{ tHead opVatData 180 20 449 1 0 with dat := 2 ^ 63, chk := (secded (2 ^ 63)).setWidth 64 },
   withCtl zeroFlit (bodyCtl (tHead opVatData 180 20 449 1 0).ctl 1 1 false)]
def tDrainTag : TagEnt :=
  { tTag with tag := 449, req := 3, head := tHead opVatDrain 20 180 449 0 0, base := 0 }
def tDraining : State := at_ 20 (fun x => { tGroup x (fun q => { q with
    pass := some { pos := 0, stop := 4, left := 0, took := [], least := none }, releasing := some 0, ct := 2 ^ 48 - 1 }) with
  ready := false, tags := [tDrainTag], ej := tupd x.ej 7 (fun _ => tRecord) })
/-- Its words carry their check bytes, so it is taken as it is. -/
theorem tRecord_checked (s : State) (n : Slot) : (checkIn s n tRecord).2 = tRecord := by
  have op : fOp (hd tRecord) = opVatData := by decide +kernel
  have par : parityPoison (fLen (hd tRecord)) 0 tRecord [] = (tRecord, []) := parityPoison_clean (by decide +kernel)
  unfold checkIn
  rw [par]
  refine checkOut_clean (fun i w wide => by rw [op]; simp [usedWord]) (fun f hf w hw => ?_)
  have tail : ∀ w : Fin 8, chkByte (tRecord.getD 1 zeroFlit) w.val = secded (word (tRecord.getD 1 zeroFlit) w.val) := by
    decide +kernel
  simp only [tRecord, List.mem_cons, List.not_mem_nil, or_false] at hf
  rcases hf with rfl | rfl
  · have words : ∀ v : Fin 8, (2 ^ 63 : BitVec 512).extractLsb' (64 * v.val) 64 = if v = 0 then 2 ^ 63 else (0 : Word) := by
      decide +kernel
    simp only [word, words ⟨w, hw⟩]
    apply BitVec.eq_of_getLsbD_eq
    intro j hj
    by_cases z : w = 0
    · subst z; simp [chkByte, hj]; omega
    · simp [chkByte, hj, z, Fin.ext_iff, secded]; intro _; exact BitVec.getLsbD_of_ge _ _ (by omega)
  · exact tail ⟨w, hw⟩

/-- The same record under a tag that was declared lost, and under none. -/
def tDrainLost : State := updN tDraining 20 (fun x => { x with tags := [{ tDrainTag with quarantined := true }] })
def tDrainNone : State := updN tDraining 20 (fun x => { x with tags := [] })

theorem witness_vat (h : Obligations.VatPackets) :
    (∃ t, exec (.vatSpill 20) (tVat false [tHead opVatSpill 30 180 3 1 77, tBody 1 1]) = .next t) ∧
    (∃ t, exec (.vatSpill 20) (tVat true [tHead opVatSpill 30 180 3 1 77, tBody 1 1]) = .next t) ∧
    (∃ t, exec (.vatDrain 20) (tVat false [tHead opVatDrain 30 180 3 0 77]) = .next t) ∧
    (∃ t, exec (.vatDrain 20) (tVat true [tHead opVatDrain 30 180 3 0 77]) = .next t) ∧
    (∃ t, exec (.vatData 20) (tDrainNone) = .next t) ∧
    (∃ t, exec (.vatData 20) (tDrainLost) = .next t) ∧
    (∃ t, exec (.vatData 20) (tDraining) = .next t) :=
  ⟨let ⟨t, e, _⟩ := ((h (tVat false [tHead opVatSpill 30 180 3 1 77, tBody 1 1]) 20 [tHead opVatSpill 30 180 3 1 77, tBody 1 1] _ (by decide +kernel) (by decide +kernel) rfl).1 (by decide +kernel)).1 (by decide +kernel); ⟨_, e⟩,
    let ⟨t, e, _⟩ := ((h (tVat true [tHead opVatSpill 30 180 3 1 77, tBody 1 1]) 20 [tHead opVatSpill 30 180 3 1 77, tBody 1 1] _ (by decide +kernel) (by decide +kernel) rfl).1 (by decide +kernel)).2 (by decide +kernel); ⟨_, e⟩,
    let ⟨t, e, _⟩ := ((h (tVat false [tHead opVatDrain 30 180 3 0 77]) 20 [tHead opVatDrain 30 180 3 0 77] _ (by decide +kernel) (by decide +kernel) rfl).2.1 (by decide +kernel)).1 (by decide +kernel); ⟨_, e⟩,
    let ⟨t, e, _⟩ := ((h (tVat true [tHead opVatDrain 30 180 3 0 77]) 20 [tHead opVatDrain 30 180 3 0 77] _ (by decide +kernel) (by decide +kernel) rfl).2.1 (by decide +kernel)).2 (by decide +kernel); ⟨_, e⟩,
    let ⟨t, e, _⟩ := ((h tDrainNone 20 tRecord tRecord (by decide +kernel) rfl (tRecord_checked _ _).symm).2.2 (by decide +kernel)).1 rfl; ⟨_, e⟩,
    let ⟨t, e, _⟩ := (((h tDrainLost 20 tRecord tRecord (by decide +kernel) rfl (tRecord_checked _ _).symm).2.2 (by decide +kernel)).2 { tDrainTag with quarantined := true } (by decide +kernel)).1 rfl; ⟨_, e⟩,
    let ⟨t, e, _⟩ := (((h tDraining 20 tRecord tRecord (by decide +kernel) rfl (tRecord_checked _ _).symm).2.2 (by decide +kernel)).2 tDrainTag (by decide +kernel)).2 3 { pos := 0, stop := 4, left := 0, took := [], least := none } 0 (by decide +kernel) (by decide +kernel) (by decide +kernel) (by decide +kernel) (by decide +kernel) (by decide +kernel) (by decide +kernel) (by decide +kernel) (by decide +kernel) (by decide +kernel) (by decide +kernel); ⟨_, e⟩⟩

/-! ### Ticks and routers -/

/-- A tick is on its way to cluster 8. -/
def tTickDue : State := { live with herd := { live.herd with epoch := 5121, tickDue := 1#24 <<< 8 } }

theorem witness_ticks (h : Obligations.TicksAdvanceEpochs) :
    (∃ t, exec (.herdsmanTick) (live) = .next t) ∧
    (∃ t, exec (.clusterTick 8) (tTickDue) = .next t) :=
  ⟨let ⟨t, e, _⟩ := (h live).1 (by decide +kernel) (by decide +kernel); ⟨_, e⟩,
    let ⟨t, e, _⟩ := (h tTickDue).2 8 (by decide +kernel) (by decide +kernel) (by decide +kernel) (by decide +kernel); ⟨_, e⟩⟩

theorem witness_tickCorrection (h : Obligations.TickCorrection) : tickTo 5121 1 = 5121 ∧ tickTo 5121 9 % 16 = 9 ∧ tickTo 8 0 ≤ 16 :=
  ⟨(h 5121 1).2.2 rfl, (h 5121 9).1, ((h 8 0).2.1 (by decide)).1⟩
/-- Router (7, 2)'s input from slot 20, with a read for slot 30 on its wire. -/
def tWire (bad : BitVec 8) : WireFlit :=
  { la := mkLa 1 0 0 false .mesh, flit := { tHead opRdLine 20 30 5 0 77 with par := (tHead opRdLine 20 30 5 0 77).par ^^^ bad }
    bvc := 0, pool := none }
def tArrives (bad : BitVec 8) : State :=
  updR live (routerOf 20) (fun x => { x with ins := tupd x.ins 9 (fun i => { i with wire := [tWire bad] }) })
/-- The same read in the input buffer. -/
def tBuf : BufFlit :=
  { flit := tHead opRdLine 20 30 5 0 77, phase := .mesh, la := none, since := 5242880, esc := false, escOnly := false, pool := none }
def tHeld : State :=
  updR live (routerOf 20) (fun x => { x with ins := tupd x.ins 9 (fun i => { i with buf := tupd i.buf 0 (fun _ => [tBuf]) }) })
def tWin : Req :=
  { inPort := 9, bvc := 0, b := tBuf, want := { port := 1, vc := 0, phase := .mesh, half := 0 }, head := true, choice := 0
    n := 1, cls := .a, pool := false, free := true, room := true, throttled := false, gate := true, capped := false
    eligible := true }

theorem witness_headFlit (h : Obligations.HeadFlitTaken) :
    (∃ t, exec (.headFlitArrival (routerOf 20) 9 3 { par := 0, ctl := 0, chk := 0, dat := 0 } 0) (tArrives 0) = .next t) ∧
    (∃ t, exec (.headFlitArrival (routerOf 20) 9 3 { par := 0, ctl := 0, chk := 0, dat := 0 } 0) (tArrives 2) = .next t) :=
  ⟨let ⟨t, _, e, _⟩ := h.1 (tArrives 0) (routerOf 20) 9 3 (tWire 0) [] 0 (by decide +kernel) (by decide +kernel) (by decide +kernel) (by decide +kernel) (by decide +kernel) (by decide +kernel) (by decide +kernel) (by decide +kernel); ⟨_, e⟩,
    let ⟨t, e, _⟩ := h.2 (tArrives 2) (routerOf 20) 9 3 (tWire 2) [] 0 (by decide +kernel) (by decide +kernel) (by decide +kernel) (by decide +kernel) (by decide +kernel) (by decide +kernel) (by decide +kernel) (by decide +kernel) (by decide +kernel); ⟨_, e⟩⟩

theorem witness_winner (h : Obligations.WinnerGranted) :
    (∃ t, exec (.switchAllocation (routerOf 20) [1] 4) (tHeld) = .next t) :=
  let ⟨t, e, _⟩ := h tHeld (routerOf 20) 1 4 tWin false [] (by decide +kernel) (by decide +kernel) (by decide +kernel) (by decide +kernel) (by decide +kernel) (by decide +kernel); ⟨_, e⟩

theorem witness_routerSide (h : Obligations.RouterSideRows) :
    (∃ t, exec (.creditReturn (.out (routerOf 20) 1) 3) (updR live (routerOf 20) (fun x => { x with outs := tupd x.outs 1 (fun o => { o with returning := tupd o.returning 3 (fun _ => 1), credit := tupd o.credit 3 (fun c => c - 1) }) })) = .next t) ∧
    (∃ t, exec (.creditReturn (.ni 20) 3) (at_ 20 (fun x => { x with returning := tupd x.returning 3 (fun _ => 1) })) = .next t) ∧
    (∃ t, exec (.escEntry (routerOf 20) 9 0 4) (tHeld) = .next t) ∧
    (∃ t, exec (.governorLevelApply 0) (updR live 0 (fun x => { x with govNext := some (2, 5120) })) = .next t) ∧
    (∃ t, exec (.returnPortReinject 1 0) (updR live (hubOf 1) (fun x => { x with returned := [tReq opRdLine 0] })) = .next t) :=
  ⟨let ⟨t, e, _⟩ := (h (updR live (routerOf 20) (fun x => { x with outs := tupd x.outs 1 (fun o => { o with returning := tupd o.returning 3 (fun _ => 1), credit := tupd o.credit 3 (fun c => c - 1) }) })) (routerOf 20) 1 3 0).1 (by decide +kernel) (by decide +kernel); ⟨_, e⟩,
    let ⟨t, e, _⟩ := (h (at_ 20 (fun x => { x with returning := tupd x.returning 3 (fun _ => 1) })) 0 0 3 0).2.1 20 (by decide +kernel); ⟨_, e⟩,
    let ⟨t, e, _⟩ := (h tHeld (routerOf 20) 9 0 4).2.2.1 tBuf [] 0 (by decide +kernel) (by decide +kernel) (by decide +kernel) (by decide +kernel) (by decide +kernel) (by decide +kernel) (by decide +kernel); ⟨_, e⟩,
    ⟨_, (h (updR live 0 (fun x => { x with govNext := some (2, 5120) })) 0 0 0 0).2.2.2.1 2 5120 (by decide +kernel) (by decide +kernel) (by decide +kernel)⟩,
    let ⟨t, e, _⟩ := (h (updR live (hubOf 1) (fun x => { x with returned := [tReq opRdLine 0] })) 0 0 0 0).2.2.2.2 1 (tReq opRdLine 0) [] (by decide +kernel) (by decide +kernel) (by decide +kernel); ⟨_, e⟩⟩

/-! ### Spine links -/

/-- `live` with link end `e` up and changed further. -/
def tLink (e : LinkEnd) (f : SpineEnd → SpineEnd) : State :=
  updE live e (fun x => f { x with state := .up, lanes := x.lanes.map (fun l => { l with locked := true }) })
def tRec : SpineRec := { svc := 0, phase := .postSpine, out := 8, pool := false, flit := tHead opRdLine 20 30 5 0 77 }
def tPail : PailEnt := { seq := 0, sfu := 0x4000, recs := [tRec] }
def tSent (x : SpineEnd) : SpineEnd := { x with n := 1, pail := [tPail] }
/-- A DATA body without a record, and a LINK body that acknowledges sequence 0. -/
def tData : BitVec 480 := dataBody []
def tLinkSfu : LinkSfu := { ack := some 0, nak := none, poolOff := true, idle := 0, req := 0, credit := List.replicate 16 0 }
def tDataSfu : BitVec 512 := sfuOf (dataPrefix 0) tData
def tAckSfu : BitVec 512 := sfuOf linkPrefix (linkBody false tLinkSfu)
def tLeakLink : LinkSfu := { tLinkSfu with ack := none, idle := 1 }
def tLeakSfu : BitVec 512 := sfuOf linkPrefix (linkBody false tLeakLink)

theorem witness_slotSends (h : Obligations.SlotSendsData) :
    (∃ t, exec (.spineRecordSend 0 5) (tLink 0 (fun x => { x with queue := [tRec] })) = .next t) ∧
    (∃ t, exec (.spineRecordSend 0 5) (tLink 0 (fun x => { tSent x with replay := some 0 })) = .next t) :=
  ⟨let ⟨t, _, e, _⟩ := (h (tLink 0 (fun x => { x with queue := [tRec] })) 0 5 (by decide +kernel) (by decide +kernel) (by decide +kernel) (by decide +kernel) (by decide +kernel) (by decide +kernel) (by decide +kernel)).1 (by decide +kernel) (by decide +kernel) (by decide +kernel); ⟨_, e⟩,
    let ⟨t, e, _⟩ := (h (tLink 0 (fun x => { tSent x with replay := some 0 })) 0 5 (by decide +kernel) (by decide +kernel) (by decide +kernel) (by decide +kernel) (by decide +kernel) (by decide +kernel) (by decide +kernel)).2 0 tPail (by decide +kernel) (by decide +kernel); ⟨_, e⟩⟩

theorem witness_sfus (h : Obligations.SfusTaken) :
    (∃ t, exec (.dataSfuReceive 1 5 0#512) (tLink 1 (fun x => { x with lanesIn := [tDataSfu] })) = .next t) ∧
    (∃ t, exec (.dataSfuReceive 1 5 0#512) (tLink 1 (fun x => { x with lanesIn := [0] })) = .next t) ∧
    (∃ t, exec (.linkSfuReceive 0 5 0#512) (tLink 0 (fun x => { tSent x with lanesIn := [tAckSfu] })) = .next t) ∧
    (∃ t, exec (.linkSfuReceive 0 5 0#512) (tLink 0 (fun x => { x with lanesIn := [tLeakSfu], credit := tabAll 16 0 })) = .next t) :=
  ⟨let ⟨t, e, _⟩ := (h.1 (tLink 1 (fun x => { x with lanesIn := [tDataSfu] })) 1 5 0#512 tDataSfu [] (by decide +kernel) (by decide +kernel) rfl (by decide +kernel)).1 (by rw [BitVec.xor_zero]; exact sfuCheck_data (by decide +kernel)) [] (by rw [BitVec.xor_zero, tDataSfu, sfuOf_body]; decide +kernel) (by decide +kernel); ⟨_, e⟩,
    let ⟨t, e, _⟩ := (h.1 (tLink 1 (fun x => { x with lanesIn := [0] })) 1 5 0 0 [] (by decide +kernel) (by decide +kernel) (by decide +kernel) (by decide +kernel)).2 (sfuCheck_bad (by decide +kernel) (by decide +kernel)); ⟨_, e⟩,
    let ⟨t, e, _⟩ := h.2 (tLink 0 (fun x => { tSent x with lanesIn := [tAckSfu] })) 0 5 0#512 tAckSfu [] tLinkSfu (by decide +kernel) (by decide +kernel) rfl (by decide +kernel) (by rw [BitVec.xor_zero]; exact sfuCheck_link (by decide +kernel)) (by rw [BitVec.xor_zero, tAckSfu, sfuOf_body]; decide +kernel) (by decide +kernel); ⟨_, e⟩,
    let ⟨t, e, _⟩ := h.2 (tLink 0 (fun x => { x with lanesIn := [tLeakSfu], credit := tabAll 16 0 })) 0 5 0#512 tLeakSfu [] tLeakLink (by decide +kernel) (by decide +kernel) rfl (by decide +kernel) (by rw [BitVec.xor_zero]; exact sfuCheck_link (by decide +kernel)) (by rw [BitVec.xor_zero, tLeakSfu, sfuOf_body]; decide +kernel) (by decide +kernel); ⟨_, e⟩⟩

theorem witness_linkTimers (h : Obligations.LinkTimers) :
    (∃ t, exec (.nakRepeat 0 5) (tLink 0 (fun x => { x with recovering := true })) = .next t) ∧
    (∃ t, exec (.ackDue 0 5) (tLink 0 (fun x => { x with ackCount := 32 })) = .next t) ∧
    (∃ t, exec (.ackDue 0 5) (tLink 0 (fun x => { x with ackSince := some 5242000 })) = .next t) ∧
    (∃ t, exec (.replayTimeout 0 5) (tLink 0 tSent) = .next t) ∧
    (∃ t, exec (.replayTimeout 0 5) (tLink 0 (fun x => { tSent x with fruitless := 3 })) = .next t) ∧
    (∃ t, exec (.linkDownRetry 0) (tLink 0 (fun x => { x with state := .down, lastTry := 5104 })) = .next t) :=
  ⟨⟨_, (h (tLink 0 (fun x => { x with recovering := true })) 0 5 (by decide +kernel)).1 (by decide +kernel) (by decide +kernel) (by decide +kernel) (by decide +kernel) (by decide +kernel)⟩,
    ⟨_, (h (tLink 0 (fun x => { x with ackCount := 32 })) 0 5 (by decide +kernel)).2.1 0 (by decide +kernel) (by decide +kernel)⟩,
    ⟨_, (h (tLink 0 (fun x => { x with ackSince := some 5242000 })) 0 5 (by decide +kernel)).2.1 5242000 (by decide +kernel) (by decide +kernel)⟩,
    let ⟨t, e, _⟩ := (h (tLink 0 tSent) 0 5 (by decide +kernel)).2.2.1 (by decide +kernel) (by decide +kernel) (by decide +kernel) (by decide +kernel); ⟨_, e⟩,
    let ⟨t, e, _⟩ := (h (tLink 0 (fun x => { tSent x with fruitless := 3 })) 0 5 (by decide +kernel)).2.2.1 (by decide +kernel) (by decide +kernel) (by decide +kernel) (by decide +kernel); ⟨_, e⟩,
    ⟨_, (h (tLink 0 (fun x => { x with state := .down, lastTry := 5104 })) 0 5 (by decide +kernel)).2.2.2 (by decide +kernel) (by decide +kernel) (by decide +kernel) (by decide +kernel) (by decide +kernel)⟩⟩

def tLane (i : Nat) (inUse : Bool) : Lane :=
  { lane := i, failed := false, failing := false, inUse := inUse, locked := true, missed := 0, markers := 0, bips := [] }
def tBad (i : Nat) : State := tLink 0 (fun x => { x with lanes := x.lanes.map (fun l =>
  if l.lane = i then { l with bips := List.replicate 17 1 } else l) })
/-- The slots before the lane markers have passed; every lane has missed `m` markers in a row. -/
def tMarkers (m : Nat) : State :=
  tLink 0 (fun x => { x with slots := 2048, lanes := x.lanes.map (fun l => { l with missed := m }) })
def tRetr : State := updE (tLink 0 id) 0 (fun x => { x with state := .retrain })

theorem witness_lanes (h : Obligations.LaneFaults) :
    (∃ t, exec (.laneLockLoss 0 5) (tLink 0 id) = .next t) ∧
    (∃ t, exec (.laneLockLoss 0 32) (tRetr) = .next t) ∧
    (∃ t, exec (.laneLockLoss 0 32) (tLink 0 id) = .next t) ∧
    (∃ t, exec (.laneFailing 0 5) (tBad 5) = .next t) ∧
    (∃ t, exec (.laneFailing 0 33) (tBad 33) = .next t) ∧
    (∃ t, exec (.laneMarker 0 []) (tMarkers 0) = .next t) ∧
    (∃ t, exec (.laneMarker 0 [{ lane := 5, arrived := true, dist := 0x10000 }]) (tMarkers 0) = .next t) ∧
    (∃ t, exec (.laneMarker 0 [{ lane := 5, arrived := false, dist := 0 }]) (tMarkers 0) = .next t) ∧
    (∃ t, exec (.laneMarker 0 [{ lane := 5, arrived := true, dist := 1 }]) (tMarkers 1) = .next t) :=
  ⟨let ⟨t, e, _⟩ := (h (tLink 0 id) 0 5 (tLane 5 true) (by decide +kernel) (by decide +kernel) (by decide +kernel)).1 (by decide +kernel) (by decide +kernel); ⟨_, e⟩,
    ⟨_, (h tRetr 0 32 (tLane 32 false) (by decide +kernel) (by decide +kernel) (by decide +kernel)).2.1 (by decide +kernel) (by decide +kernel)⟩,
    let ⟨t, e, _⟩ := (h (tLink 0 id) 0 32 (tLane 32 false) (by decide +kernel) (by decide +kernel) (by decide +kernel)).2.2.1 (by decide +kernel) (by decide +kernel); ⟨_, e⟩,
    let ⟨t, e, _⟩ := (h (tBad 5) 0 5 { tLane 5 true with bips := List.replicate 17 1 } (by decide +kernel) (by decide +kernel) (by decide +kernel)).2.2.2.1 (by decide +kernel) (by decide +kernel) (by decide +kernel); ⟨_, e⟩,
    let ⟨t, e, _⟩ := (h (tBad 33) 0 33 { tLane 33 false with bips := List.replicate 17 1 } (by decide +kernel) (by decide +kernel) (by decide +kernel)).2.2.2.2.1 (by decide +kernel) (by decide +kernel) (by decide +kernel); ⟨_, e⟩,
    let ⟨t, e, _⟩ := (h (tMarkers 0) 0 5 { tLane 5 true with missed := 0 } (by decide +kernel) (by decide +kernel) (by decide +kernel)).2.2.2.2.2 [] _ (by decide +kernel) (by decide +kernel) (by decide +kernel) (by decide +kernel) rfl; ⟨_, e⟩,
    let ⟨t, e, _⟩ := (h (tMarkers 0) 0 5 { tLane 5 true with missed := 0 } (by decide +kernel) (by decide +kernel) (by decide +kernel)).2.2.2.2.2 [{ lane := 5, arrived := true, dist := 0x10000 }] _ (by decide +kernel) (by decide +kernel) (by decide +kernel) (by decide +kernel) rfl; ⟨_, e⟩,
    let ⟨t, e, _⟩ := (h (tMarkers 0) 0 5 { tLane 5 true with missed := 0 } (by decide +kernel) (by decide +kernel) (by decide +kernel)).2.2.2.2.2 [{ lane := 5, arrived := false, dist := 0 }] _ (by decide +kernel) (by decide +kernel) (by decide +kernel) (by decide +kernel) rfl; ⟨_, e⟩,
    let ⟨t, e, _⟩ := (h (tMarkers 1) 0 5 { tLane 5 true with missed := 1 } (by decide +kernel) (by decide +kernel) (by decide +kernel)).2.2.2.2.2 [{ lane := 5, arrived := true, dist := 1 }] _ (by decide +kernel) (by decide +kernel) (by decide +kernel) (by decide +kernel) rfl; ⟨_, e⟩⟩

/-- Every lane of an edge link, good but for those named. -/
def tSeen (bad : List Nat) : List LaneTrain := (List.range 34).map (fun i => { lane := i, good := !bad.contains i })
def tFar : FarEnd := { link := 0, hubX := 9, hubY := 1 }
def tTrains : State := tLink 0 (fun x => { x with state := .train })
def tMapped (bad : List Nat) : List Lane × List Nat × Option Nat :=
  (mapLanes 0 ((spn tTrains 0).lanes.zipIdx.map (fun p =>
    { p.1 with failed := !((tSeen bad).any (fun t => t.lane == p.2 && t.good)) }))).getD ([], [], none)
def tMapped2 (bad : List Nat) : List Lane × List Nat × Option Nat :=
  (mapLanes 0 (retrainLanes (spn tTrains 0).lanes (tSeen bad))).getD ([], [], none)
def tRetrains (k : Nat) : State := tLink 0 (fun x => { x with state := .retrain, attempts := k, lockTimer := true })

theorem witness_training (h : Obligations.TrainingAndDown) :
    (∃ t, exec (.linkTrainingComplete 0 (tSeen []) tFar) (tTrains) = .next t) ∧
    (∃ t, exec (.linkTrainingComplete 0 (tSeen [0, 7]) tFar) (tTrains) = .next t) ∧
    (∃ t, exec (.linkTrainingComplete 0 (tSeen []) { tFar with link := 3 }) (tTrains) = .next t) ∧
    (∃ t, exec (.linkTrainingTimeout 0) (tTrains) = .next t) ∧
    (∃ t, exec (.linkRetrainComplete 0 (tSeen [])) (tRetrains 0) = .next t) ∧
    (∃ t, exec (.linkRetrainComplete 0 (tSeen [3])) (tRetrains 0) = .next t) ∧
    (∃ t, exec (.linkRetrainFail 0) (tRetrains 2) = .next t) ∧
    (∃ t, exec (.trainingPatternsSeen 0) (tLink 1 (fun x => { x with state := .train })) = .next t) ∧
    (∃ t, exec (.trainingPatternsSeen 0) (updE (tLink 1 (fun x => { x with state := .retrain })) 0 (fun x => { x with state := .up })) = .next t) ∧
    (∃ t, exec (.linkRetrainFail 0) (tRetrains 3) = .next t) ∧
    (∃ t, exec (.lockLossExpiry 0) (tRetrains 0) = .next t) ∧
    (∃ t, exec (.linkDown 0) (tLink 0 id) = .next t) :=
  ⟨let ⟨t, e, _⟩ := (h.1 tTrains 0 (by decide +kernel)).1 (tSeen []) tFar (tMapped []).1 (tMapped []).2.1 (tMapped []).2.2 (by decide +kernel) (by decide +kernel) (by decide +kernel) (by decide +kernel) (by decide +kernel) (by decide +kernel) (by decide +kernel) (by decide +kernel); ⟨_, e⟩,
    let ⟨t, e, _⟩ := (h.1 tTrains 0 (by decide +kernel)).1 (tSeen [0, 7]) tFar (tMapped [0, 7]).1 (tMapped [0, 7]).2.1 (tMapped [0, 7]).2.2 (by decide +kernel) (by decide +kernel) (by decide +kernel) (by decide +kernel) (by decide +kernel) (by decide +kernel) (by decide +kernel) (by decide +kernel); ⟨_, e⟩,
    let ⟨t, e, _⟩ := (h.1 tTrains 0 (by decide +kernel)).2.1 (tSeen []) { tFar with link := 3 } (by decide +kernel) (by decide +kernel) (by decide +kernel) (by decide +kernel); ⟨_, e⟩,
    let ⟨t, e, _⟩ := (h.1 tTrains 0 (by decide +kernel)).2.2.1 (by decide +kernel); ⟨_, e⟩,
    let ⟨t, e, _⟩ := (h.1 (tRetrains 0) 0 (by decide +kernel)).2.2.2.1 (tSeen []) (tMapped2 []).1 (tMapped2 []).2.1 (tMapped2 []).2.2 (by decide +kernel) (by decide +kernel); ⟨_, e⟩,
    let ⟨t, e, _⟩ := (h.1 (tRetrains 0) 0 (by decide +kernel)).2.2.2.1 (tSeen [3]) (tMapped2 [3]).1 (tMapped2 [3]).2.1 (tMapped2 [3]).2.2 (by decide +kernel) (by decide +kernel); ⟨_, e⟩,
    ⟨_, (h.1 (tRetrains 2) 0 (by decide +kernel)).2.2.2.2.1 (by decide +kernel) (by decide +kernel)⟩,
    ⟨_, (h.1 (tLink 1 (fun x => { x with state := .train })) 0 (by decide +kernel)).2.2.2.2.2.1 (by decide +kernel) (by decide +kernel) (by decide +kernel)⟩,
    let ⟨t, e, _⟩ := (h.1 (updE (tLink 1 (fun x => { x with state := .retrain })) 0 (fun x => { x with state := .up })) 0 (by decide +kernel)).2.2.2.2.2.2 (by decide +kernel) (by decide +kernel) (by decide +kernel); ⟨_, e⟩,
    let ⟨t, e, _⟩ := h.2 (tRetrains 3) 0 (.linkRetrainFail 0) (.inl ⟨0, by decide +kernel, rfl, by decide +kernel⟩); ⟨_, e⟩,
    let ⟨t, e, _⟩ := h.2 (tRetrains 0) 0 (.lockLossExpiry 0) (.inr (.inl ⟨0, by decide +kernel, rfl, by decide +kernel⟩)); ⟨_, e⟩,
    let ⟨t, e, _⟩ := h.2 (tLink 0 id) 0 (.linkDown 0) (.inr (.inr ⟨0, by decide +kernel, rfl, by decide +kernel, .inl (by decide +kernel)⟩)); ⟨_, e⟩⟩

/-- Link end 0 is down with one packet in its Pail. -/
def tDown : State := tLink 0 (fun x => { tSent x with state := .down, downEpoch := some 5100 })
/-- Link end 8 is down, and the far end's hub is out of reach. -/
def tDiag : State :=
  let s := tLink 8 (fun x => { tSent x with state := .down, downEpoch := some 5100 })
  { s with herd := { s.herd with rounds := tmap s.herd.rounds (fun i r => { r with reachable := i != sectorOf (hubAt 9) }) } }
/-- The hub of quadrant 0 has no link up, and a Skim packet for quadrant 3 waits at it. -/
def tStuck : State := updR live (hubOf 0) (fun x => { x with ins := tupd x.ins 8 (fun i => { i with
  buf := tupd i.buf 6 (fun _ => [{ tBuf with flit := setVc 6 (tHead opDbFwd 16 11 0 0 0), phase := .toHub }]) }) })

theorem witness_returns (h : Obligations.LinkTakesPacketsBack) :
    (∃ t, exec (.returnWaitExpiry 0) (tDown) = .next t) ∧
    (∃ t, exec (.returnETimeout 8) (tDiag) = .next t) ∧
    (∃ t, exec (.linkEnOff 0) ({ live with spine := tmap live.spine (fun _ x => { x with en := false }) }) = .next t) ∧
    (∃ t, exec (.spineNoRoute 0) (tStuck) = .next t) :=
  ⟨let ⟨t, e, _⟩ := (h.1 tDown 0 5100 (by decide +kernel) (by decide +kernel) (by decide +kernel)).1 (by decide +kernel) (by decide +kernel); ⟨_, e⟩,
    let ⟨t, e, _⟩ := (h.1 tDiag 8 5100 (by decide +kernel) (by decide +kernel) (by decide +kernel)).2 (by decide +kernel) (by decide +kernel); ⟨_, e⟩,
    let ⟨t, e, _⟩ := h.2.1 ({ live with spine := tmap live.spine (fun _ x => { x with en := false }) }) 0 (by decide +kernel); ⟨_, e⟩,
    let ⟨t, e, _⟩ := h.2.2 tStuck 0 (by decide +kernel) (by decide +kernel) (by decide +kernel) (by decide +kernel); ⟨_, e⟩⟩

/-! ### Rings of the Herdsman -/

/-- `live` with the Herdsman changed. -/
def tHerd (f : Herd → Herd) : State := { live with herd := f live.herd }
/-- An enabled ring of 16 entries. -/
def tRing : HRing := { HRing.reset with word := 0x8000000000000000 }
def tRings (r : RingId) (f : HRing → HRing) : State :=
  tHerd (fun h => { h with
    rings := tupd (tmap h.rings (fun _ _ => tRing)) r f, windows := tabAll 16 0x8000000000000000 })
def tLine (d : BitVec 512) : MemLine := { data := d, state := .good }
/-- A doorbell forward that says 0 for ring 0. -/
def tBell : Flit := tHead opDbFwd 20 188 0 0 0
def tBellAt : State :=
  updN (tRings 0 (fun x => { x with prod := 0xFFFFFFFF, cons := 0xFFFFFFFF })) 188
    (fun x => { x with ej := tupd x.ej 6 (fun _ => [tBell]) })

/-- The same where ring 0 is not enabled. -/
def tBellOff : State := updN live 188 (fun x => { x with ej := tupd x.ej 6 (fun _ => [tBell]) })
/-- The home words of ring `r` alone are to be read. -/
def tPoll (r : RingId) (p c : BitVec 32) : State := tRings r (fun x => { x with prod := p, cons := c, fresh := true })
def tWins : State := tHerd (fun h => { h with windows := tabAll 16 0x8000000000000000 })

theorem witness_indexValues (h : Obligations.IndexValuesJudged) :
    (∃ t, exec (.dbFwd) (tBellOff) = .next t) ∧
    (∃ t, exec (.dbFwd) (tBellAt) = .next t) ∧
    (∃ t, exec (.ringPoll [(0, tLine 5)]) ((tPoll 0 5 2)) = .next t) ∧
    (∃ t, exec (.ringPoll [(0, tLine 4)]) ((tPoll 0 5 2)) = .next t) ∧
    (∃ t, exec (.ringPoll [(0, tLine 6)]) ((tPoll 0 5 2)) = .next t) ∧
    (∃ t, exec (.ringPoll [(0, tLine 18)]) ((tPoll 0 5 2)) = .next t) ∧
    (∃ t, exec (.ringPoll [(0, tLine 19)]) ((tPoll 0 5 2)) = .next t) ∧
    (∃ t, exec (.ringPoll [(8, tLine 2)]) ((tPoll 8 5 2)) = .next t) ∧
    (∃ t, exec (.ringPoll [(8, tLine 1)]) ((tPoll 8 5 2)) = .next t) ∧
    (∃ t, exec (.ringPoll [(8, tLine 5)]) ((tPoll 8 5 2)) = .next t) ∧
    (∃ t, exec (.ringPoll [(8, tLine 6)]) ((tPoll 8 5 2)) = .next t) ∧
    (∃ t, exec (.ringPoll [(8, tLine 3)]) (tPoll 8 5 2) = .next t) ∧
    (∃ t, exec (.stwRing 0 0x8000000000000000) (tWins) = .next t) :=
  ⟨let ⟨t, e, _⟩ := h.1 tBellOff .dbFwd 0 0 _ (by decide +kernel) (.inr ⟨tBell, [], 0, rfl, (by decide +kernel), (by decide +kernel), (by decide +kernel), (by decide +kernel), (by decide +kernel), (by decide +kernel), (by decide +kernel), (by decide +kernel), (by decide +kernel)⟩) rfl; ⟨_, e⟩,
    let ⟨t, e, _⟩ := h.1 tBellAt .dbFwd 0 0 _ (by decide +kernel) (.inr ⟨tBell, [], 0, rfl, (by decide +kernel), (by decide +kernel), (by decide +kernel), (by decide +kernel), (by decide +kernel), (by decide +kernel), (by decide +kernel), (by decide +kernel), (by decide +kernel)⟩) rfl; ⟨_, e⟩,
    let ⟨t, e, _⟩ := h.1 ((tPoll 0 5 2)) (.ringPoll [(0, tLine 5)]) 0 5 _ (by decide +kernel) (.inl ⟨tLine 5, rfl, (by decide +kernel), (by decide +kernel), (by decide +kernel), (by decide +kernel)⟩) rfl; ⟨_, e⟩,
    let ⟨t, e, _⟩ := h.1 ((tPoll 0 5 2)) (.ringPoll [(0, tLine 4)]) 0 4 _ (by decide +kernel) (.inl ⟨tLine 4, rfl, (by decide +kernel), (by decide +kernel), (by decide +kernel), (by decide +kernel)⟩) rfl; ⟨_, e⟩,
    let ⟨t, e, _⟩ := h.1 ((tPoll 0 5 2)) (.ringPoll [(0, tLine 6)]) 0 6 _ (by decide +kernel) (.inl ⟨tLine 6, rfl, (by decide +kernel), (by decide +kernel), (by decide +kernel), (by decide +kernel)⟩) rfl; ⟨_, e⟩,
    let ⟨t, e, _⟩ := h.1 ((tPoll 0 5 2)) (.ringPoll [(0, tLine 18)]) 0 18 _ (by decide +kernel) (.inl ⟨tLine 18, rfl, (by decide +kernel), (by decide +kernel), (by decide +kernel), (by decide +kernel)⟩) rfl; ⟨_, e⟩,
    let ⟨t, e, _⟩ := h.1 ((tPoll 0 5 2)) (.ringPoll [(0, tLine 19)]) 0 19 _ (by decide +kernel) (.inl ⟨tLine 19, rfl, (by decide +kernel), (by decide +kernel), (by decide +kernel), (by decide +kernel)⟩) rfl; ⟨_, e⟩,
    let ⟨t, e, _⟩ := h.1 ((tPoll 8 5 2)) (.ringPoll [(8, tLine 2)]) 8 2 _ (by decide +kernel) (.inl ⟨tLine 2, rfl, (by decide +kernel), (by decide +kernel), (by decide +kernel), (by decide +kernel)⟩) rfl; ⟨_, e⟩,
    let ⟨t, e, _⟩ := h.1 ((tPoll 8 5 2)) (.ringPoll [(8, tLine 1)]) 8 1 _ (by decide +kernel) (.inl ⟨tLine 1, rfl, (by decide +kernel), (by decide +kernel), (by decide +kernel), (by decide +kernel)⟩) rfl; ⟨_, e⟩,
    let ⟨t, e, _⟩ := h.1 ((tPoll 8 5 2)) (.ringPoll [(8, tLine 5)]) 8 5 _ (by decide +kernel) (.inl ⟨tLine 5, rfl, (by decide +kernel), (by decide +kernel), (by decide +kernel), (by decide +kernel)⟩) rfl; ⟨_, e⟩,
    let ⟨t, e, _⟩ := h.1 ((tPoll 8 5 2)) (.ringPoll [(8, tLine 6)]) 8 6 _ (by decide +kernel) (.inl ⟨tLine 6, rfl, (by decide +kernel), (by decide +kernel), (by decide +kernel), (by decide +kernel)⟩) rfl; ⟨_, e⟩,
    let ⟨t, e, _⟩ := h.2.1 (tPoll 8 5 2) [(8, tLine 3)] (by decide +kernel) (by decide +kernel) (by decide +kernel) (by decide +kernel); ⟨_, e⟩,
    let ⟨t, e, _⟩ := h.2.2 tWins 0 0x8000000000000000 (by decide +kernel) (by decide +kernel) (by decide +kernel) (by decide +kernel) (by decide +kernel); ⟨_, e⟩⟩

theorem witness_relays (h : Obligations.RelaysTakenUp) :
    (∃ t, exec (.spineUpUpdate 0) (live) = .next t) ∧
    (∃ t, exec (.doorbellWindowUpdate 20 15) (live) = .next t) ∧
    (∃ t, exec (.dbgAuthChange true) (live) = .next t) :=
  ⟨let ⟨t, e, _⟩ := (h live).1 0 (by decide +kernel) (by decide +kernel); ⟨_, e⟩,
    let ⟨t, e, _⟩ := (h live).2.1 20 15 (by decide +kernel) (by decide +kernel); ⟨_, e⟩,
    let ⟨t, e, _⟩ := (h live).2.2 true; ⟨_, e⟩⟩

/-- A descriptor of an operation; `f` fills the rest. -/
def tDesc (op : Nat) (f : BitVec 512 → BitVec 512) : BitVec 512 := f (setField 0 32 8 op)
def tCmd (d : BitVec 512) : Cmd :=
  { ring := 0, index := 0, desc := d, chk := .ready, ran := false, readAt := 4000, ending := (.ok, 0, 0), result := none }
/-- The rows of command ring 0 act on this command now. -/
def tTurn (d : BitVec 512) : State := tHerd (fun h => { h with started := [tCmd d] })
def tMismatch : Cmd := { tCmd 0 with chk := .mismatch 4 }
def tEnded : Cmd := { tCmd 0 with ran := true, result := some (.ok, 0, 0) }
def tQuiet : Cmd := { tEnded with desc := setField 0 41 1 1 }

/-- Event ring 8 with a batch of two entries written, and what it has been answered. -/
def tBatch (a : Status) (retry : Bool) : State :=
  tRings 8 (fun x => { x with pending := [1, 2], batch := 2, acks := [some .ok, some a], retry := retry })
def tIndex (a : Status) (retry : Bool) : State :=
  tRings 8 (fun x => { x with
    pending := [1, 2], batch := 2, indexSent := true, indexAck := some a, intr := (0x8000000000000000, 5), retry := retry })

theorem witness_commands (h : Obligations.CommandsReadStartedPublished) :
    (∃ t, exec (.commandFetch 0 [tLine 0, tLine 5]) (tRings 0 (fun x => { x with prod := 2 })) = .next t) ∧
    (∃ t, exec (.commandIndexRecheck 0 (tLine 0)) (tHerd (fun h => { h with fetched := [tMismatch] })) = .next t) ∧
    (∃ t, exec (.commandStart 0) ({ tRings 0 id with herd := { (tRings 0 id).herd with fetched := [tCmd 0] } }) = .next t) ∧
    (∃ t, exec (.commandComplete 0) ({ tRings 0 id with herd := { (tRings 0 id).herd with started := [tEnded] } }) = .next t) ∧
    (∃ t, exec (.commandComplete 0) ({ tRings 0 id with herd := { (tRings 0 id).herd with started := [tQuiet] } }) = .next t) ∧
    (∃ t, exec (.publishBatch 8 512) (tRings 8 (fun x => { x with pending := [1, 2] })) = .next t) ∧
    (∃ t, exec (.publishBatch 8 3) (tRings 8 (fun x => { x with pending := List.replicate 17 3 })) = .next t) ∧
    (∃ t, exec (.publishIndex 8) (tBatch .ok true) = .next t) ∧
    (∃ t, exec (.publishIndex 8) (tBatch .poison false) = .next t) ∧
    (∃ t, exec (.publishIndex 8) (tBatch .poison true) = .next t) ∧
    (∃ t, exec (.ringInterrupt 8) (tIndex .ok true) = .next t) ∧
    (∃ t, exec (.ringInterrupt 8) (tIndex .lost false) = .next t) ∧
    (∃ t, exec (.ringInterrupt 8) (tIndex .lost true) = .next t) :=
  ⟨let ⟨t, e, _⟩ := (h.1 (tRings 0 (fun x => { x with prod := 2 })) 0 (by decide +kernel)).1 [tLine 0, tLine 5] (by decide +kernel) (by decide +kernel) (by decide +kernel); ⟨_, e⟩,
    let ⟨t, e, _⟩ := (h.1 (tHerd (fun h => { h with fetched := [tMismatch] })) 0 (by decide +kernel)).2.1 tMismatch [] (tLine 0) 4 (by decide +kernel) (by decide +kernel) (by decide +kernel) (by decide +kernel) (by decide +kernel) (by decide +kernel); ⟨_, e⟩,
    let ⟨t, e, _⟩ := (h.1 ({ tRings 0 id with herd := { (tRings 0 id).herd with fetched := [tCmd 0] } }) 0 (by decide +kernel)).2.2 (tCmd 0) [] (by decide +kernel) (by decide +kernel) (by decide +kernel) (by decide +kernel) (by decide +kernel) (by decide +kernel) (by decide +kernel); ⟨_, e⟩,
    let ⟨t, e, _⟩ := (h.2 ({ tRings 0 id with herd := { (tRings 0 id).herd with started := [tEnded] } }) (by decide +kernel) (by decide +kernel)).1 0 tEnded (.ok, 0, 0) (by decide +kernel) (by decide +kernel); ⟨_, e⟩,
    let ⟨t, e, _⟩ := (h.2 ({ tRings 0 id with herd := { (tRings 0 id).herd with started := [tQuiet] } }) (by decide +kernel) (by decide +kernel)).1 0 tQuiet (.ok, 0, 0) (by decide +kernel) (by decide +kernel); ⟨_, e⟩,
    let ⟨t, e, _⟩ := ((h.2 (tRings 8 (fun x => { x with pending := [1, 2] })) (by decide +kernel) (by decide +kernel)).2 8 (by decide +kernel)).1 2 512 (by decide +kernel) (by decide +kernel) (by decide +kernel) (by decide +kernel) (by decide +kernel) (by decide +kernel) (by decide +kernel); ⟨_, e⟩,
    let ⟨t, e, _⟩ := ((h.2 (tRings 8 (fun x => { x with pending := List.replicate 17 3 })) (by decide +kernel) (by decide +kernel)).2 8 (by decide +kernel)).1 16 3 (by decide +kernel) (by decide +kernel) (by decide +kernel) (by decide +kernel) (by decide +kernel) (by decide +kernel) (by decide +kernel); ⟨_, e⟩,
    let ⟨t, e, _⟩ := (((h.2 (tBatch .ok true) (by decide +kernel) (by decide +kernel)).2 8 (by decide +kernel)).2.1 (by decide +kernel) (by decide +kernel)).1 (by decide +kernel); ⟨_, e⟩,
    let ⟨t, e, _⟩ := ((((h.2 (tBatch .poison false) (by decide +kernel) (by decide +kernel)).2 8 (by decide +kernel)).2.1 (by decide +kernel) (by decide +kernel)).2 (by decide +kernel) (by decide +kernel)).1 (by decide +kernel); ⟨_, e⟩,
    let ⟨t, e, _⟩ := ((((h.2 (tBatch .poison true) (by decide +kernel) (by decide +kernel)).2 8 (by decide +kernel)).2.1 (by decide +kernel) (by decide +kernel)).2 (by decide +kernel) (by decide +kernel)).2 (by decide +kernel); ⟨_, e⟩,
    let ⟨t, e, _⟩ := (((h.2 (tIndex .ok true) (by decide +kernel) (by decide +kernel)).2 8 (by decide +kernel)).2.2 (by decide +kernel)).1 (by decide +kernel); ⟨_, e⟩,
    let ⟨t, e, _⟩ := ((((h.2 (tIndex .lost false) (by decide +kernel) (by decide +kernel)).2 8 (by decide +kernel)).2.2 (by decide +kernel)).2 .lost (by decide +kernel) (by decide +kernel)).1 (by decide +kernel); ⟨_, e⟩,
    let ⟨t, e, _⟩ := ((((h.2 (tIndex .lost true) (by decide +kernel) (by decide +kernel)).2 8 (by decide +kernel)).2.2 (by decide +kernel)).2 .lost (by decide +kernel) (by decide +kernel)).2 (by decide +kernel); ⟨_, e⟩⟩

/-! ### Commands of the rings -/

/-- Byte `off` of a descriptor set to `v`; `w` bytes. -/
def tSet (off w v : Nat) (d : BitVec 512) : BitVec 512 := setField d (8 * off) (8 * w) v

theorem witness_plainCommands (h : Obligations.PlainCommandsEnd) :
    (∃ t, exec (.nop 0) (tTurn (tDesc 0x00 id)) = .next t) ∧
    (∃ t, exec (.gateFence 0) (tTurn (tDesc 0x0A (tSet 8 2 20))) = .next t) ∧
    (∃ t, exec (.setRate 0) (tTurn (tDesc 0x14 (tSet 16 3 537))) = .next t) ∧
    (∃ t, exec (.pause 0) (tTurn (tDesc 0x14 (tSet 8 1 1))) = .next t) ∧
    (∃ t, exec (.resume 0) (tTurn (tDesc 0x14 (tSet 8 1 2))) = .next t) ∧
    (∃ t, exec (.status 0) (tTurn (tDesc 0x14 (tSet 8 1 3))) = .next t) ∧
    (∃ t, exec (.reloaded 0) (tTurn (tDesc 0x14 (tSet 8 1 4 ∘ tSet 10 2 20 ∘ tSet 12 1 6))) = .next t) ∧
    (∃ t, exec (.msgSendIntr 0) (tTurn (tDesc 0x24 (tSet 8 1 191 ∘ tSet 12 1 7))) = .next t) ∧
    (∃ t, exec (.msgSendMail 0 [tLine 3]) (tTurn (tDesc 0x24 (tSet 8 1 191 ∘ tSet 9 1 1 ∘ tSet 10 2 1023 ∘ tSet 12 1 1))) = .next t) ∧
    (ended (cmdAnswered (tTurn (tDesc 0x24 id)) 0 0 .gateFault 3) 0 0 .gateFault 0 3) :=
  ⟨let ⟨t, e, _⟩ := (h (tTurn (tDesc 0x00 id)) (tCmd (tDesc 0x00 id))).1  (by unfold onTurn; decide +kernel) ; ⟨_, e⟩,
    let ⟨t, e, _⟩ := (h (tTurn (tDesc 0x0A (tSet 8 2 20))) (tCmd (tDesc 0x0A (tSet 8 2 20)))).2.1 20 (by unfold onTurn; decide +kernel) (by decide +kernel) (by decide +kernel); ⟨_, e⟩,
    let ⟨t, e, _⟩ := (h (tTurn (tDesc 0x14 (tSet 16 3 537))) (tCmd (tDesc 0x14 (tSet 16 3 537)))).2.2.1  (by unfold onTurn; decide +kernel) (by decide +kernel) (by decide +kernel); ⟨_, e⟩,
    let ⟨t, e, _⟩ := (h (tTurn (tDesc 0x14 (tSet 8 1 1))) (tCmd (tDesc 0x14 (tSet 8 1 1)))).2.2.2.1  (by unfold onTurn; decide +kernel) (by decide +kernel); ⟨_, e⟩,
    let ⟨t, e, _⟩ := (h (tTurn (tDesc 0x14 (tSet 8 1 2))) (tCmd (tDesc 0x14 (tSet 8 1 2)))).2.2.2.2.1  (by unfold onTurn; decide +kernel) (by decide +kernel); ⟨_, e⟩,
    let ⟨t, _, e, _⟩ := (h (tTurn (tDesc 0x14 (tSet 8 1 3))) (tCmd (tDesc 0x14 (tSet 8 1 3)))).2.2.2.2.2.1  (by unfold onTurn; decide +kernel) (by decide +kernel); ⟨_, e⟩,
    let ⟨t, e, _⟩ := (h (tTurn (tDesc 0x14 (tSet 8 1 4 ∘ tSet 10 2 20 ∘ tSet 12 1 6))) (tCmd (tDesc 0x14 (tSet 8 1 4 ∘ tSet 10 2 20 ∘ tSet 12 1 6)))).2.2.2.2.2.2.1  (by unfold onTurn; decide +kernel) (by decide +kernel) (by decide +kernel); ⟨_, e⟩,
    let ⟨t, e, _⟩ := (h (tTurn (tDesc 0x24 (tSet 8 1 191 ∘ tSet 12 1 7))) (tCmd (tDesc 0x24 (tSet 8 1 191 ∘ tSet 12 1 7)))).2.2.2.2.2.2.2.1  (by unfold onTurn; decide +kernel) (by decide +kernel) (by decide +kernel) (by decide +kernel) (by decide +kernel); ⟨_, e⟩,
    let ⟨t, e, _⟩ := (h (tTurn (tDesc 0x24 (tSet 8 1 191 ∘ tSet 9 1 1 ∘ tSet 10 2 1023 ∘ tSet 12 1 1))) (tCmd (tDesc 0x24 (tSet 8 1 191 ∘ tSet 9 1 1 ∘ tSet 10 2 1023 ∘ tSet 12 1 1)))).2.2.2.2.2.2.2.2.1 [tLine 3] 1 (by unfold onTurn; decide +kernel) (by decide +kernel) (by decide +kernel) (by decide +kernel) (by decide +kernel) (by decide +kernel) (by decide +kernel) (by decide +kernel) (by decide +kernel); ⟨_, e⟩,
    ((h (tTurn (tDesc 0x24 id)) (tCmd (tDesc 0x24 id))).2.2.2.2.2.2.2.2.2 0 0 .gateFault 3 (by decide +kernel) (by decide +kernel) (by decide +kernel)).1⟩

/-- The Crock with one entry, which CROCK_DRAIN writes. -/
def tDrains : State :=
  { tTurn (tDesc 0x15 id) with crock := { Crock.reset with entries := [(0, 5)], valid := [(0, true)], next := 1 } }

theorem witness_otherCommands (h : Obligations.OtherCommandsAct) :
    (∃ t, exec (.crockDrain 0) (tTurn (tDesc 0x15 id)) = .next t) ∧
    (∃ t, exec (.crockDrain 0) (tDrains) = .next t) ∧
    (∃ r, ended (drainAnswered tDrains 0 0 [0] .lost) 0 0 .poison 0 r) ∧
    (∃ t, exec (.linkCtl 0) (tTurn (tDesc 0x18 (tSet 8 1 5 ∘ tSet 9 1 30 ∘ tSet 11 1 1 ∘ tSet 12 2 1000 ∘ tSet 14 1 1 ∘ tSet 15 1 64))) = .next t) ∧
    (∃ t, exec (.ringMove 0 [tLine 0, tLine 0]) (tTurn (tDesc 0x28 id)) = .next t) ∧
    (∃ t, exec (.snapshot 0) (tTurn (tDesc 0x10 (tSet 14 2 1 ∘ tSet 16 2 8))) = .next t) :=
  ⟨let ⟨t, e, _⟩ := ((h (tTurn (tDesc 0x15 id)) (tCmd (tDesc 0x15 id))).1 [] (by unfold onTurn; decide +kernel) (by decide +kernel) (by decide +kernel) (by decide +kernel)).1 rfl; ⟨_, e⟩,
    let ⟨t, e, _⟩ := ((h tDrains (tCmd (tDesc 0x15 id))).1 _ (by unfold onTurn; decide +kernel) (by decide +kernel) (by decide +kernel) rfl).2 (by decide +kernel); ⟨_, e⟩,
    (((h tDrains (tCmd (tDesc 0x15 id))).2.1 [0]).2 .lost (by decide +kernel)).2 (by decide +kernel),
    let ⟨t, _, e, _⟩ := (h (tTurn (tDesc 0x18 (tSet 8 1 5 ∘ tSet 9 1 30 ∘ tSet 11 1 1 ∘ tSet 12 2 1000 ∘ tSet 14 1 1 ∘ tSet 15 1 64))) (tCmd (tDesc 0x18 (tSet 8 1 5 ∘ tSet 9 1 30 ∘ tSet 11 1 1 ∘ tSet 12 2 1000 ∘ tSet 14 1 1 ∘ tSet 15 1 64)))).2.2.1 5 (by unfold onTurn; decide +kernel) (by decide +kernel) (by decide +kernel) (by decide +kernel) (by decide +kernel) (by decide +kernel); ⟨_, e⟩,
    let ⟨t, _, e, _⟩ := (h (tTurn (tDesc 0x28 id)) (tCmd (tDesc 0x28 id))).2.2.2.1 [tLine 0, tLine 0] (by unfold onTurn; decide +kernel) (by decide +kernel) (by decide +kernel) (by decide +kernel) (by decide +kernel) (by decide +kernel); ⟨_, e⟩,
    let ⟨t, _, e, _⟩ := (h (tTurn (tDesc 0x10 (tSet 14 2 1 ∘ tSet 16 2 8))) (tCmd (tDesc 0x10 (tSet 14 2 1 ∘ tSet 16 2 8)))).2.2.2.2  (by unfold onTurn; decide +kernel) (by decide +kernel) (by decide +kernel) (by decide +kernel); ⟨_, e⟩⟩

def tItem (item : Nat) : ItemInfo := (itemInfo item).getD { kind := .die, indices := 0, bytes := 0, port := false, host := false }
def tPlace (d : BitVec 512) (item : Nat) : CfgPlace :=
  (((cfgPlaces (cfgArgs (tCmd d)) (tItem item)).map (·.1)).head?).getD { unit := none, num := 0, port := 0, index := 0 }

/-- A CFG_COPY awaits its acknowledgements; sector 0's is missing in the second. -/
def tCopying : State := tHerd (fun h => { h with started := [{ tCmd 0 with ran := true }], copy := some { ring := 0, index := 0 } })
def tCopyLate : State :=
  { tCopying with herd := { tCopying.herd with rounds := tupd tCopying.herd.rounds 0 (fun r => { r with reachable := false }) } }

theorem witness_configSets (h : Obligations.ConfigSetsWrittenAndRead) :
    (∃ t, exec (.cfgWrite 0 []) (tTurn (tDesc 0x01 (tSet 8 1 1 ∘ tSet 10 2 itLockLease ∘ tSet 12 2 20 ∘ tSet 18 2 1 ∘ tSet 32 2 7))) = .next t) ∧
    (∃ t, exec (.cfgWrite 0 []) (tTurn (tDesc 0x01 (tSet 8 1 1 ∘ tSet 10 2 itEscWait ∘ tSet 12 2 5 ∘ tSet 18 2 1 ∘ tSet 32 1 63))) = .next t) ∧
    (∃ t, exec (.cfgCopy 0) (tTurn (tDesc 0x02 id)) = .next t) ∧
    (ended (copyTick tCopying) 0 0 .ok 0 0) ∧
    (ended (copyTick tCopyLate) 0 0 .notReady 1 0) ∧
    (∃ t, exec (.cfgRead 0) (tTurn (tDesc 0x04 (tSet 8 1 0 ∘ tSet 10 2 itStoreLoss ∘ tSet 12 2 20 ∘ tSet 18 2 1 ∘ tSet 24 8 4096))) = .next t) :=
  ⟨let ⟨t, e, _⟩ := (h (tTurn (tDesc 0x01 (tSet 8 1 1 ∘ tSet 10 2 itLockLease ∘ tSet 12 2 20 ∘ tSet 18 2 1 ∘ tSet 32 2 7))) (tCmd (tDesc 0x01 (tSet 8 1 1 ∘ tSet 10 2 itLockLease ∘ tSet 12 2 20 ∘ tSet 18 2 1 ∘ tSet 32 2 7))) (by decide +kernel) (by decide +kernel)).1 [] (tItem itLockLease) (tPlace (tDesc 0x01 (tSet 8 1 1 ∘ tSet 10 2 itLockLease ∘ tSet 12 2 20 ∘ tSet 18 2 1 ∘ tSet 32 2 7)) itLockLease) 7 (by unfold onTurn; decide +kernel) (by decide +kernel) (by decide +kernel) (by decide +kernel) (by decide +kernel) (by decide +kernel) (by decide +kernel) (by decide +kernel) (by decide +kernel) (by decide +kernel) (by decide +kernel) (by decide +kernel) (by decide +kernel); ⟨_, e⟩,
    let ⟨t, e, _⟩ := (h (tTurn (tDesc 0x01 (tSet 8 1 1 ∘ tSet 10 2 itEscWait ∘ tSet 12 2 5 ∘ tSet 18 2 1 ∘ tSet 32 1 63))) (tCmd (tDesc 0x01 (tSet 8 1 1 ∘ tSet 10 2 itEscWait ∘ tSet 12 2 5 ∘ tSet 18 2 1 ∘ tSet 32 1 63))) (by decide +kernel) (by decide +kernel)).1 [] (tItem itEscWait) (tPlace (tDesc 0x01 (tSet 8 1 1 ∘ tSet 10 2 itEscWait ∘ tSet 12 2 5 ∘ tSet 18 2 1 ∘ tSet 32 1 63)) itEscWait) 63 (by unfold onTurn; decide +kernel) (by decide +kernel) (by decide +kernel) (by decide +kernel) (by decide +kernel) (by decide +kernel) (by decide +kernel) (by decide +kernel) (by decide +kernel) (by decide +kernel) (by decide +kernel) (by decide +kernel) (by decide +kernel); ⟨_, e⟩,
    let ⟨t, e, _⟩ := (h (tTurn (tDesc 0x02 id)) (tCmd (tDesc 0x02 id)) (by decide +kernel) (by decide +kernel)).2.1  (by unfold onTurn; decide +kernel) (by decide +kernel) (by decide +kernel) (by decide +kernel); ⟨_, e⟩,
    ((h tCopying (tCmd 0) (by decide +kernel) (by decide +kernel)).2.2.1 _ rfl (by decide +kernel)).2.1 (by decide +kernel),
    ((h tCopyLate (tCmd 0) (by decide +kernel) (by decide +kernel)).2.2.1 _ rfl (by decide +kernel)).2.2.1 (by decide +kernel),
    let ⟨t, _, e, _⟩ := (h (tTurn (tDesc 0x04 (tSet 8 1 0 ∘ tSet 10 2 itStoreLoss ∘ tSet 12 2 20 ∘ tSet 18 2 1 ∘ tSet 24 8 4096))) (tCmd (tDesc 0x04 (tSet 8 1 0 ∘ tSet 10 2 itStoreLoss ∘ tSet 12 2 20 ∘ tSet 18 2 1 ∘ tSet 24 8 4096))) (by decide +kernel) (by decide +kernel)).2.2.2 (tItem itStoreLoss) (tPlace (tDesc 0x04 (tSet 8 1 0 ∘ tSet 10 2 itStoreLoss ∘ tSet 12 2 20 ∘ tSet 18 2 1 ∘ tSet 24 8 4096)) itStoreLoss) (by unfold onTurn; decide +kernel) (by decide +kernel) (by decide +kernel) (by decide +kernel) (by decide +kernel) (by decide +kernel); ⟨_, e⟩⟩

def tSwap : Swap := { tick := 5122, toB := true, ring := 0, index := 0, acked := 0xFE }
/-- A swap that the sector of router 7 has not acknowledged. -/
def tCancels : State := tHerd (fun h => { h with
  started := [{ tCmd 0 with ran := true }], swap := some tSwap })

theorem witness_swap (h : Obligations.SwapArmedCancelledApplied) :
    (∃ t, exec (.cfgSwap 0) (tTurn (tDesc 0x03 (tSet 8 6 5124 ∘ tSet 14 1 1))) = .next t) ∧
    (∃ t, exec (.cfgSwapCancel) (tCancels) = .next t) ∧
    (∃ t, exec (.cfgSwapApply 7) (updR live 7 (fun x => { x with armed := some (5120, true) })) = .next t) :=
  ⟨let ⟨t, _, e, _⟩ := (h (tTurn (tDesc 0x03 (tSet 8 6 5124 ∘ tSet 14 1 1)))).1 (tCmd (tDesc 0x03 (tSet 8 6 5124 ∘ tSet 14 1 1))) (by unfold onTurn; decide +kernel) (by decide +kernel) (by decide +kernel) (by decide +kernel) (by decide +kernel) (by decide +kernel) (by decide +kernel); ⟨_, e⟩,
    let ⟨t, e, _⟩ := (h tCancels).2.1 tSwap (by decide +kernel) (by decide +kernel) (by decide +kernel) (by decide +kernel) (by decide +kernel); ⟨_, e⟩,
    let ⟨t, e, _⟩ := (h (updR live 7 (fun x => { x with armed := some (5120, true) }))).2.2 7 5120 true (by decide +kernel) (by decide +kernel) (by decide +kernel) (by unfold storeIdle; decide +kernel) (by unfold storeIdle; decide +kernel); ⟨_, e⟩⟩

def tMeter (fill : Bool) : MeterWrite := { tenant := 4095, w0 := 0x8000000000000000, fill := fill, epoch := 5119, cmd := some (0, 0) }
/-- A METER_PROG whose write reaches NI 15. -/
def tProg (fill : Bool) : State :=
  updN (tHerd (fun h => { h with started := [{ tCmd (setField 0 64 8 15 ||| tDesc 0x0C id) with ran := true }] })) 15
    (fun x => { x with meterNext := [tMeter fill] })

theorem witness_unitTables (h : Obligations.UnitTablesWritten) :
    (∃ t, exec (.gateLoad 0 [tLine 3]) (tTurn (tDesc 0x08 (tSet 8 2 20 ∘ tSet 10 1 31 ∘ tSet 11 1 1))) = .next t) ∧
    (∃ t, exec (.gateSwap 0) (tTurn (tDesc 0x09 (tSet 8 2 188))) = .next t) ∧
    (∃ t, exec (.gateSwap 0) (tTurn (tDesc 0x09 (tSet 8 2 20))) = .next t) ∧
    (∃ t, exec (.meterProg 0 [tLine 3]) (tTurn (tDesc 0x0C (tSet 8 1 15 ∘ tSet 10 2 4092 ∘ tSet 12 2 4))) = .next t) ∧
    (∃ t, exec (.meterEntryApply 15) (tProg true) = .next t) ∧
    (∃ t, exec (.meterEntryApply 15) (tProg false) = .next t) :=
  ⟨let ⟨t, _, e, _⟩ := (h (tTurn (tDesc 0x08 (tSet 8 2 20 ∘ tSet 10 1 31 ∘ tSet 11 1 1))) (tCmd (tDesc 0x08 (tSet 8 2 20 ∘ tSet 10 1 31 ∘ tSet 11 1 1))) 20).1 [tLine 3] 31 1 (by unfold onTurn; decide +kernel) (by decide +kernel) (by decide +kernel) (by decide +kernel) (by decide +kernel) (by decide +kernel) (by decide +kernel) (by decide +kernel) (by decide +kernel) (by unfold storeIdle; decide +kernel); ⟨_, e⟩,
    let ⟨t, _, e, _⟩ := (h (tTurn (tDesc 0x09 (tSet 8 2 188))) (tCmd (tDesc 0x09 (tSet 8 2 188))) 188).2.1  (by unfold onTurn; decide +kernel) (by decide +kernel) (by decide +kernel); ⟨_, e⟩,
    let ⟨t, _, e, _⟩ := (h (tTurn (tDesc 0x09 (tSet 8 2 20))) (tCmd (tDesc 0x09 (tSet 8 2 20))) 20).2.2.1  (by unfold onTurn; decide +kernel) (by decide +kernel) (by decide +kernel) (by decide +kernel) (by unfold storeIdle; decide +kernel) (by decide +kernel); ⟨_, e⟩,
    let ⟨t, _, e, _⟩ := (h (tTurn (tDesc 0x0C (tSet 8 1 15 ∘ tSet 10 2 4092 ∘ tSet 12 2 4))) (tCmd (tDesc 0x0C (tSet 8 1 15 ∘ tSet 10 2 4092 ∘ tSet 12 2 4))) 15).2.2.2.1 [tLine 3] (by unfold onTurn; decide +kernel) (by decide +kernel) (by decide +kernel) (by decide +kernel) (by decide +kernel) (by decide +kernel) (by decide +kernel) (by decide +kernel); ⟨_, e⟩,
    let ⟨t, e, _⟩ := (h (tProg true) (tCmd 0) 15).2.2.2.2 (tMeter true) (by decide +kernel) (by decide +kernel) (by decide +kernel) (by unfold storeIdle; decide +kernel) (by decide +kernel); ⟨_, e⟩,
    let ⟨t, e, _⟩ := (h (tProg false) (tCmd 0) 15).2.2.2.2 (tMeter false) (by decide +kernel) (by decide +kernel) (by decide +kernel) (by unfold storeIdle; decide +kernel) (by decide +kernel); ⟨_, e⟩⟩

/-! ### Groups, milk rounds and events -/

/-- The data block of a CURD_SETUP: slot 20 is the member, slot 30 the target, START is 7, and one region of a page. -/
def tItems : BitVec 512 :=
  setField (setField (setField (setField (setField 0 0 192 (2 ^ 20)) 192 192 (2 ^ 30)) 384 48 7) 433 7 1) 440 8 16
def tSetup : Block := [tLine tItems, tLine 0x8C00000000001000]
def tActive (st : GroupState) : State :=
  let s := tTurn (tDesc 0x20 (tSet 8 1 3 ∘ tSet 9 1 2))
  { s with herd := { s.herd with groups := tupd s.herd.groups 3 (fun c => { c with state := st, members := 1#192 <<< 20 }) } }
/-- The same where the member's K is ahead of C. -/
def tBusy : State :=
  let s := tActive .active
  { s with herd := { s.herd with groups := tupd s.herd.groups 3 (fun c => { c with ks := tupd c.ks 20 (fun _ => 9) }) } }
/-- Every group is in state `st` while a set-up is on turn. -/
def tGroups (st : GroupState) (d : BitVec 512) : State :=
  let s := tTurn d
  { s with herd := { s.herd with groups := tmap live.herd.groups (fun _ c => { c with state := st }) } }

theorem witness_groups (h : Obligations.GroupsSetUp) :
    (∃ t, exec (.enable 0 tSetup) (tTurn (tDesc 0x20 (tSet 8 1 3 ∘ tSet 9 1 0))) = .next t) ∧
    (∃ t, exec (.enable 0 tSetup) (tGroups .active (tDesc 0x20 (tSet 8 1 3 ∘ tSet 9 1 0))) = .next t) ∧
    (∃ t, exec (.enable 0 tSetup) (tGroups .failed (tDesc 0x20 (tSet 8 1 3 ∘ tSet 9 1 0))) = .next t) ∧
    (∃ t, exec (.change 0 tSetup) (tTurn (tDesc 0x20 (tSet 8 1 3 ∘ tSet 9 1 1))) = .next t) ∧
    (∃ t, exec (.change 0 tSetup) (tGroups .active (tDesc 0x20 (tSet 8 1 3 ∘ tSet 9 1 1))) = .next t) ∧
    (∃ t, exec (.change 0 tSetup) (tGroups .failed (tDesc 0x20 (tSet 8 1 3 ∘ tSet 9 1 1))) = .next t) ∧
    (∃ t, exec (.disable 0) (tActive .disabled) = .next t) ∧
    (∃ t, exec (.disable 0) (tBusy) = .next t) ∧
    (∃ t, exec (.disable 0) (tActive .active) = .next t) ∧
    (∃ t, exec (.disable 0) (tActive .failed) = .next t) ∧
    (∃ t, exec (.disable 0) (tActive .active) = .next t) ∧
    (∃ t, exec (.disable 0) (tActive .failed) = .next t) :=
  ⟨let ⟨t, e, _⟩ := ((h (tTurn (tDesc 0x20 (tSet 8 1 3 ∘ tSet 9 1 0))) (tCmd (tDesc 0x20 (tSet 8 1 3 ∘ tSet 9 1 0))) 3 (by decide +kernel) (by unfold onTurn; decide +kernel)).1 tSetup _ rfl (by decide +kernel) (by decide +kernel) (by decide +kernel) (by decide +kernel) (by decide +kernel) (by decide +kernel) (by decide +kernel)).1 (by decide +kernel); ⟨_, e⟩,
    let ⟨t, e, _⟩ := ((h (tGroups .active (tDesc 0x20 (tSet 8 1 3 ∘ tSet 9 1 0))) (tCmd (tDesc 0x20 (tSet 8 1 3 ∘ tSet 9 1 0))) 3 (by decide +kernel) (by unfold onTurn; decide +kernel)).2.1 tSetup (by decide +kernel)).1 (by decide +kernel); ⟨_, e⟩,
    let ⟨t, e, _⟩ := ((h (tGroups .failed (tDesc 0x20 (tSet 8 1 3 ∘ tSet 9 1 0))) (tCmd (tDesc 0x20 (tSet 8 1 3 ∘ tSet 9 1 0))) 3 (by decide +kernel) (by unfold onTurn; decide +kernel)).2.1 tSetup (by decide +kernel)).1 (by decide +kernel); ⟨_, e⟩,
    let ⟨t, e, _⟩ := ((h (tTurn (tDesc 0x20 (tSet 8 1 3 ∘ tSet 9 1 1))) (tCmd (tDesc 0x20 (tSet 8 1 3 ∘ tSet 9 1 1))) 3 (by decide +kernel) (by unfold onTurn; decide +kernel)).1 tSetup _ rfl (by decide +kernel) (by decide +kernel) (by decide +kernel) (by decide +kernel) (by decide +kernel) (by decide +kernel) (by decide +kernel)).2 (by decide +kernel); ⟨_, e⟩,
    let ⟨t, e, _⟩ := ((h (tGroups .active (tDesc 0x20 (tSet 8 1 3 ∘ tSet 9 1 1))) (tCmd (tDesc 0x20 (tSet 8 1 3 ∘ tSet 9 1 1))) 3 (by decide +kernel) (by unfold onTurn; decide +kernel)).2.1 tSetup (by decide +kernel)).2 (by decide +kernel); ⟨_, e⟩,
    let ⟨t, e, _⟩ := ((h (tGroups .failed (tDesc 0x20 (tSet 8 1 3 ∘ tSet 9 1 1))) (tCmd (tDesc 0x20 (tSet 8 1 3 ∘ tSet 9 1 1))) 3 (by decide +kernel) (by unfold onTurn; decide +kernel)).2.1 tSetup (by decide +kernel)).2 (by decide +kernel); ⟨_, e⟩,
    let ⟨t, e, _⟩ := ((h (tActive .disabled) (tCmd (tDesc 0x20 (tSet 8 1 3 ∘ tSet 9 1 2))) 3 (by decide +kernel) (by unfold onTurn; decide +kernel)).2.2 (by decide +kernel)).1 (by decide +kernel); ⟨_, e⟩,
    let ⟨t, e, _⟩ := ((h tBusy (tCmd (tDesc 0x20 (tSet 8 1 3 ∘ tSet 9 1 2))) 3 (by decide +kernel) (by unfold onTurn; decide +kernel)).2.2 (by decide +kernel)).2.1 (by decide +kernel) (by decide +kernel); ⟨_, e⟩,
    ⟨_, ((h (tActive .active) (tCmd (tDesc 0x20 (tSet 8 1 3 ∘ tSet 9 1 2))) 3 (by decide +kernel) (by unfold onTurn; decide +kernel)).2.2 (by decide +kernel)).2.2.1 (by decide +kernel) (by decide +kernel)⟩,
    ⟨_, ((h (tActive .failed) (tCmd (tDesc 0x20 (tSet 8 1 3 ∘ tSet 9 1 2))) 3 (by decide +kernel) (by unfold onTurn; decide +kernel)).2.2 (by decide +kernel)).2.2.2.1 (by decide +kernel)⟩,
    let ⟨t, _, e, _⟩ := ((h (tActive .active) (tCmd (tDesc 0x20 (tSet 8 1 3 ∘ tSet 9 1 2))) 3 (by decide +kernel) (by unfold onTurn; decide +kernel)).2.2 (by decide +kernel)).2.2.2.2 (by decide +kernel) (by unfold storeIdle; decide +kernel); ⟨_, e⟩,
    let ⟨t, _, e, _⟩ := ((h (tActive .failed) (tCmd (tDesc 0x20 (tSet 8 1 3 ∘ tSet 9 1 2))) 3 (by decide +kernel) (by unfold onTurn; decide +kernel)).2.2 (by decide +kernel)).2.2.2.2 (by decide +kernel) (by unfold storeIdle; decide +kernel); ⟨_, e⟩⟩

/-- Frames to stop 0 of sector 0: a read and a write of STORE_LOSS of its slot, and what a stop and the steward send. -/
def tRd : Frame := { op := opMgRd, dst := 0, src := 12, tag := 9, second := BitVec.ofNat 32 (2 ^ 28 + itStoreLoss * 2 ^ 16), data := [] }
def tWr (set : Bool) : Frame :=
  { op := opMgWr, dst := 0, src := 12, tag := 9
    second := BitVec.ofNat 32 (2 ^ 28 + set.toNat * 2 ^ 27 + itStoreLoss * 2 ^ 16), data := [200] }
def tResp : Frame := { op := opMgResp, dst := 12, src := 0, tag := 9, second := 0, data := [] }
def tToken : Frame := { op := opMgEvent, dst := 12, src := 12, tag := 0, second := 0, data := [] }
/-- The agent of stop 3 reports ROUTER_STATE_UE. -/
def tAgent : Frame :=
  { op := opMgEvent, dst := 12, src := 3, tag := 0, second := BitVec.ofNat 32 (evNum .routerStateUe * 2 ^ 16), data := [5] }
def tRound (f : MilkRound → MilkRound) : State := tHerd (fun h => { h with rounds := tupd h.rounds 0 f })
def tWrPlace : ItemInfo × CfgPlace :=
  (adPlace (stopRouter 0 0) (tWr true)).getD
    ({ kind := .die, indices := 0, bytes := 0, port := false, host := false }, { unit := none, num := 0, port := 0, index := 0 })

theorem witness_milk (h : Obligations.MilkRounds) :
    (∃ t, exec (.mgRd 0 0 (writeFrame tRd) []) (live) = .next t) ∧
    (∃ t, exec (.mgWr 0 0 (writeFrame (tWr true)) []) (live) = .next t) ∧
    (∃ t, exec (.mgWr 0 0 (writeFrame (tWr false)) []) (live) = .next t) ∧
    (∃ t, exec (.mgRd 0 0 (writeFrame tRd) [1]) (live) = .next t) ∧
    (∃ t, exec (.mgWr 0 0 (writeFrame tRd) [1]) (live) = .next t) ∧
    (∃ t, exec (.mgResp 0 []) (tRound (fun x => { x with awaited := [(9, [1, 2], 0)], toSteward := [writeFrame tResp] })) = .next t) ∧
    (∃ t, exec (.mgEvent 0 (writeFrame tToken) []) (tRound (fun x => { x with tokens := 1 })) = .next t) ∧
    (∃ t, exec (.mgEvent 0 (writeFrame tAgent) []) (live) = .next t) ∧
    (∃ t, exec (.mgFrameTimeout 0 9) (tRound (fun x => { x with awaited := [(9, [1, 2], 0)] })) = .next t) ∧
    (∃ t, exec (.mgFrameTimeout 0 9) (tRound (fun x => { x with awaited := [(9, [1, 2], 1)] })) = .next t) ∧
    (∃ t, exec (.mgFrameTimeout 0 9) (tRound (fun x => { x with awaited := [(9, [1, 2], 2)] })) = .next t) ∧
    (∃ t, exec (.stewardLost 0 false) (tRound (fun x => { x with lost := true })) = .next t) ∧
    (∃ t, exec (.stewardLost 0 true) (live) = .next t) ∧
    (∃ t, exec (.stewardLost 0 false) (tRound (fun x => { x with token := 5116 })) = .next t) ∧
    (∃ t, exec (.sectorReturn 0) (tRound (fun x => { x with reachable := false })) = .next t) :=
  ⟨let ⟨t, e, _⟩ := (h live 0 (by decide +kernel)).1 0 (writeFrame tRd) [] tRd (by decide +kernel) (by decide +kernel) (by decide +kernel) (by decide +kernel) (by decide +kernel) (by decide +kernel) (by decide +kernel) (by decide +kernel); ⟨_, e⟩,
    let ⟨t, e, _⟩ := (h live 0 (by decide +kernel)).2.1 0 (writeFrame (tWr true)) [] (tWr true) tWrPlace.1 tWrPlace.2 200 (by decide +kernel) (by decide +kernel) (by decide +kernel) (by decide +kernel) (by decide +kernel) (by decide +kernel) (by decide +kernel) (by decide +kernel) (by decide +kernel) (by decide +kernel) (by decide +kernel) (by decide +kernel) (by decide +kernel) (by decide +kernel) (by decide +kernel); ⟨_, e⟩,
    let ⟨t, e, _⟩ := (h live 0 (by decide +kernel)).2.1 0 (writeFrame (tWr false)) [] (tWr false) tWrPlace.1 tWrPlace.2 200 (by decide +kernel) (by decide +kernel) (by decide +kernel) (by decide +kernel) (by decide +kernel) (by decide +kernel) (by decide +kernel) (by decide +kernel) (by decide +kernel) (by decide +kernel) (by decide +kernel) (by decide +kernel) (by decide +kernel) (by decide +kernel) (by decide +kernel); ⟨_, e⟩,
    let ⟨t, e, _⟩ := (h live 0 (by decide +kernel)).2.2.1 0 (writeFrame tRd) [1] (.mgRd 0 0 (writeFrame tRd) [1]) (by decide +kernel) (by decide +kernel) (by decide +kernel); ⟨_, e⟩,
    let ⟨t, e, _⟩ := (h live 0 (by decide +kernel)).2.2.1 0 (writeFrame tRd) [1] (.mgWr 0 0 (writeFrame tRd) [1]) (by decide +kernel) (by decide +kernel) (by decide +kernel); ⟨_, e⟩,
    let ⟨t, e, _⟩ := (h (tRound (fun x => { x with awaited := [(9, [1, 2], 0)], toSteward := [writeFrame tResp] })) 0 (by decide +kernel)).2.2.2.1 (writeFrame tResp) [] [] tResp (by decide +kernel) (by decide +kernel) (by decide +kernel) (by decide +kernel) (by decide +kernel) (by decide +kernel); ⟨_, e⟩,
    let ⟨t, e, _⟩ := ((h (tRound (fun x => { x with tokens := 1 })) 0 (by decide +kernel)).2.2.2.2.1 (writeFrame tToken) [] tToken (by decide +kernel) (by decide +kernel) (by decide +kernel)).1 (by decide +kernel) (by decide +kernel); ⟨_, e⟩,
    let ⟨t, e, _⟩ := ((h live 0 (by decide +kernel)).2.2.2.2.1 (writeFrame tAgent) [] tAgent (by decide +kernel) (by decide +kernel) (by decide +kernel)).2 .routerStateUe (by decide +kernel) (by decide +kernel) (by decide +kernel) (by decide +kernel); ⟨_, e⟩,
    let ⟨t, e, _⟩ := (h (tRound (fun x => { x with awaited := [(9, [1, 2], 0)] })) 0 (by decide +kernel)).2.2.2.2.2.1 9 9 [1, 2] 0 (by decide +kernel) (by decide +kernel); ⟨_, e⟩,
    let ⟨t, e, _⟩ := (h (tRound (fun x => { x with awaited := [(9, [1, 2], 1)] })) 0 (by decide +kernel)).2.2.2.2.2.1 9 9 [1, 2] 1 (by decide +kernel) (by decide +kernel); ⟨_, e⟩,
    let ⟨t, e, _⟩ := (h (tRound (fun x => { x with awaited := [(9, [1, 2], 2)] })) 0 (by decide +kernel)).2.2.2.2.2.1 9 9 [1, 2] 2 (by decide +kernel) (by decide +kernel); ⟨_, e⟩,
    let ⟨t, e, _⟩ := (h (tRound (fun x => { x with lost := true })) 0 (by decide +kernel)).2.2.2.2.2.2.1 false (by decide +kernel) (by decide +kernel) (by decide +kernel); ⟨_, e⟩,
    let ⟨t, e, _⟩ := (h (live) 0 (by decide +kernel)).2.2.2.2.2.2.1 true (by decide +kernel) (by decide +kernel) (by decide +kernel); ⟨_, e⟩,
    let ⟨t, e, _⟩ := (h (tRound (fun x => { x with token := 5116 })) 0 (by decide +kernel)).2.2.2.2.2.2.1 false (by decide +kernel) (by decide +kernel) (by decide +kernel); ⟨_, e⟩,
    let ⟨t, e, _⟩ := (h (tRound (fun x => { x with reachable := false })) 0 (by decide +kernel)).2.2.2.2.2.2.2 (by decide +kernel); ⟨_, e⟩⟩

def tEvent (c : EventCode) : Event :=
  { code := c, kind := .spineEnd, num := 0, detail := 0, record := 0, sectors := 0, merged := 0, dropped := 0, status := .ok
    epoch := 5120 }
def tMerge : Merge := { ev := tEvent .linkDown, opened := 5116, count := 3 }
/-- Event ring 0 is enabled, and an event waits at the Herdsman. -/
def tReports (l : List Event) (m : List Merge) : State :=
  let s := tRings 12 id
  { s with herd := { s.herd with reports := l, merges := m } }

theorem witness_events (h : Obligations.EventsWritten) :
    (∃ t, exec (.eventReport) (tReports [tEvent .tickSlip] []) = .next t) ∧
    (∃ t, exec (.eventReport) (tReports [tEvent .linkDown] []) = .next t) ∧
    (∃ t, exec (.eventMergeClose) (tReports [] [tMerge]) = .next t) :=
  ⟨let ⟨t, e, _⟩ := (h (tReports [tEvent .tickSlip] []) (by decide +kernel) (by decide +kernel) (by decide +kernel) (by decide +kernel)).1 (tEvent .tickSlip) [] (by decide +kernel) (by decide +kernel) (by decide +kernel) (by decide +kernel) (by decide +kernel) (by decide +kernel) (by decide +kernel); ⟨_, e⟩,
    let ⟨t, e, _⟩ := (h (tReports [tEvent .linkDown] []) (by decide +kernel) (by decide +kernel) (by decide +kernel) (by decide +kernel)).2.1 (tEvent .linkDown) [] (by decide +kernel) (by decide +kernel) (by decide +kernel) (by decide +kernel); ⟨_, e⟩,
    let ⟨t, e, _⟩ := (h (tReports [] [tMerge]) (by decide +kernel) (by decide +kernel) (by decide +kernel) (by decide +kernel)).2.2 tMerge [] (by decide +kernel) (by decide +kernel) (by decide +kernel); ⟨_, e⟩⟩

/-! ### The metering island and the Dipper -/

/-- `live` with the Can changed. -/
def tCan (f : Can → Can) : State := { live with can := f live.can }
/-- Lane 3 with one word in its FIFO; its tenant 5 is counted. -/
def tTally (w : BitVec 24) : State := tCan (fun c => { c with
  tmap := [(5, 0x8005)]
  lanes := tupd c.lanes 3 (fun l => { l with fifo := [w], owed := [0], fresh := false, epoch := 5119 }) })
/-- Four lines of tenant 5; the same with a wrong parity; and the marker of epoch 5,120. -/
def tWord : BitVec 24 := let w : BitVec 24 := setField (setField 0 11 12 5) 0 7 4; if parity w then w ^^^ 0x800000 else w
def tMark : BitVec 24 := let w : BitVec 24 := setField 0 11 12 1024; if parity w then w ^^^ 0x800000 else w
def tReport : CanReport :=
  { reason := 0, boundary := 5120, start := 0, absent := 0, counters := [], log := [], dropped := 0, exact := true, sealed := false
    aclk := 0, seq := 0, cfg := Can.reset.cfg, tmap := [], lines := 0 }
/-- The report has been written up to `k` lines, and NI 190's port has brought `out`. -/
def tReports190 (k : Nat) (out : List EpOut) : State :=
  { at_ 190 (fun x => { x with out := out }) with
    can := { live.can with report := some { tReport with lines := k }, tag := some 5 } }
def tOk : List EpOut := [.rsp [tHead opWrAck 30 190 5 0 0]]
def tRefused : List EpOut := [.err 0 .gateFault 0 false]

theorem witness_tallies (h : Obligations.TalliesAndReports) :
    (∃ t, exec (.tallyWord 3 0) (tTally tWord) = .next t) ∧
    (∃ t, exec (.tallyWord 3 0x400000) (tTally tWord) = .next t) ∧
    (∃ t, exec (.tallyMarker 3 0) (tTally tMark) = .next t) ∧
    (∃ t, exec (.reportClose) (tCan (fun c => { c with closing := some 5120, lanes := tmap c.lanes (fun _ l => { l with atBoundary := some 5120 }) })) = .next t) ∧
    (∃ t, exec (.laneAbsentTimeout) (tCan (fun c => { c with closing := some 5120 })) = .next t) ∧
    (∃ t, exec (.reportWrite) (tCan (fun c => { c with report := some tReport })) = .next t) ∧
    (∃ t, exec (.reportTrailer) (tReports190 4112 tOk) = .next t) ∧
    (∃ t, exec (.reportTrailer) (tReports190 4113 tOk) = .next t) ∧
    (∃ t, exec (.reportTrailer) (tReports190 4112 tRefused) = .next t) ∧
    (∃ t, exec (.meterResetNotice) (tCan (fun c => { c with resetNotice := true })) = .next t) ∧
    (∃ t, exec (.canScrub [32767]) (live) = .next t) ∧
    (∃ t, exec (.meterClock) (live) = .next t) :=
  ⟨let ⟨t, e, _⟩ := (h.1 (tTally tWord) 3 tWord 0 tWord [] _ (by decide +kernel) (by decide +kernel) (by decide +kernel) rfl).1 (by decide +kernel) (by decide +kernel) (by decide +kernel) (by decide +kernel) (by decide +kernel) (by decide +kernel); ⟨_, e⟩,
    let ⟨t, e, _⟩ := (h.1 (tTally tWord) 3 tWord 0x400000 (tWord ^^^ 0x400000) [] _ (by decide +kernel) (by decide +kernel) (by decide +kernel) rfl).2.1 (by decide +kernel) (by decide +kernel) (by decide +kernel); ⟨_, e⟩,
    let ⟨t, e, _⟩ := (h.1 (tTally tMark) 3 tMark 0 tMark [] _ (by decide +kernel) (by decide +kernel) (by decide +kernel) rfl).2.2 5120 (by decide +kernel) (by decide +kernel) (by decide +kernel) (by decide +kernel) (by decide +kernel) (by decide +kernel) (by decide +kernel) (by decide +kernel) (by decide +kernel); ⟨_, e⟩,
    let ⟨t, _, e, _⟩ := (h.2 (tCan (fun c => { c with closing := some 5120, lanes := tmap c.lanes (fun _ l => { l with atBoundary := some 5120 }) })) (by decide +kernel)).1 5120 .reportClose (by decide +kernel) (by decide +kernel) (.inl ⟨rfl, (by decide +kernel)⟩); ⟨_, e⟩,
    let ⟨t, _, e, _⟩ := (h.2 (tCan (fun c => { c with closing := some 5120 })) (by decide +kernel)).1 5120 .laneAbsentTimeout (by decide +kernel) (by decide +kernel) (.inr rfl); ⟨_, e⟩,
    let ⟨t, _, e, _⟩ := (h.2 (tCan (fun c => { c with report := some tReport })) (by decide +kernel)).2.1 tReport (by decide +kernel) (by decide +kernel) (by decide +kernel); ⟨_, e⟩,
    let ⟨t, _, _, e, _⟩ := (h.2 (tReports190 4112 tOk) (by decide +kernel)).2.2.1 _ (by decide +kernel) rfl (by decide +kernel) (by decide +kernel) (by decide +kernel); ⟨_, e⟩,
    let ⟨t, e, _⟩ := (h.2 (tReports190 4113 tOk) (by decide +kernel)).2.2.2.1 _ (by decide +kernel) (by decide +kernel) rfl (by decide +kernel) (by decide +kernel) (by decide +kernel); ⟨_, e⟩,
    let ⟨t, e, _⟩ := (h.2 (tReports190 4112 tRefused) (by decide +kernel)).2.2.2.2.1 _ .ok (by decide +kernel) (by decide +kernel) rfl (by decide +kernel) (by decide +kernel); ⟨_, e⟩,
    let ⟨t, _, e, _⟩ := (h.2 (tCan (fun c => { c with resetNotice := true })) (by decide +kernel)).2.2.2.2.2.1 (by decide +kernel) (by decide +kernel); ⟨_, e⟩,
    let ⟨t, e, _⟩ := (h.2 live (by decide +kernel)).2.2.2.2.2.2.1 32767 (by decide +kernel); ⟨_, e⟩,
    let ⟨t, e, _⟩ := (h.2 live (by decide +kernel)).2.2.2.2.2.2.2 (by decide +kernel); ⟨_, e⟩⟩

theorem witness_canRegisters (h : Obligations.CanRegistersWritten) :
    (∃ t, exec (.mtrSeal 1) (tCan (fun c => { c with keyOk := true, ots := none })) = .next t) ∧
    (∃ t, exec (.mtrSeal 1) (tCan (fun c => { c with ots := none })) = .next t) ∧
    (∃ t, exec (.mtrUnseal 1 true) (tCan (fun c => { c with ots := none })) = .next t) ∧
    (∃ t, exec (.mtrUnseal 1 false) (tCan (fun c => { c with ots := none })) = .next t) ∧
    (∃ t, exec (.unsealConfirm (.data 3)) (tCan (fun c => { c with ots := some 16, sealed := true })) = .next t) ∧
    (∃ t, exec (.unsealConfirm .err) (tCan (fun c => { c with ots := some 16, sealed := true })) = .next t) ∧
    (∃ t, exec (.sealedWrite 0x028 1) (tCan (fun c => { c with sealed := true })) = .next t) ∧
    (∃ t, exec (.sealedWrite 0x038 1) (tCan (fun c => { c with sealed := true })) = .next t) ∧
    (∃ t, exec (.mtrTmapData 0x8005) (live) = .next t) ∧
    (∃ t, exec (.mtrRptNow 0x100) (live) = .next t) ∧
    (∃ t, exec (.mtrDebugAccess 0) (live) = .next t) ∧
    (∃ t, exec (.mtrRst) (live) = .next t) ∧
    (∃ t, exec (.otsMAnswer (.data 9)) (tCan (fun c => { c with ots := some 3 })) = .next t) ∧
    (∃ t, exec (.otsTimeout .can) (tCan (fun c => { c with ots := some 3 })) = .next t) ∧
    (∃ t, exec (.otsMAnswer (.data 9)) (tCan (fun c => { c with ots := some 4 })) = .next t) :=
  ⟨let ⟨t, _, e, _⟩ := (h (tCan (fun c => { c with keyOk := true, ots := none })) 1 (by decide +kernel) (by decide +kernel)).1 (by decide +kernel) (by decide +kernel) (by decide +kernel); ⟨_, e⟩,
    ⟨_, (h (tCan (fun c => { c with ots := none })) 1 (by decide +kernel) (by decide +kernel)).2.1 (by decide +kernel) (by decide +kernel)⟩,
    ⟨_, (h (tCan (fun c => { c with ots := none })) 1 (by decide +kernel) (by decide +kernel)).2.2.1 (by decide +kernel) (by decide +kernel)⟩,
    let ⟨t, e, _⟩ := (h (tCan (fun c => { c with ots := none })) 1 (by decide +kernel) (by decide +kernel)).2.2.2.1 (by decide +kernel); ⟨_, e⟩,
    let ⟨t, e, _⟩ := ((h (tCan (fun c => { c with ots := some 16, sealed := true })) 1 (by decide +kernel) (by decide +kernel)).2.2.2.2.1 (by decide +kernel)).1 3; ⟨_, e⟩,
    let ⟨t, e, _⟩ := ((h (tCan (fun c => { c with ots := some 16, sealed := true })) 1 (by decide +kernel) (by decide +kernel)).2.2.2.2.1 (by decide +kernel)).2; ⟨_, e⟩,
    let ⟨t, e, _⟩ := (h (tCan (fun c => { c with sealed := true })) 1 (by decide +kernel) (by decide +kernel)).2.2.2.2.2.1 0x028 (by decide +kernel) (by decide +kernel); ⟨_, e⟩,
    let ⟨t, e, _⟩ := (h (tCan (fun c => { c with sealed := true })) 1 (by decide +kernel) (by decide +kernel)).2.2.2.2.2.1 0x038 (by decide +kernel) (by decide +kernel); ⟨_, e⟩,
    let ⟨t, e, _⟩ := (h (live) 32773 (by decide +kernel) (by decide +kernel)).2.2.2.2.2.2.1 (by decide +kernel) (by decide +kernel); ⟨_, e⟩,
    let ⟨t, _, e, _⟩ := (h (live) 256 (by decide +kernel) (by decide +kernel)).2.2.2.2.2.2.2.1 (by decide +kernel) (by decide +kernel); ⟨_, e⟩,
    let ⟨t, _, e, _⟩ := (h (live) 0 (by decide +kernel) (by decide +kernel)).2.2.2.2.2.2.2.2.1 0 (by decide +kernel); ⟨_, e⟩,
    let ⟨t, e, _⟩ := (h (live) 0 (by decide +kernel) (by decide +kernel)).2.2.2.2.2.2.2.2.2.1 ; ⟨_, e⟩,
    let ⟨t, e, _⟩ := ((h (tCan (fun c => { c with ots := some 3 })) 0 (by decide +kernel) (by decide +kernel)).2.2.2.2.2.2.2.2.2.2.1 3 9 (by decide +kernel)).1; ⟨_, e⟩,
    let ⟨t, e, _⟩ := ((h (tCan (fun c => { c with ots := some 3 })) 0 (by decide +kernel) (by decide +kernel)).2.2.2.2.2.2.2.2.2.2.1 3 9 (by decide +kernel)).2; ⟨_, e⟩,
    let ⟨t, e, _⟩ := (h (tCan (fun c => { c with ots := some 4 })) 0 (by decide +kernel) (by decide +kernel)).2.2.2.2.2.2.2.2.2.2.2 9 (by decide +kernel); ⟨_, e⟩⟩

/-- `live` with the Dipper changed. -/
def tDip (f : Dipper → Dipper) : State := { live with dip := f live.dip }
/-- A sequence of `n` snapshots, the next at tick 5,120. -/
def tSeq (n : Nat) : SnapSeq :=
  { ring := 0, index := 0, next := 5120, first := 5120, repeats := n, interval := 8, cmdId := 0, done := 0, abandoned := 0
    user := false, stop := false, armed := some (5120, 0xFF) }
/-- Its gather of tick `e` is in progress. -/
def tGather (n e acks : Nat) (closing fail : Bool) : State := tDip (fun d => { d with
  seq := some (tSeq n), gather := some (e, closing), gatherAcks := acks, gatherFail := fail })

theorem witness_dipper (h : Obligations.DipperWorks) :
    (∃ t, exec (.dipSelData 5) (live) = .next t) ∧
    (∃ t, exec (.dipSelData 5) (tDip (fun d => { d with busy := true })) = .next t) ∧
    (∃ t, exec (.selectionApply (.router 0)) (tDip (fun d => { d with waiting := [(0, 5, 5119)], busy := true })) = .next t) ∧
    (∃ t, exec (.snapshotLatch 0) (tDip (fun d => { d with seq := some (tSeq 3) })) = .next t) ∧
    (∃ t, exec (.snapshotLatch 0) (tDip (fun d => { d with seq := some (tSeq 3) })) = .next t) ∧
    (∃ t, exec (.dipperGather) (tDip (fun d => { d with seq := some (tSeq 3) })) = .next t) ∧
    (∃ t, exec (.dipperPublish) (tGather 3 5114 2 false false) = .next t) ∧
    (∃ t, exec (.dipperPublish) (tGather 3 5114 2 true false) = .next t) ∧
    (∃ t, exec (.dipperPublish) (tGather 1 5113 2 true false) = .next t) ∧
    (∃ t, exec (.gatherAbandon) (tGather 2 5112 0 false false) = .next t) ∧
    (∃ t, exec (.gatherAbandon) (tGather 2 5119 0 false true) = .next t) ∧
    (∃ t, exec (.dipSelStatus 4) (live) = .next t) ∧
    (∃ t, exec (.dipUserCtl .userCtl 0x20001) (live) = .next t) ∧
    (∃ t, exec (.dipUserCtl .userBase 0x1FFF) (live) = .next t) ∧
    (∃ t, exec (.dipUserCtl .privBase 0x1FFF) (live) = .next t) :=
  ⟨let ⟨t, _, e, _⟩ := (h live).1 5 (.router 0) (by decide +kernel) (by decide +kernel) (by decide +kernel) (by decide +kernel) (by decide +kernel); ⟨_, e⟩,
    ⟨_, (h (tDip (fun d => { d with busy := true }))).2.1 5 (by decide +kernel) (by decide +kernel) (by decide +kernel)⟩,
    let ⟨t, e, _⟩ := (h (tDip (fun d => { d with waiting := [(0, 5, 5119)], busy := true }))).2.2.1 (.router 0) 0 5119 5 (by decide +kernel) (by decide +kernel) (by decide +kernel) (by decide +kernel) (by decide +kernel) (by decide +kernel) (by decide +kernel); ⟨_, e⟩,
    let ⟨t, e, _⟩ := (h (tDip (fun d => { d with seq := some (tSeq 3) }))).2.2.2.1 0 (tSeq 3) 0 0 (by decide +kernel) (by decide +kernel) (by decide +kernel) (by decide +kernel) (by decide +kernel) (by decide +kernel) (by decide +kernel); ⟨_, e⟩,
    let ⟨t, e, _⟩ := (h (tDip (fun d => { d with seq := some (tSeq 3) }))).2.2.2.1 0 (tSeq 3) 0 15 (by decide +kernel) (by decide +kernel) (by decide +kernel) (by decide +kernel) (by decide +kernel) (by decide +kernel) (by decide +kernel); ⟨_, e⟩,
    let ⟨t, e, _⟩ := (h (tDip (fun d => { d with seq := some (tSeq 3) }))).2.2.2.2.1 (tSeq 3) (by decide +kernel) (by decide +kernel) (by decide +kernel) (by decide +kernel); ⟨_, e⟩,
    let ⟨t, e, _⟩ := (h (tGather 3 5114 2 false false)).2.2.2.2.2.1 (tSeq 3) 5114 (by decide +kernel) (by decide +kernel) (by decide +kernel) (by decide +kernel) (by decide +kernel) (by decide +kernel) (by decide +kernel); ⟨_, e⟩,
    let ⟨t, e, _⟩ := (h (tGather 3 5114 2 true false)).2.2.2.2.2.2.1 (tSeq 3) 5114 (by decide +kernel) (by decide +kernel) (by decide +kernel) (by decide +kernel) (by decide +kernel) (by decide +kernel) (by decide +kernel) (by decide +kernel); ⟨_, e⟩,
    let ⟨t, e, _⟩ := (h (tGather 1 5113 2 true false)).2.2.2.2.2.2.1 (tSeq 1) 5113 (by decide +kernel) (by decide +kernel) (by decide +kernel) (by decide +kernel) (by decide +kernel) (by decide +kernel) (by decide +kernel) (by decide +kernel); ⟨_, e⟩,
    let ⟨t, e, _⟩ := (h (tGather 2 5112 0 false false)).2.2.2.2.2.2.2.1 (tSeq 2) false 5112 (by decide +kernel) (by decide +kernel) (by decide +kernel) (by decide +kernel) (by decide +kernel) (by decide +kernel); ⟨_, e⟩,
    let ⟨t, e, _⟩ := (h (tGather 2 5119 0 false true)).2.2.2.2.2.2.2.1 (tSeq 2) false 5119 (by decide +kernel) (by decide +kernel) (by decide +kernel) (by decide +kernel) (by decide +kernel) (by decide +kernel); ⟨_, e⟩,
    ⟨_, ((h live).2.2.2.2.2.2.2.2 4 (by decide +kernel)).1⟩,
    ⟨_, ((h live).2.2.2.2.2.2.2.2 0x20001 (by decide +kernel)).2.1⟩,
    ⟨_, ((h live).2.2.2.2.2.2.2.2 0x1FFF (by decide +kernel)).2.2.1⟩,
    ⟨_, ((h live).2.2.2.2.2.2.2.2 0x1FFF (by decide +kernel)).2.2.2⟩⟩

/-! ### Modes, power, recovery, registers, test port and resets -/

/-- `live` with the always-on island changed. -/
def tAon (f : Aon → Aon) : State := { live with aon := f live.aon }
/-- A MODE_REQ for mode `m` is started on command ring 0. -/
def tModeCmd (m : Nat) : Cmd := tCmd (tDesc 0x1C (tSet 8 1 m))
def tMode (m : Nat) (f : Aon → Aon) : State :=
  { live with herd := { live.herd with started := [tModeCmd m] }, aon := f live.aon }
/-- A MODE_REQ in progress. -/
def tReqOf (target : Mode) (phase : Nat) : ModeReq :=
  { ring := 0, index := 0, target := target, source := .serve, phase := phase, drainFrom := 99000, limit := 640, s := 0, aclkEnd := 0 }
def tEntry (m : Nat) (target : Mode) (phase : Nat) (f : Aon → Aon) : State :=
  { live with
    herd := { live.herd with started := [{ tModeCmd m with ran := true }] }
    aon := f { live.aon with modeReq := some (tReqOf target phase) } }

theorem witness_modeEntries (h : Obligations.ModeEntries) :
    (∃ t, exec (.modeReqServe 0) (tMode 2 (fun a => { a with mode := .train })) = .next t) ∧
    (∃ t, exec (.modeReqServe 0) (tMode 2 (fun a => { a with exitStep := some 2, mode := .drowse })) = .next t) ∧
    (∃ t, exec (.modeReqDrowse 0) (tMode 3 id) = .next t) ∧
    (∃ t, exec (.modeReqRetain 0) (tMode 4 id) = .next t) ∧
    (∃ t, exec (.modeReqRetain 0) (tMode 4 (fun a => { a with mode := .drowse })) = .next t) ∧
    (∃ t, exec (.postedDrainDone) (tEntry 4 .retain 2 id) = .next t) ∧
    (∃ t, exec (.postedDrainDone) (tEntry 3 .drowse 2 id) = .next t) ∧
    (∃ t, exec (.drainTimeout) (tEntry 3 .drowse 2 id) = .next t) ∧
    (∃ t, exec (.quietReached) (tEntry 4 .retain 3 id) = .next t) ∧
    (∃ t, exec (.pwrcAck true) (tEntry 3 .drowse 4 (fun a => { a with pwrReq := true })) = .next t) :=
  ⟨let ⟨t, e, _⟩ := (h (tMode 2 (fun a => { a with mode := .train })) (by decide +kernel)).1 (tModeCmd 2) (by unfold onTurn; decide +kernel) (by decide +kernel) (by decide +kernel) (by decide +kernel) (by decide +kernel) (by decide +kernel); ⟨_, e⟩,
    let ⟨t, e, _⟩ := (h (tMode 2 (fun a => { a with exitStep := some 2, mode := .drowse })) (by decide +kernel)).2.1 (tModeCmd 2) (by unfold onTurn; decide +kernel) (by decide +kernel) (by decide +kernel); ⟨_, e⟩,
    let ⟨t, _, e, _⟩ := (h (tMode 3 id) (by decide +kernel)).2.2.1 (tModeCmd 3) (by unfold onTurn; decide +kernel) (by decide +kernel) (by decide +kernel) (by decide +kernel); ⟨_, e⟩,
    let ⟨t, _, e, _⟩ := (h (tMode 4 id) (by decide +kernel)).2.2.2.1 (tModeCmd 4) (by unfold onTurn; decide +kernel) (by decide +kernel) (by decide +kernel) (.inl (by decide +kernel)) (by decide +kernel); ⟨_, e⟩,
    let ⟨t, _, e, _⟩ := (h (tMode 4 (fun a => { a with mode := .drowse })) (by decide +kernel)).2.2.2.1 (tModeCmd 4) (by unfold onTurn; decide +kernel) (by decide +kernel) (by decide +kernel) (.inr (by decide +kernel)) (by decide +kernel); ⟨_, e⟩,
    ⟨_, (h (tEntry 4 .retain 2 id) (by decide +kernel)).2.2.2.2.1 (tReqOf .retain 2) (by decide +kernel) (by decide +kernel) (by decide +kernel) (by decide +kernel)⟩,
    let ⟨t, e, _⟩ := (h (tEntry 3 .drowse 2 id) (by decide +kernel)).2.2.2.2.2.1 (tReqOf .drowse 2) (by decide +kernel) (by decide +kernel) (by decide +kernel) (by decide +kernel) (by decide +kernel) (by decide +kernel) (by decide +kernel) (by unfold storeIdle; decide +kernel); ⟨_, e⟩,
    let ⟨t, _, e, _⟩ := (h (tEntry 3 .drowse 2 id) (by decide +kernel)).2.2.2.2.2.2.1 (tReqOf .drowse 2) (by decide +kernel) (by decide +kernel) (by decide +kernel) (by unfold storeIdle; decide +kernel) (by decide +kernel); ⟨_, e⟩,
    let ⟨t, e, _⟩ := (h (tEntry 4 .retain 3 id) (by decide +kernel)).2.2.2.2.2.2.2.1 (tReqOf .retain 3) (by decide +kernel) (by decide +kernel) (by decide +kernel) (by decide +kernel) (by decide +kernel); ⟨_, e⟩,
    let ⟨t, _, e, _⟩ := (h (tEntry 3 .drowse 4 (fun a => { a with pwrReq := true })) (by decide +kernel)).2.2.2.2.2.2.2.2 (tReqOf .drowse 4) (by decide +kernel) (by decide +kernel) (by decide +kernel) (by decide +kernel) (by decide +kernel) (by decide +kernel) (by decide +kernel) (by decide +kernel) (by decide +kernel); ⟨_, e⟩⟩

theorem witness_wakes (h : Obligations.WakesAndReturns) :
    (∃ t, exec (.pwrcAck false) (tAon (fun a => { a with want := some (2, 12, 1) })) = .next t) ∧
    (∃ t, exec (.pwrAckLate) (tAon (fun a => { a with pwrReq := true, pwrDue := some (.drowse, 100000) })) = .next t) ∧
    (∃ t, exec (.clkcAck 0 true) (live) = .next t) ∧
    (∃ t, exec (.clkcAck 25 true) (live) = .next t) ∧
    (∃ t, exec (.clkcRootAck true) (tAon (fun a => { a with mode := .drowse, exitStep := some 3, rootSel := true })) = .next t) ∧
    (∃ t, exec (.wakeEvent (.pin 0 true)) (tAon (fun a => { a with mode := .drowse, wakeCfg := 0x6 })) = .next t) ∧
    (∃ t, exec (.wakeEvent (.pin 7 true)) (tAon (fun a => { a with mode := .drowse, wakeCfg := 0xC00000 })) = .next t) ∧
    (∃ t, exec (.epochAlarm) (tAon (fun a => { a with alarm := 0x8000000000000000 })) = .next t) ∧
    (∃ t, exec (.drowseExit) (tAon (fun a => { a with mode := .drowse, exitStep := some 2, rootSel := true, rootAck := true })) = .next t) ∧
    (∃ t, exec (.retainReturn []) (tAon (fun a => { a with mode := .retain, retStep := some 1 })) = .next t) ∧
    (∃ t, exec (.retainReturn []) (tAon (fun a => { a with mode := .retain, retStep := some 2 })) = .next t) ∧
    (∃ t, exec (.retainReturn []) (tAon (fun a => { a with mode := .train, retStep := some 5, retS := 5120 })) = .next t) :=
  ⟨let ⟨t, e, _⟩ := (h (tAon (fun a => { a with want := some (2, 12, 1) }))).1 (2, 12, 1) (by decide +kernel) (by decide +kernel); ⟨_, e⟩,
    let ⟨t, _, e, _⟩ := (h (tAon (fun a => { a with pwrReq := true, pwrDue := some (.drowse, 100000) }))).2.1 .drowse 100000 (by decide +kernel) (by decide +kernel) (by decide +kernel) (by decide +kernel) (by decide +kernel); ⟨_, e⟩,
    let ⟨t, e, _⟩ := (h live).2.2.1 0 true (by decide +kernel); ⟨_, e⟩,
    let ⟨t, e, _⟩ := (h live).2.2.1 25 true (by decide +kernel); ⟨_, e⟩,
    let ⟨t, e, _⟩ := (h (tAon (fun a => { a with mode := .drowse, exitStep := some 3, rootSel := true }))).2.2.2.1 true (by decide +kernel) (by decide +kernel) (by decide +kernel) (by decide +kernel) (by decide +kernel); ⟨_, e⟩,
    let ⟨t, e, _⟩ := (h (tAon (fun a => { a with mode := .drowse, wakeCfg := 0x6 }))).2.2.2.2.1 0 true (by decide +kernel) (by decide +kernel) (by decide +kernel) (by decide +kernel) (by decide +kernel) (by decide +kernel); ⟨_, e⟩,
    let ⟨t, e, _⟩ := (h (tAon (fun a => { a with mode := .drowse, wakeCfg := 0xC00000 }))).2.2.2.2.1 7 true (by decide +kernel) (by decide +kernel) (by decide +kernel) (by decide +kernel) (by decide +kernel) (by decide +kernel); ⟨_, e⟩,
    ⟨_, (h (tAon (fun a => { a with alarm := 0x8000000000000000 }))).2.2.2.2.2.1 (by decide +kernel) (by decide +kernel) (by decide +kernel) (by decide +kernel)⟩,
    let ⟨t, e, _⟩ := (h (tAon (fun a => { a with mode := .drowse, exitStep := some 2, rootSel := true, rootAck := true }))).2.2.2.2.2.2.1 (by decide +kernel) (by decide +kernel) (by decide +kernel) (by decide +kernel); ⟨_, e⟩,
    let ⟨t, e, _⟩ := (h (tAon (fun a => { a with mode := .retain, retStep := some 1 }))).2.2.2.2.2.2.2.1 (by decide +kernel) (by decide +kernel) (by decide +kernel) (by decide +kernel); ⟨_, e⟩,
    let ⟨t, e, _⟩ := (h (tAon (fun a => { a with mode := .retain, retStep := some 2 }))).2.2.2.2.2.2.2.2.1 (by decide +kernel) (by decide +kernel) (by decide +kernel) (by decide +kernel) (by decide +kernel); ⟨_, e⟩,
    let ⟨t, e, _⟩ := (h (tAon (fun a => { a with mode := .train, retStep := some 5, retS := 5120 }))).2.2.2.2.2.2.2.2.2 (by decide +kernel) (by decide +kernel) (by decide +kernel) (by decide +kernel) (by decide +kernel) (by decide +kernel) (by decide +kernel) (by unfold storeIdle; decide +kernel); ⟨_, e⟩⟩

theorem witness_gating (h : Obligations.GatingAndFreeze) :
    (∃ t, exec (.clusterGate 0 1023) (tAon (fun a => { a with mode := .drowse, drowseWhey := 0x000001 })) = .next t) ∧
    (∃ t, exec (.clusterUngate 0) (tAon (fun a => { a with mode := .drowse, gated := 0x800001 })) = .next t) ∧
    (∃ t, exec (.clusterUngate 23) (tAon (fun a => { a with mode := .drowse, gated := 0x800001 })) = .next t) ∧
    (∃ t, exec (.freeze) (tAon (fun a => { a with mode := .serve })) = .next t) ∧
    (∃ t, exec (.freeze) (tAon (fun a => { a with mode := .drowse })) = .next t) ∧
    (∃ t, exec (.freeze) (tAon (fun a => { a with mode := .train })) = .next t) ∧
    (∃ t, exec (.freeze) (tAon (fun a => { a with mode := .recover })) = .next t) ∧
    (∃ t, exec (.thaw) (tAon (fun a => { a with mode := .freeze, freezeFrom := .serve, freezePin := true })) = .next t) :=
  ⟨let ⟨t, e, _⟩ := (h (tAon (fun a => { a with mode := .drowse, drowseWhey := 0x000001 }))).1 0 1023 (by decide +kernel) (by decide +kernel) (by decide +kernel) (by decide +kernel) (by decide +kernel); ⟨_, e⟩,
    let ⟨t, e, _⟩ := (h (tAon (fun a => { a with mode := .drowse, gated := 0x800001 }))).2.1 0 (by decide +kernel); ⟨_, e⟩,
    let ⟨t, e, _⟩ := (h (tAon (fun a => { a with mode := .drowse, gated := 0x800001 }))).2.1 23 (by decide +kernel); ⟨_, e⟩,
    let ⟨t, e, _⟩ := (h (tAon (fun a => { a with mode := .serve }))).2.2.1 (by decide +kernel); ⟨_, e⟩,
    let ⟨t, e, _⟩ := (h (tAon (fun a => { a with mode := .drowse }))).2.2.1 (by decide +kernel); ⟨_, e⟩,
    let ⟨t, e, _⟩ := (h (tAon (fun a => { a with mode := .train }))).2.2.1 (by decide +kernel); ⟨_, e⟩,
    let ⟨t, e, _⟩ := (h (tAon (fun a => { a with mode := .recover }))).2.2.1 (by decide +kernel); ⟨_, e⟩,
    let ⟨t, e, _⟩ := (h (tAon (fun a => { a with mode := .freeze, freezeFrom := .serve, freezePin := true }))).2.2.2 (by decide +kernel) (by decide +kernel) (by decide +kernel) (by decide +kernel) (by decide +kernel) (by decide +kernel) (by decide +kernel) (by decide +kernel) (by decide +kernel); ⟨_, e⟩⟩

/-- A due line in every bank of cluster 0, which holds router 0. -/
def tDue : State := { live with churn := { Churn.reset with due := tabAll 24 1, crockDue := 1, copying := [({ unit := .router 0, table := 0, lbank := 1 }, 3)] } }
def tBank (t : Nat) : BankRef := { unit := .router (hubOf 0), table := t, lbank := 0 }
def tNiBank (t : Nat) : BankRef := { unit := .ni (slotAt 0 0), table := t, lbank := 7 }
/-- The valid-bit group of row 0 has failed its parity in both. -/
def tGroupBad : State :=
  { tDue with churn := { tDue.churn with groupBad := [(tBank 4, 0, [.other]), (tNiBank 1, 0, [.other])] } }
/-- NI 20 is being recovered since epoch 5,112. -/
def tNiRec : State := at_ 20 (fun x => { x with
  closed := true, recovering := some { start := 5112, discarded := 0, stores := 0, quarantined := 0 } })

theorem witness_dataKept (h : Obligations.DataKeptAndFaultsMet) :
    (∃ t, exec (.scrubLine (tBank 4) 0 []) (tDue) = .next t) ∧
    (∃ t, exec (.scrubForce (tNiBank 1) 0 []) (tDue) = .next t) ∧
    (∃ t, exec (.scrubLine (tNiBank 1) 0 []) (tDue) = .next t) ∧
    (∃ t, exec (.scrubLine (tBank 4) 0 [(.single 1, .pailWord 0)]) (tDue) = .next t) ∧
    (∃ t, exec (.scrubForce (tNiBank 1) 0 [(.single 1, .pailWord 0)]) (tDue) = .next t) ∧
    (∃ t, exec (.scrubLine (tBank 4) 0 [(.group, .other)]) (tDue) = .next t) ∧
    (∃ t, exec (.scrubLine (tBank 4) 0 [(.group, .other)]) (tGroupBad) = .next t) ∧
    (∃ t, exec (.scrubForce (tNiBank 1) 0 [(.group, .other)]) (tDue) = .next t) ∧
    (∃ t, exec (.scrubForce (tNiBank 1) 0 [(.group, .other)]) (tGroupBad) = .next t) ∧
    (∃ t, exec (.bankCopyDone { unit := .router 0, table := 0, lbank := 1 }) (tDue) = .next t) ∧
    (∃ t, exec (.clusterClockLost 0) (live) = .next t) ∧
    (∃ t, exec (.clusterClockLost 23) (live) = .next t) ∧
    (∃ t, exec (.routerStateUe 0) (live) = .next t) ∧
    (∃ t, exec (.routerStateUe 95) (live) = .next t) ∧
    (∃ t, exec (.herdStateUe) (live) = .next t) ∧
    (∃ t, exec (.niStateParity 20) (live) = .next t) ∧
    (∃ t, exec (.cdcPtr 20 .request) (live) = .next t) ∧
    (∃ t, exec (.niRecoveryDone 20 []) (tNiRec) = .next t) :=
  ⟨let ⟨t, e, _⟩ := (h.1 tDue (tBank 4) 0).1 (.scrubLine (tBank 4) 0 []) (.inl rfl) (by decide +kernel) (by decide +kernel) (by decide +kernel) (by decide +kernel) (by decide +kernel); ⟨_, e⟩,
    let ⟨t, e, _⟩ := (h.1 tDue (tNiBank 1) 0).1 (.scrubForce (tNiBank 1) 0 []) (.inr ⟨rfl, (by decide +kernel)⟩) (by decide +kernel) (by decide +kernel) (by decide +kernel) (by decide +kernel) (by decide +kernel); ⟨_, e⟩,
    let ⟨t, e, _⟩ := (h.1 tDue (tNiBank 1) 0).1 (.scrubLine (tNiBank 1) 0 []) (.inl rfl) (by decide +kernel) (by decide +kernel) (by decide +kernel) (by decide +kernel) (by decide +kernel); ⟨_, e⟩,
    let ⟨t, e, _⟩ := (h.1 tDue (tBank 4) 0).2.1 (.scrubLine (tBank 4) 0 [(.single 1, .pailWord 0)]) 1 (.pailWord 0) (.inl rfl) (by decide +kernel) (by decide +kernel) (by decide +kernel) (by decide +kernel) (by decide +kernel); ⟨_, e⟩,
    let ⟨t, e, _⟩ := (h.1 tDue (tNiBank 1) 0).2.1 (.scrubForce (tNiBank 1) 0 [(.single 1, .pailWord 0)]) 1 (.pailWord 0) (.inr ⟨rfl, (by decide +kernel)⟩) (by decide +kernel) (by decide +kernel) (by decide +kernel) (by decide +kernel) (by decide +kernel); ⟨_, e⟩,
    let ⟨t, _, e, _⟩ := ((h.1 tDue (tBank 4) 0).2.2.1 (.scrubLine (tBank 4) 0 [(.group, .other)]) (.inl rfl) (by decide +kernel) (by decide +kernel) (by decide +kernel) (by decide +kernel) (by decide +kernel)).1 (by decide +kernel); ⟨_, e⟩,
    let ⟨t, e, _⟩ := ((h.1 tGroupBad (tBank 4) 0).2.2.1 (.scrubLine (tBank 4) 0 [(.group, .other)]) (.inl rfl) (by decide +kernel) (by decide +kernel) (by decide +kernel) (by decide +kernel) (by decide +kernel)).2 (by decide +kernel); ⟨_, e⟩,
    let ⟨t, _, e, _⟩ := ((h.1 tDue (tNiBank 1) 0).2.2.1 (.scrubForce (tNiBank 1) 0 [(.group, .other)]) (.inr ⟨rfl, (by decide +kernel)⟩) (by decide +kernel) (by decide +kernel) (by decide +kernel) (by decide +kernel) (by decide +kernel)).1 (by decide +kernel); ⟨_, e⟩,
    let ⟨t, e, _⟩ := ((h.1 tGroupBad (tNiBank 1) 0).2.2.1 (.scrubForce (tNiBank 1) 0 [(.group, .other)]) (.inr ⟨rfl, (by decide +kernel)⟩) (by decide +kernel) (by decide +kernel) (by decide +kernel) (by decide +kernel) (by decide +kernel)).2 (by decide +kernel); ⟨_, e⟩,
    let ⟨t, e, _⟩ := (h.1 tDue { unit := .router 0, table := 0, lbank := 1 } 0).2.2.2 (by decide +kernel); ⟨_, e⟩,
    let ⟨t, e, _⟩ := (h.2 live).1 0 (by decide +kernel); ⟨_, e⟩,
    let ⟨t, e, _⟩ := (h.2 live).1 23 (by decide +kernel); ⟨_, e⟩,
    let ⟨t, e, _⟩ := (h.2 live).2.1 0 (by decide +kernel) (by decide +kernel); ⟨_, e⟩,
    let ⟨t, e, _⟩ := (h.2 live).2.1 95 (by decide +kernel) (by decide +kernel); ⟨_, e⟩,
    let ⟨t, e, _⟩ := (h.2 live).2.2.1 (by decide +kernel); ⟨_, e⟩,
    let ⟨t, e, _⟩ := (h.2 live).2.2.2.1 20 .request (.niStateParity 20) .niStateParity (.inl ⟨rfl, rfl⟩) (by decide +kernel) (by decide +kernel) (by decide +kernel) (by decide +kernel) (by decide +kernel) (by decide +kernel); ⟨_, e⟩,
    let ⟨t, e, _⟩ := (h.2 live).2.2.2.1 20 .request (.cdcPtr 20 .request) .cdcPtr (.inr ⟨rfl, rfl⟩) (by decide +kernel) (by decide +kernel) (by decide +kernel) (by decide +kernel) (by decide +kernel) (by decide +kernel); ⟨_, e⟩,
    let ⟨t, e, _⟩ := (h.2 tNiRec).2.2.2.2 20 { start := 5112, discarded := 0, stores := 0, quarantined := 0 } (by decide +kernel) (by decide +kernel) (by decide +kernel); ⟨_, e⟩⟩

def tClRec (st att : Nat) : ClusterRec :=
  { step := st, attempts := att, start := 5112, discarded := 0, stores := 0, quarantined := 0, clkAsked := 99000 }
/-- Cluster 7 at a step of its recovery, its clock stopped or running. -/
def tCluster (st att : Nat) (clk : Bool) : State :=
  { live with
    recov := { Recovery.reset with clusters := tupd Recovery.reset.clusters 7 (fun _ => some (tClRec st att)) }
    aon := { live.aon with clkAck := if clk then 0x3FFFFFF else 0x3FFFF7F } }
def tDieRec (st : Nat) : DieRec := { step := st, restarts := 0, start := 5100, since := 5104, discarded := 0, stores := 0, quarantined := 0 }
def tDie (st : Nat) : State :=
  { live with recov := { Recovery.reset with die := some (tDieRec st) }, aon := { live.aon with mode := .recover } }

theorem witness_recoverySteps (h : Obligations.RecoverySteps) :
    (∃ t, exec (.clusterRecoveryStep 7 []) (tCluster 1 1 true) = .next t) ∧
    (∃ t, exec (.clusterRecoveryStep 7 []) (tCluster 2 1 true) = .next t) ∧
    (∃ t, exec (.clusterRecoveryStep 7 []) (tCluster 3 1 true) = .next t) ∧
    (∃ t, exec (.clusterRecoveryStep 7 []) (tCluster 4 1 true) = .next t) ∧
    (∃ t, exec (.clusterRecoveryStep 7 []) (tCluster 5 1 true) = .next t) ∧
    (∃ t, exec (.clusterRecoveryStep 7 []) (tCluster 6 1 true) = .next t) ∧
    (∃ t, exec (.clusterRecoveryRestart 7) (tCluster 2 1 false) = .next t) ∧
    (∃ t, exec (.clusterRecoveryRestart 7) (tCluster 2 2 false) = .next t) ∧
    (∃ t, exec (.clusterRecoveryRestart 7) (tCluster 2 3 false) = .next t) ∧
    (∃ t, exec (.dieRecoveryStep []) (tDie 1) = .next t) ∧
    (∃ t, exec (.dieRecoveryStep []) (tDie 2) = .next t) ∧
    (∃ t, exec (.dieRecoveryStep []) (tDie 3) = .next t) ∧
    (∃ t, exec (.dieRecoveryStep []) (tDie 4) = .next t) ∧
    (∃ t, exec (.dieRecoveryStep []) (tDie 5) = .next t) :=
  ⟨let ⟨t, e, _⟩ := ((h (tCluster 1 1 true) (by decide +kernel)).1 7 (tClRec 1 1) (by decide +kernel) (by decide +kernel)).1 (by decide +kernel) (by decide +kernel) (by decide +kernel); ⟨_, e⟩,
    let ⟨t, e, _⟩ := ((h (tCluster 2 1 true) (by decide +kernel)).1 7 (tClRec 2 1) (by decide +kernel) (by decide +kernel)).1 (by decide +kernel) (by decide +kernel) (by decide +kernel); ⟨_, e⟩,
    let ⟨t, e, _⟩ := ((h (tCluster 3 1 true) (by decide +kernel)).1 7 (tClRec 3 1) (by decide +kernel) (by decide +kernel)).1 (by decide +kernel) (by decide +kernel) (by decide +kernel); ⟨_, e⟩,
    let ⟨t, e, _⟩ := ((h (tCluster 4 1 true) (by decide +kernel)).1 7 (tClRec 4 1) (by decide +kernel) (by decide +kernel)).1 (by decide +kernel) (by decide +kernel) (by decide +kernel); ⟨_, e⟩,
    let ⟨t, e, _⟩ := ((h (tCluster 5 1 true) (by decide +kernel)).1 7 (tClRec 5 1) (by decide +kernel) (by decide +kernel)).1 (by decide +kernel) (by decide +kernel) (by decide +kernel); ⟨_, e⟩,
    let ⟨t, e, _⟩ := ((h (tCluster 6 1 true) (by decide +kernel)).1 7 (tClRec 6 1) (by decide +kernel) (by decide +kernel)).2 (by decide +kernel); ⟨_, e⟩,
    let ⟨t, e, _⟩ := ((h (tCluster 2 1 false) (by decide +kernel)).2.1 7 (tClRec 2 1) (by decide +kernel) (by decide +kernel) (by decide +kernel) (by decide +kernel)).1 (by decide +kernel); ⟨_, e⟩,
    let ⟨t, e, _⟩ := ((h (tCluster 2 2 false) (by decide +kernel)).2.1 7 (tClRec 2 2) (by decide +kernel) (by decide +kernel) (by decide +kernel) (by decide +kernel)).1 (by decide +kernel); ⟨_, e⟩,
    let ⟨t, e, _⟩ := ((h (tCluster 2 3 false) (by decide +kernel)).2.1 7 (tClRec 2 3) (by decide +kernel) (by decide +kernel) (by decide +kernel) (by decide +kernel)).2 (by decide +kernel); ⟨_, e⟩,
    let ⟨t, e, _⟩ := ((h (tDie 1) (by decide +kernel)).2.2 (tDieRec 1) (by decide +kernel) (by decide +kernel)).1 (by decide +kernel) (by decide +kernel) (by decide +kernel) (by decide +kernel); ⟨_, e⟩,
    let ⟨t, e, _⟩ := ((h (tDie 2) (by decide +kernel)).2.2 (tDieRec 2) (by decide +kernel) (by decide +kernel)).1 (by decide +kernel) (by decide +kernel) (by decide +kernel) (by decide +kernel); ⟨_, e⟩,
    let ⟨t, e, _⟩ := ((h (tDie 3) (by decide +kernel)).2.2 (tDieRec 3) (by decide +kernel) (by decide +kernel)).1 (by decide +kernel) (by decide +kernel) (by decide +kernel) (by decide +kernel); ⟨_, e⟩,
    let ⟨t, e, _⟩ := ((h (tDie 4) (by decide +kernel)).2.2 (tDieRec 4) (by decide +kernel) (by decide +kernel)).1 (by decide +kernel) (by decide +kernel) (by decide +kernel) (by decide +kernel); ⟨_, e⟩,
    let ⟨t, e, _⟩ := ((h (tDie 5) (by decide +kernel)).2.2 (tDieRec 5) (by decide +kernel) (by decide +kernel)).2 (by decide +kernel); ⟨_, e⟩⟩

theorem witness_setupRegisters (h : Obligations.SetupRegistersWritten) :
    (∃ t, exec (.fabLock 1) (live) = .next t) ∧
    (∃ t, exec (.fabWin 0x40000) (live) = .next t) ∧
    (∃ t, exec (.fabWin 1) (tHerd (fun h => { h with lock := true })) = .next t) ∧
    (∃ t, exec (.stwRing 0 1) (tHerd (fun h => { h with lock := true })) = .next t) ∧
    (∃ t, exec (.stwRing 13 1) (tRings 13 id) = .next t) ∧
    (∃ t, exec (.stwRing 0 0x8010000000000000) (tHerd (fun h => { h with windows := tabAll 16 0x8000000000000000 })) = .next t) ∧
    (∃ t, exec (.stwRing 8 0x8010000000000000) (tHerd (fun h => { h with windows := tabAll 16 0x8000000000000000 })) = .next t) ∧
    (∃ t, exec (.stwRingCtl 0x3FFF) (live) = .next t) ∧
    (∃ t, exec (.stwDbw 0 0x8000000000001000) (live) = .next t) ∧
    (∃ t, exec (.stwDbw 15 0x8000000000001000) (live) = .next t) ∧
    (∃ t, exec (.stwDbw 3 1) (tHerd (fun h => { h with lock := true })) = .next t) ∧
    (∃ t, exec (.stwDbw 0 1) (tRings 0 id) = .next t) ∧
    (∃ t, exec (.stwIrqMask 3) (live) = .next t) ∧
    (∃ t, exec (.stwIrqCause 0x280) (live) = .next t) ∧
    (∃ t, exec (.stwIntr 0 true 8) (live) = .next t) ∧
    (∃ t, exec (.stwIntr 0 false 8) (live) = .next t) ∧
    (∃ t, exec (.stwIntr 5 true 8) (live) = .next t) ∧
    (∃ t, exec (.stwIntr 5 false 8) (live) = .next t) ∧
    (∃ t, exec (.crkRearm 3) (live) = .next t) ∧
    (∃ t, exec (.crkRearm 0) (live) = .next t) ∧
    (∃ t, exec (.pwrWakeCfg 6) (live) = .next t) ∧
    (∃ t, exec (.pwrAlarm 6) (live) = .next t) ∧
    (∃ t, exec (.pwrDrain 6) (live) = .next t) ∧
    (∃ t, exec (.registerWrite 0x8 6 0xFE) (live) = .next t) ∧
    (∃ t, exec (.registerWrite 0x2008 6 0xFF) (live) = .next t) :=
  ⟨let ⟨t, e, _⟩ := (h (live) 1 (by decide +kernel)).1  ; ⟨_, e⟩,
    ⟨_, (h (live) 0x40000 (by decide +kernel)).2.1  (by decide +kernel) (by decide +kernel)⟩,
    ⟨_, (h (tHerd (fun h => { h with lock := true })) 1 (by decide +kernel)).2.2.1  (by decide +kernel) (by decide +kernel)⟩,
    ⟨_, (h (tHerd (fun h => { h with lock := true })) 1 (by decide +kernel)).2.2.2.1 0 (.inl (by decide +kernel)) ⟩,
    ⟨_, (h (tRings 13 id) 1 (by decide +kernel)).2.2.2.1 13 (.inr (by decide +kernel)) ⟩,
    let ⟨t, e, _⟩ := (h (tHerd (fun h => { h with windows := tabAll 16 0x8000000000000000 })) 0x8010000000000000 (by decide +kernel)).2.2.2.2.1 0 (by decide +kernel) (by decide +kernel) (by decide +kernel) (by decide +kernel); ⟨_, e⟩,
    let ⟨t, e, _⟩ := (h (tHerd (fun h => { h with windows := tabAll 16 0x8000000000000000 })) 0x8010000000000000 (by decide +kernel)).2.2.2.2.1 8 (by decide +kernel) (by decide +kernel) (by decide +kernel) (by decide +kernel); ⟨_, e⟩,
    let ⟨t, e, _⟩ := (h (live) 0x3FFF (by decide +kernel)).2.2.2.2.2.1  ; ⟨_, e⟩,
    let ⟨t, e, _⟩ := (h (live) 0x8000000000001000 (by decide +kernel)).2.2.2.2.2.2.1 0 (by decide +kernel) (by decide +kernel); ⟨_, e⟩,
    let ⟨t, e, _⟩ := (h (live) 0x8000000000001000 (by decide +kernel)).2.2.2.2.2.2.1 15 (by decide +kernel) (by decide +kernel); ⟨_, e⟩,
    ⟨_, (h (tHerd (fun h => { h with lock := true })) 1 (by decide +kernel)).2.2.2.2.2.2.2.1 3 (.inl (by decide +kernel)) ⟩,
    ⟨_, (h (tRings 0 id) 1 (by decide +kernel)).2.2.2.2.2.2.2.1 0 (.inr (by decide +kernel)) ⟩,
    ⟨_, (h (live) 3 (by decide +kernel)).2.2.2.2.2.2.2.2.1  ⟩,
    let ⟨t, e, _⟩ := (h (live) 0x280 (by decide +kernel)).2.2.2.2.2.2.2.2.2.1  ; ⟨_, e⟩,
    let ⟨t, e, _⟩ := ((h live 8 (by decide +kernel)).2.2.2.2.2.2.2.2.2.2.1 0).1; ⟨_, e⟩,
    let ⟨t, e, _⟩ := ((h live 8 (by decide +kernel)).2.2.2.2.2.2.2.2.2.2.1 0).2; ⟨_, e⟩,
    let ⟨t, e, _⟩ := ((h live 8 (by decide +kernel)).2.2.2.2.2.2.2.2.2.2.1 5).1; ⟨_, e⟩,
    let ⟨t, e, _⟩ := ((h live 8 (by decide +kernel)).2.2.2.2.2.2.2.2.2.2.1 5).2; ⟨_, e⟩,
    let ⟨t, e, _⟩ := (h (live) 3 (by decide +kernel)).2.2.2.2.2.2.2.2.2.2.2.1  ; ⟨_, e⟩,
    let ⟨t, e, _⟩ := (h (live) 0 (by decide +kernel)).2.2.2.2.2.2.2.2.2.2.2.1  ; ⟨_, e⟩,
    let ⟨t, e, _⟩ := (h (live) 6 (by decide +kernel)).2.2.2.2.2.2.2.2.2.2.2.2.1  (by decide +kernel) (by decide +kernel); ⟨_, e⟩,
    ⟨_, (h (live) 6 (by decide +kernel)).2.2.2.2.2.2.2.2.2.2.2.2.2.1  ⟩,
    ⟨_, (h (live) 6 (by decide +kernel)).2.2.2.2.2.2.2.2.2.2.2.2.2.2.1  ⟩,
    ⟨_, (h (live) 6 (by decide +kernel)).2.2.2.2.2.2.2.2.2.2.2.2.2.2.2.1 0x8 0xFE (by decide +kernel)⟩,
    ⟨_, (h (live) 6 (by decide +kernel)).2.2.2.2.2.2.2.2.2.2.2.2.2.2.2.2  (by decide +kernel)⟩⟩

/-- A read by the debug master of line 5 at slot 20, and a state in which it may ask. -/
def tDbgHead : Flit := tHead opRdLine 191 20 0 0 5
def tDbg : State := tAon (fun a => { a with dbgAuth := true })
/-- One flit of a response waits at slot 191, which takes no request. -/
def tDbgOut : State := updN live 191 (fun x => { x with reqReady := false, out := [.rsp [tBody 1 1]] })

theorem witness_testPort (h : Obligations.TestPortWorks) :
    (∃ t, exec (.idcode) (live) = .next t) ∧
    (∃ t, exec (.testEntry true) (tAon (fun a => { a with mode := .reset })) = .next t) ∧
    (∃ t, exec (.frzHold true) (tAon (fun a => { a with dbgAuth := true })) = .next t) ∧
    (∃ t, exec (.frzHold true) (live) = .next t) ∧
    (∃ t, exec (.frzRead 0) (tAon (fun a => { a with mode := .freeze, dbgAuth := true })) = .next t) ∧
    (∃ t, exec (.frzRead 0) (tAon (fun a => { a with mode := .freeze })) = .next t) ∧
    (∃ t, exec (.frzRead 0) (live) = .next t) ∧
    (∃ t, exec (.dbgMaster tDbgHead false false) (live) = .next t) ∧
    (∃ t, exec (.dbgMaster tDbgHead false false) (tDbgOut) = .next t) ∧
    (∃ t, exec (.bypass 0x00) (live) = .next t) ∧
    (∃ t, exec (.bypass 0xFF) (live) = .next t) ∧
    (∃ t, exec (.tapReset) (live) = .next t) :=
  ⟨let ⟨t, e, _⟩ := (h live).1; ⟨_, e⟩,
    let ⟨t, e, _⟩ := (h (tAon (fun a => { a with mode := .reset }))).2.1 (by decide +kernel); ⟨_, e⟩,
    let ⟨t, e, _⟩ := (h (tAon (fun a => { a with dbgAuth := true }))).2.2.1 (by decide +kernel) (by decide +kernel); ⟨_, e⟩,
    let ⟨t, e, _⟩ := (h live).2.2.2.1 (by decide +kernel); ⟨_, e⟩,
    let ⟨t, e, _⟩ := (h (tAon (fun a => { a with mode := .freeze, dbgAuth := true }))).2.2.2.2.1 0 (by decide +kernel) (by decide +kernel); ⟨_, e⟩,
    let ⟨t, e, _⟩ := (h (tAon (fun a => { a with mode := .freeze }))).2.2.2.2.2.1 0 (by decide +kernel) (by decide +kernel); ⟨_, e⟩,
    let ⟨t, e, _⟩ := (h live).2.2.2.2.2.2.1 0 (by decide +kernel); ⟨_, e⟩,
    let ⟨t, e, _⟩ := (h live).2.2.2.2.2.2.2.1 tDbgHead false (by decide +kernel) (by unfold offered clean operandClean soundWords; decide +kernel) (by decide +kernel) (by unfold unpoliced; decide +kernel) (by unfold admitted; decide +kernel); ⟨_, e⟩,
    let ⟨t, e, _⟩ := (h tDbgOut).2.2.2.2.2.2.2.2.1 tDbgHead (tBody 1 1) false [] (by decide +kernel) (by decide +kernel) (by decide +kernel); ⟨_, e⟩,
    ⟨_, (h live).2.2.2.2.2.2.2.2.2.1 0x00 (by decide +kernel) (by decide +kernel) (by decide +kernel) (by decide +kernel) (by decide +kernel)⟩,
    ⟨_, (h live).2.2.2.2.2.2.2.2.2.1 0xFF (by decide +kernel) (by decide +kernel) (by decide +kernel) (by decide +kernel) (by decide +kernel)⟩,
    ⟨_, (h live).2.2.2.2.2.2.2.2.2.2 (by decide +kernel)⟩⟩

theorem witness_resets (h : Obligations.ResetsWork) :
    (∃ t, exec (.hardReset) (live) = .next t) ∧
    (∃ t, exec (.warmReset) (live) = .next t) ∧
    (∃ t, exec (.warmReset) (tAon (fun a => { a with mode := .test })) = .next t) ∧
    (∃ t, exec (.supplyPowerOn) (live) = .next t) ∧
    (∃ t, exec (.bootWordRead (.data 5)) (tAon (fun a => { a with mode := .reset, bootWords := List.replicate 0 none })) = .next t) ∧
    (∃ t, exec (.bootWordRead (.data 5)) (tAon (fun a => { a with mode := .reset, bootWords := List.replicate 255 none })) = .next t) ∧
    (∃ t, exec (.otsTimeout .boot) (tAon (fun a => { a with mode := .reset, bootWords := List.replicate 255 none })) = .next t) ∧
    (∃ t, exec (.resetSequenceComplete) (tAon (fun a => { a with mode := .reset, bootWords := List.replicate 256 none })) = .next t) :=
  ⟨let ⟨t, e, _⟩ := (h live).1; ⟨_, e⟩,
    let ⟨t, e, _⟩ := (h live).2.1 (by decide +kernel); ⟨_, e⟩,
    ⟨_, (h (tAon (fun a => { a with mode := .test }))).2.2.1 (by decide +kernel)⟩,
    let ⟨t, e, _⟩ := (h live).2.2.2.1; ⟨_, e⟩,
    ⟨_, ((h (tAon (fun a => { a with mode := .reset, bootWords := List.replicate 0 none }))).2.2.2.2.1 (.data 5) (by decide +kernel) (by decide +kernel)).1 5 rfl⟩,
    ⟨_, ((h (tAon (fun a => { a with mode := .reset, bootWords := List.replicate 255 none }))).2.2.2.2.1 (.data 5) (by decide +kernel) (by decide +kernel)).1 5 rfl⟩,
    let ⟨t, e, _⟩ := ((h (tAon (fun a => { a with mode := .reset, bootWords := List.replicate 255 none }))).2.2.2.2.1 .err (by decide +kernel) (by decide +kernel)).2; ⟨_, e⟩,
    let ⟨t, e, _⟩ := (h (tAon (fun a => { a with mode := .reset, bootWords := List.replicate 256 none }))).2.2.2.2.2 (by decide +kernel) (by decide +kernel) (by decide +kernel); ⟨_, e⟩⟩

/-! ### Reset, unused offsets and invariants -/

theorem witness_setsAfterReset (h : Obligations.SetsAfterReset) :
    (∃ t, exec (.hardReset) (live) = .next t) ∧
    (∃ t, exec (.warmReset) (live) = .next t) ∧
    (∃ t, exec (.cfgWrite 0 []) (tTurn (tDesc 0x01 (tSet 8 1 0 ∘ tSet 10 2 itLockLease ∘ tSet 12 2 20 ∘ tSet 18 2 1 ∘ tSet 32 2 7))) = .next t) :=
  ⟨let ⟨t, e, _⟩ := h.1 live .hardReset (.inl rfl); ⟨_, e⟩,
    let ⟨t, e, _⟩ := h.1 live .warmReset (.inr ⟨rfl, (by decide +kernel)⟩); ⟨_, e⟩,
    let ⟨t, e, _⟩ := h.2 (tTurn (tDesc 0x01 (tSet 8 1 0 ∘ tSet 10 2 itLockLease ∘ tSet 12 2 20 ∘ tSet 18 2 1 ∘ tSet 32 2 7))) (tCmd (tDesc 0x01 (tSet 8 1 0 ∘ tSet 10 2 itLockLease ∘ tSet 12 2 20 ∘ tSet 18 2 1 ∘ tSet 32 2 7))) [] (by decide +kernel) (by unfold onTurn; decide +kernel) (by decide +kernel); ⟨_, e⟩⟩

theorem witness_unusedOffsets (h : Obligations.UnusedOffsets) :
    (readReg live 0x0030 false).2 = 0 ∧ (readReg live 0xFFF8 false).2 = 0 ∧ (readReg live 0x5068 true).2 = 0 :=
  ⟨(h live 0x0030 0 false (by decide +kernel) (by decide +kernel)).1, (h live 0xFFF8 0 false (by decide +kernel) (by decide +kernel)).1, (h live 0x5068 0 true (by decide +kernel) (by decide +kernel)).1⟩

/-- Set B is written by the next step. -/
def tCfgNext : State := { tTurn (tDesc 0x01 (tSet 8 1 1 ∘ tSet 10 2 itLockLease ∘ tSet 12 2 20 ∘ tSet 18 2 1 ∘ tSet 32 2 7)) with pending := [.cfgWrite 0 []] }

theorem witness_configSetsCanonical (h : Obligations.StepKeepsConfigSetsCanonical) :
    ∃ t, step tCfgNext = .next t ∧ setsCanonical t :=
  ⟨_, rfl, h tCfgNext _ (by unfold setsCanonical; decide +kernel) rfl⟩

/-- An event is reported by the next step. -/
def tEventNext : State := { tHerd (fun h => { h with reports := [mkEvent .routerStateUe .router 0 1 5120 0 0] }) with pending := [.eventReport] }

theorem witness_crockCanonical (h : Obligations.StepKeepsCrockCanonical) :
    ∃ t, step tEventNext = .next t ∧ crockCanonical t :=
  ⟨_, rfl, h tEventNext _ (by unfold crockCanonical; decide +kernel) rfl⟩

theorem witness_frontCommand (h : Obligations.StepRunsFrontCommand) :
    step { live with pending := [.tapReset] } = exec .tapReset live ∧
    step live = .next { live with aon := { live.aon with aclk := live.aon.aclk + 1 } } :=
  ⟨h.1 live .tapReset [], h.2 live (by decide +kernel)⟩

end
end

/-! ## Offsets of the register window that hold no register (R11, R369): what a read and a write of the window do
there, page by page. -/

namespace Sys2Proof.Proofs
open Sys2Proof.Machine Sys2Proof.Safety

/-! ### The offsets within a page that hold no register -/

section Pages
variable {s : State} {o : Nat} {v : Word}

theorem readFab_unused (h : 0x028 < o) : readFab s o = 0 := by
  unfold readFab
  repeat rw [if_neg (by omega)]

theorem writeFab_unused (h : 0x028 < o) : writeFab s o v = s := by
  unfold writeFab
  repeat rw [if_neg (by omega)]

/-- The offsets of page STW_ between and after its registers (R515–R518). -/
def stwGap (o : Nat) : Prop :=
  0x010 < o ∧ o < 0x040 ∨ 0x0A8 < o ∧ o < 0x100 ∨ 0x128 < o ∧ o < 0x140 ∨ 0x168 < o ∧ o < 0x180 ∨
    0x188 < o ∧ o < 0x200 ∨ 0x278 < o

theorem readStw_unused (h : stwGap o) : readStw s o = 0 := by
  unfold stwGap at h
  unfold readStw
  repeat rw [if_neg (by omega)]

theorem writeStw_unused (h : stwGap o) : writeStw s o v = s := by
  unfold stwGap at h
  unfold writeStw
  repeat rw [if_neg (by omega)]

/-- The offsets of page PWR_ between and after its registers (R519–R521). -/
def pwrGap (o : Nat) : Prop := 0x048 < o ∧ o < 0x080 ∨ 0x0B8 < o

theorem readPwr_unused (h : pwrGap o) : readPwr s o = 0 := by
  unfold pwrGap at h
  unfold readPwr
  repeat rw [if_neg (by omega)]

theorem writePwr_unused (h : pwrGap o) : writePwr s o v = s := by
  unfold pwrGap at h
  unfold writePwr
  repeat rw [if_neg (by omega)]

theorem readDip_unused (h : 0x030 < o) : readDip s o = 0 := by
  rw [readDip] <;> omega

theorem writeDip_unused (h : 0x030 < o) : writeDip s o v = s := by
  unfold writeDip
  repeat rw [if_neg (by omega)]

theorem readCrk_unused (h : 0x010 < o) : readCrk s o = 0 := by
  unfold readCrk
  repeat rw [if_neg (by omega)]

theorem writeCrk_unused (h : 0x010 < o) : writeCrk s o v = s := if_neg (by omega)

theorem readMtr_unused (h : 0x060 < o) : readMtr s o = 0 := by
  rw [readMtr] <;> omega

theorem writeMtr_unused (h : 0x060 < o) : writeMtr s o v = s := by
  rw [writeMtr] <;> omega

end Pages

/-! ### The window -/

/-- Where an offset that holds no register lies: in a gap of one of the six pages, or beyond them (R503, R504). -/
theorem gap_of_holdsRegister_false {off : Nat} (h : holdsRegister off = false) :
    off / 4096 = 0 ∧ 0x028 < off % 4096 / 8 * 8 ∨ off / 4096 = 1 ∧ stwGap (off % 4096 / 8 * 8) ∨
    off / 4096 = 2 ∧ pwrGap (off % 4096 / 8 * 8) ∨ off / 4096 = 3 ∧ 0x030 < off % 4096 / 8 * 8 ∨
    off / 4096 = 4 ∧ 0x010 < off % 4096 / 8 * 8 ∨ off / 4096 = 5 ∧ 0x060 < off % 4096 / 8 * 8 ∨ 5 < off / 4096 := by
  unfold holdsRegister at h
  generalize off / 4096 = p, off % 4096 / 8 * 8 = o at h ⊢
  match p with
  | 0 | 3 | 4 | 5 => simpa using h
  | 1 | 2 => simp [stwGap, pwrGap] at h ⊢; omega
  | n + 6 => omega

/-- What an access that meets no register leaves: on the Can's page the debug master's is logged (R369). -/
def unusedNext (s : State) (off : Nat) (dbg : Bool) : State :=
  if off / 4096 = 5 ∧ dbg = true then debugAccess s (off % 4096 / 8 * 8) else s

theorem unusedNext_of_not_debug {s : State} {off : Nat} {dbg : Bool} (h : dbg = false ∨ off / 4096 ≠ 5) :
    unusedNext s off dbg = s :=
  if_neg fun ⟨p, d⟩ => h.elim (by simp [d]) (absurd p)

section Window
variable {s : State} {off : Nat} {v : Word} {dbg : Bool} (win : off < 65536) (unused : holdsRegister off = false)
include win unused

theorem readReg_unused : readReg s off dbg = (unusedNext s off dbg, 0) := by
  unfold readReg
  obtain ⟨p, g⟩ | ⟨p, g⟩ | ⟨p, g⟩ | ⟨p, g⟩ | ⟨p, g⟩ | ⟨p, g⟩ | p := gap_of_holdsRegister_false unused
  · simp [unusedNext, p, readFab_unused g]
  · simp [unusedNext, p, readStw_unused g]
  · simp [unusedNext, p, readPwr_unused g]
  · simp [unusedNext, p, readDip_unused g]
  · simp [unusedNext, p, readCrk_unused g]
  · cases dbg <;> simp [unusedNext, p, readMtr_unused g]
  · rw [unusedNext_of_not_debug (.inr (by omega))]
    dsimp only
    repeat rw [if_neg (by omega)]

theorem writeReg_unused : writeReg s off v dbg = unusedNext s off dbg := by
  unfold writeReg
  obtain ⟨p, g⟩ | ⟨p, g⟩ | ⟨p, g⟩ | ⟨p, g⟩ | ⟨p, g⟩ | ⟨p, g⟩ | p := gap_of_holdsRegister_false unused
  · simp [unusedNext, p, writeFab_unused g]
  · simp [unusedNext, p, writeStw_unused g]
  · simp [unusedNext, p, writePwr_unused g]
  · simp [unusedNext, p, writeDip_unused g]
  · simp [unusedNext, p, writeCrk_unused g]
  · cases dbg <;> simp [unusedNext, p, writeMtr_unused g]
  · rw [unusedNext_of_not_debug (.inr (by omega))]
    dsimp only
    repeat rw [if_neg (by omega)]

end Window

/-! ### The Can's log -/

/-- A record of the report log changes the log and its count of dropped records alone. -/
theorem canLogAt_frame (s : State) (code arg detail aclk : Nat) :
    canLogAt s code arg detail aclk = { s with can :=
      { s.can with log := (canLogAt s code arg detail aclk).can.log
                   logDropped := (canLogAt s code arg detail aclk).can.logDropped } } := by
  by_cases full : 60 ≤ s.can.log.length
  · simp only [canLogAt, updCan, if_pos full]
  · simp only [canLogAt, updCan, if_neg full]

theorem unusedNext_frame (s : State) (off : Nat) (dbg : Bool) :
    unusedNext s off dbg = { s with can :=
      { s.can with log := (unusedNext s off dbg).can.log, logDropped := (unusedNext s off dbg).can.logDropped } } := by
  unfold unusedNext
  split
  · exact canLogAt_frame ..
  · rfl

/-- Settles O4, by the gaps of the window's pages: an access to one leaves `unusedNext`, and a read of it gives zero. -/
theorem unusedOffsets : Obligations.UnusedOffsets := by
  intro s off v dbg win unused
  rw [readReg_unused win unused, writeReg_unused win unused]
  exact ⟨rfl, fun h => ⟨unusedNext_of_not_debug h, unusedNext_of_not_debug h⟩, unusedNext_frame s off dbg,
    unusedNext_frame s off dbg⟩

end Sys2Proof.Proofs

/-! ## What the Herdsman makes of a value for an index that it does not write (R318, R319, R516). A delivery, by doorbell
or by poll, is `applyIndex` on the Herdsman's state, before it events of the flit's checks, after it the notes of the
poll. -/

namespace Sys2Proof.Proofs
open Sys2Proof.Machine Sys2Proof.Safety

/-! ### Steps that do no more to the Herdsman than hand events to it -/

/-- `t` has the Herdsman of `s`, with events handed to it. -/
def addsReports (s t : State) : Prop := ∃ evs, t.herd = { s.herd with reports := s.herd.reports ++ evs }

theorem addsReports_of_herd_eq {s t : State} (h : t.herd = s.herd) : addsReports s t := ⟨[], by simp [h]⟩

theorem addsReports_report (s : State) (ev : Event) : addsReports s (report s ev) := ⟨[ev], rfl⟩

theorem addsReports.trans {s t u : State} (first : addsReports s t) (second : addsReports t u) : addsReports s u := by
  obtain ⟨evs, e⟩ := first
  obtain ⟨evs', e'⟩ := second
  exact ⟨evs ++ evs', by rw [e', e, List.append_assoc]⟩

/-- A fold each of whose turns only hands events over; `st` is the state in what is folded. -/
theorem addsReports_foldl {α β : Type} {st : β → State} {f : β → α → β}
    (turn : ∀ b a, addsReports (st b) (st (f b a))) (l : List α) (b : β) :
    addsReports (st b) (st (l.foldl f b)) := by
  induction l generalizing b with
  | nil => exact addsReports_of_herd_eq rfl
  | cons a l ih => exact (turn b a).trans (ih (f b a))

theorem addsReports_wrapNotice (s : State) (g : Nat) : addsReports s (wrapNotice s g) := by
  unfold wrapNotice
  dsimp only
  split
  · exact addsReports_report ..
  · exact addsReports_of_herd_eq rfl

/-- Counting hands over at most a COUNTER_WRAP (R376). -/
theorem addsReports_bump (s : State) (g amt : Nat) : addsReports s (bump s g amt) := by
  have same {f : Dipper → Dipper} : addsReports s (updDip s f) := addsReports_of_herd_eq rfl
  unfold bump
  dsimp only
  split
  · exact addsReports_of_herd_eq rfl
  · split
    · split
      · exact addsReports_of_herd_eq rfl
      · split
        · exact same.trans (addsReports_wrapNotice ..)
        · exact same
    · split
      · exact same.trans (addsReports_wrapNotice ..)
      · exact same

theorem addsReports_countN (s : State) (n : Slot) (code : Nat) (vc : Option Nat) (cls : Option Cls) (amt : Nat) :
    addsReports s (countN s n code vc cls amt) := by
  refine addsReports_foldl (st := id) (fun s i => ?_) _ s
  dsimp only [id]
  split
  · exact addsReports_bump ..
  · exact addsReports_of_herd_eq rfl

theorem addsReports_checkOut (s : State) (n : Slot) (pkt : Packet) (quiet : List Nat) :
    addsReports s (checkOut s n pkt quiet).1 := by
  refine addsReports_foldl (st := Prod.fst) (fun acc p => ?_) pkt.zipIdx (s, [])
  refine addsReports.trans ?_ (addsReports_foldl (st := id)
    (fun s w => (addsReports_countN s n 0x06 none none 1).trans (addsReports_report ..)) _ _)
  exact (addsReports_of_herd_eq (updN_herd ..)).trans (addsReports_bump ..)

theorem addsReports_checkIn (s : State) (n : Slot) (pkt : Packet) : addsReports s (checkIn s n pkt).1 :=
  (addsReports_foldl (st := id) (fun _ _ => addsReports_report ..) _ _).trans (addsReports_checkOut ..)

/-- A packet that an NI takes out of its ejection buffer and checks. -/
theorem addsReports_checkIn_ejPop (s : State) (n : Slot) (vc : VcId) (len : Nat) (pkt : Packet) :
    addsReports s (checkIn (ejPop s n vc len) n pkt).1 :=
  (addsReports_of_herd_eq rfl).trans (addsReports_checkIn (ejPop s n vc len) n pkt)

section
variable {s t : State} (h : addsReports s t) (r : RingId)
include h

theorem hring_of_addsReports : hring t r = hring s r := by
  obtain ⟨evs, e⟩ := h
  rw [hring, e, hring]

theorem homeWin_of_addsReports : homeWin t r = homeWin s r := by
  simp only [homeWin, hring_of_addsReports h]

theorem indexOf_of_addsReports : indexOf t r = indexOf s r := by
  simp only [indexOf, hring_of_addsReports h]

theorem indexRoom_of_addsReports : indexRoom t r = indexRoom s r := by
  simp only [indexRoom, hring_of_addsReports h]

end

theorem dbStale_of_addsReports {s t : State} (h : addsReports s t) : t.herd.dbStale = s.herd.dbStale := by
  obtain ⟨evs, e⟩ := h
  rw [e]

/-! ### Rings under updates -/

@[simp] theorem hring_updRing_same (s : State) (r : RingId) (f : HRing → HRing) :
    hring (updRing s r f) r = f (hring s r) := tget_tupd ..

theorem hring_updRing_ne {s : State} {r q : RingId} {f : HRing → HRing} (h : q ≠ r) :
    hring (updRing s r f) q = hring s q := tget_tupd_ne _ _ _ _ h.symm

theorem sameRing_of_hring_eq {s t : State} {r : RingId} (h : hring t r = hring s r) : sameRing s t r := by
  rw [sameRing, h]

theorem sameRing_clearFresh (s : State) (r q : RingId) :
    sameRing s (updRing s r (fun x => { x with fresh := false })) q := by
  by_cases h : q = r
  · subst h; simp [sameRing]
  · exact sameRing_of_hring_eq (hring_updRing_ne h)

/-! ### The four answers to a value (R318) -/

/-- A value is ignored, and counted as DB_STALE. -/
def countStale (s : State) : State := updHerd s (fun h => { h with dbStale := h.dbStale + 1 })

/-- The index of ring `r` that the Herdsman does not write, moved to `v`. -/
def moveIndex (r : RingId) (v : BitVec 32) (x : HRing) : HRing :=
  if r.val < 8 then { x with prod := v } else { x with cons := v }

/-- The index of ring `r` that the Herdsman writes itself. -/
def ownIndex (s : State) (r : RingId) : BitVec 32 := if r.val < 8 then (hring s r).cons else (hring s r).prod

section Answers
variable {s : State} {r : RingId} {v : BitVec 32}

theorem applyIndex_off (off : ringEn (hring s r) = false) : applyIndex s r v = countStale s := by
  simp [applyIndex, off, countStale]

theorem applyIndex_on (on : ringEn (hring s r) = true) : applyIndex s r v =
    if (v - indexOf s r).toNat = 0 ∨ 2 ^ 31 ≤ (v - indexOf s r).toNat then countStale s
    else if (v - indexOf s r).toNat ≤ indexRoom s r then updRing s r (moveIndex r v)
    else repDie s .ringOverrun r.val
      ((ownIndex s r).toNat * 2 ^ 64 + v.toNat * 2 ^ 32 + (indexOf s r).toNat) := by
  simp only [applyIndex, on, Bool.not_true, Bool.false_eq_true, if_false, decide_eq_true_eq]
  rfl

theorem applyIndex_stale (on : ringEn (hring s r) = true)
    (stale : (v - indexOf s r).toNat = 0 ∨ 2 ^ 31 ≤ (v - indexOf s r).toNat) : applyIndex s r v = countStale s := by
  rw [applyIndex_on on, if_pos stale]

theorem applyIndex_move (on : ringEn (hring s r) = true) (pos : 1 ≤ (v - indexOf s r).toNat)
    (room : (v - indexOf s r).toNat ≤ indexRoom s r) (ahead : (v - indexOf s r).toNat < 2 ^ 31) :
    applyIndex s r v = updRing s r (moveIndex r v) := by
  rw [applyIndex_on on, if_neg (by omega), if_pos room]

theorem applyIndex_overrun (on : ringEn (hring s r) = true) (past : indexRoom s r < (v - indexOf s r).toNat)
    (ahead : (v - indexOf s r).toNat < 2 ^ 31) :
    applyIndex s r v = repDie s .ringOverrun r.val
      ((ownIndex s r).toNat * 2 ^ 64 + v.toNat * 2 ^ 32 + (indexOf s r).toNat) := by
  rw [applyIndex_on on, if_neg (by omega), if_neg (by omega)]

end Answers

/-- Bits [63:0] of RING_OVERRUN's record (R453). -/
theorem overrunRecord_low (other v held : BitVec 32) :
    bits (BitVec.ofNat 128 (other.toNat * 2 ^ 64 + v.toNat * 2 ^ 32 + held.toNat)) 0 64 =
      BitVec.ofNat 64 (v.toNat * 2 ^ 32 + held.toNat) := by
  apply BitVec.eq_of_toNat_eq
  rw [BitVec.extractLsb'_toNat, BitVec.toNat_ofNat, BitVec.toNat_ofNat, Nat.shiftRight_zero,
    Nat.mod_mod_of_dvd _ (Nat.pow_dvd_pow 2 (by decide)), Nat.add_assoc, Nat.mul_add_mod_self_right]

/-- A value for ring `r` leaves every other ring as it is. -/
theorem hring_applyIndex_ne {s : State} {r q : RingId} {v : BitVec 32} (other : q ≠ r) :
    hring (applyIndex s r v) q = hring s q := by
  cases on : ringEn (hring s r) with
  | false => rw [applyIndex_off on]; rfl
  | true =>
    rw [applyIndex_on on]
    split
    · rfl
    · split
      · exact hring_updRing_ne other
      · rfl

/-! ### The poll (R319) -/

/-- The home lines, of those that memory returned, that the poll takes. -/
def takenHomes (s : State) (homes : List (RingId × MemLine)) : List (RingId × MemLine) :=
  homes.filter (fun h => (pollDue s).contains h.1)

/-- The poll's judging of home lines. -/
def judgeHomes (s : State) (homes : List (RingId × MemLine)) : State := homes.foldl (fun s h => pollRing s h.1 h.2) s

theorem pollRing_good {s : State} {r : RingId} {l : MemLine} (good : l.state = .good) :
    pollRing s r l = updRing (applyIndex s r (l.data.setWidth 32)) r (fun x => { x with fresh := false }) := by
  simp [pollRing, good]

theorem exists_mem_takenHomes {s : State} {homes : List (RingId × MemLine)}
    (all : ∀ r ∈ pollDue s, ∃ h ∈ homes, h.1 = r) : ∀ r ∈ pollDue s, ∃ h ∈ takenHomes s homes, h.1 = r := by
  intro r due
  obtain ⟨h, mem, rfl⟩ := all r due
  exact ⟨h, List.mem_filter.mpr ⟨mem, List.contains_iff_mem.mpr due⟩, rfl⟩

/-- A poll for which every line that is due has come back whole judges each, and leaves nothing to be read again. -/
theorem ringPoll_good {s : State} {homes : List (RingId × MemLine)} (runs : herdRuns s = true)
    (reach : herdReachable s = true) (all : ∀ r ∈ pollDue s, ∃ h ∈ homes, h.1 = r)
    (good : ∀ h ∈ homes, h.2.state = .good) :
    exec (.ringPoll homes) s =
      .next (updHerd (judgeHomes s (takenHomes s homes)) (fun h => { h with rereadAll := false })) := by
  have came : ((pollDue s).all fun r => (takenHomes s homes).any fun h => h.1 == r) = true := by
    simpa only [List.all_eq_true, List.any_eq_true, beq_iff_eq] using exists_mem_takenHomes all
  have whole : (takenHomes s homes).any (fun h => h.2.state != .good) = false := by
    simp only [takenHomes, List.any_eq_false, List.mem_filter, bne_iff_ne, ne_eq, not_not]
    exact fun h mem => good h mem.1
  change execRingPoll homes s = _
  unfold takenHomes at came whole
  simp only [execRingPoll, runs, reach, came, whole, Bool.and_self, if_true, Bool.and_false]
  rfl

/-- Once read, a ring's note that it has just been enabled stays cleared. -/
theorem fresh_judgeHomes {s : State} {homes : List (RingId × MemLine)} {r : RingId}
    (good : ∀ h ∈ homes, h.2.state = .good) (read : (∃ h ∈ homes, h.1 = r) ∨ (hring s r).fresh = false) :
    (hring (judgeHomes s homes) r).fresh = false := by
  induction homes generalizing s with
  | nil => simpa [judgeHomes] using read
  | cons h rest ih =>
    refine ih (s := pollRing s h.1 h.2) (fun h' mem => good h' (.tail _ mem)) ?_
    rw [pollRing_good (good h (.head _))]
    by_cases own : r = h.1
    · subst own
      exact .inr (by rw [hring_updRing_same])
    · rw [hring_updRing_ne own, hring_applyIndex_ne own]
      refine read.imp_left fun ⟨h', mem, e⟩ => ⟨h', ?_, e⟩
      exact (List.mem_cons.mp mem).resolve_left fun first => own (by rw [← e, first])

/-! ### The doorbell forward (R317) -/

/-- A single flit that passes its control parity is what stands at the front of its buffer. -/
theorem withFront_single {s : State} {n : Slot} {vc : VcId} {f : Flit} {rest : List Flit} {act : Packet → State}
    (ej : tget (nif s n).ej vc = f :: rest) (par : badGroups f = 0) (len : fLen f = 0) :
    withFront s n vc act = act [f] := by
  simp [withFront, ejBad, ejFront, ej, par, len]

/-- A ring's home word names that ring alone. -/
theorem homesAt_homeWin (s : State) (r : RingId) : homesAt s (homeWin s r) r.val = [r] := by
  have only : ∀ q : RingId, (decide (homeWin s q = homeWin s r) && decide (r.val = q.val)) = (q == r) := by
    intro q
    by_cases h : q = r
    · simp [h]
    · simp [h, Fin.val_inj, Ne.symm h]
  simp only [homesAt, only, List.filter_beq, List.count_finRange, List.replicate_one]

/-- A doorbell forward is checked and has its value applied to the ring that it names. -/
theorem dbFwd_names {s : State} {r : RingId} {f : Flit} {rest : List Flit} {w : Word} (runs : herdRuns s = true)
    (ni : niRuns s herdSlot = true) (ej : tget (nif s herdSlot).ej 6 = f :: rest) (par : badGroups f = 0)
    (len : fLen f = 0) (op : fOp f = opDbFwd) (hw : w = word (hd (checkIn (ejPop s herdSlot 6 1) herdSlot [f]).2) 0)
    (line : field w 4 6 = r.val) (win : homeWin s r = Fin.ofNat 16 (field w 0 4)) :
    exec .dbFwd s = .next (applyIndex (checkIn (ejPop s herdSlot 6 1) herdSlot [f]).1 r (bits w 32 32)) := by
  have named : homesAt (checkIn (ejPop s herdSlot 6 1) herdSlot [f]).1
      (Fin.ofNat 16 (field w 0 4)) (field w 4 6) = [r] := by
    rw [line, ← win, ← homeWin_of_addsReports (addsReports_checkIn_ejPop s herdSlot 6 1 [f]), homesAt_homeWin]
  change execDbFwd s = _
  have isFwd : (fOp (hd [f]) != opDbFwd) = false := by simp [hd, op]
  subst hw
  simp only [execDbFwd, runs, ni, Bool.and_self, if_true, withFront_single ej par len, isFwd, Bool.false_eq_true,
    if_false, List.length_singleton]
  rw [named]
  rfl

/-! ### Deliveries -/

/-- What judging a value says of `t` holds of `t'`: it has the counts and events of `t`, and its rings but for the notes
that they have just been enabled. -/
structure SameJudged (t t' : State) : Prop where
  count : t'.herd.dbStale = t.herd.dbStale
  events : t'.herd.reports = t.herd.reports
  rings : ∀ q, sameRing t t' q

theorem sameRing_congr {s u t t' : State} {q : RingId} (before : hring u q = hring s q) (judged : hring t q = hring u q)
    (after : sameRing t t' q) : sameRing s t' q := by
  rw [sameRing, judged, before] at after
  exact after

/-- Either delivery applies the value to the Herdsman as the checks of what brought it leave it. -/
theorem exec_of_bringsIndex {s : State} {i : Instr} {r : RingId} {v : BitVec 32} (runs : herdRuns s = true)
    (brings : bringsIndex s i r v) :
    ∃ u t, exec i s = .next t ∧ addsReports s u ∧ SameJudged (applyIndex u r v) t := by
  obtain ⟨l, rfl, reach, due, good, rfl⟩ | ⟨f, rest, w, rfl, ni, ej, par, len, op, hw, line, win, rfl⟩ := brings
  · refine ⟨s, _, ringPoll_good runs reach (by simp [due]) (by simp [good]), addsReports_of_herd_eq rfl, ?_⟩
    simp only [takenHomes, due, judgeHomes, List.filter_cons, List.contains_cons, BEq.rfl, Bool.true_or, if_true,
      List.filter_nil, List.foldl_cons, List.foldl_nil, pollRing_good good]
    exact ⟨rfl, rfl, sameRing_clearFresh _ r⟩
  · exact ⟨_, _, dbFwd_names runs ni ej par len op hw line win, addsReports_checkIn_ejPop ..,
      rfl, rfl, fun _ => sameRing_of_hring_eq rfl⟩

/-! ### The enabling of a ring (R516) -/

theorem hring_enableRing (s : State) (r : RingId) (w : Word) :
    hring (enableRing s r w) r =
      { (hring s r).idle with word := w, prod := 0, cons := 0, halted := false, fresh := true } := by
  unfold enableRing
  dsimp only
  split
  · exact hring_updRing_same ..
  · exact hring_updRing_same ..

theorem stwRing_enables {s : State} {r : RingId} {v : Word} (runs : herdRuns s = true) (unlocked : s.herd.lock = false)
    (off : ringEn (hring s r) = false) (en : (ringFields r v).getLsbD 63 = true)
    (home : (tget s.herd.windows (homeWinWith s r (ringFields r v))).getLsbD 63 = true) :
    exec (.stwRing r v) s = .next (enableRing s r (ringFields r v)) := by
  change execStwRing r v s = _
  simp only [execStwRing, atHerd, writeRing, runs, unlocked, off, en, home, Bool.or_self, Bool.false_eq_true, if_true,
    if_false]

/-! ### What a delivery leaves -/

section Judged
variable {s u t : State} {r : RingId} {v : BitVec 32} (before : addsReports s u) (same : SameJudged (applyIndex u r v) t)
include before same

theorem sameRing_of_judged {q : RingId} (kept : hring (applyIndex u r v) q = hring u q) : sameRing s t q :=
  sameRing_congr (hring_of_addsReports before q) kept (same.rings q)

theorem judged_stale (stale : applyIndex u r v = countStale u) :
    t.herd.dbStale = s.herd.dbStale + 1 ∧ sameRing s t r := by
  refine ⟨?_, sameRing_of_judged before same (by rw [stale]; rfl)⟩
  rw [same.count, stale, countStale, updHerd_herd, dbStale_of_addsReports before]

theorem judged_move (move : applyIndex u r v = updRing u r (moveIndex r v)) :
    indexOf t r = v ∧ t.herd.dbStale = s.herd.dbStale ∧
      hring t r = { hring s r with prod := (hring t r).prod, cons := (hring t r).cons, fresh := (hring t r).fresh } ∧
      (if r.val < 8 then (hring t r).cons = (hring s r).cons else (hring t r).prod = (hring s r).prod) := by
  obtain ⟨count, -, rings⟩ := same
  have count' : t.herd.dbStale = s.herd.dbStale := by rw [count, move, ← dbStale_of_addsReports before]; rfl
  have ring := rings r
  rw [sameRing, move, hring_updRing_same, hring_of_addsReports before] at ring
  generalize (hring t r).fresh = b at ring ⊢
  by_cases command : r.val < 8
  · simp [indexOf, ring, moveIndex, command, count']
  · simp [indexOf, ring, moveIndex, command, count']

theorem judged_overrun (overrun : applyIndex u r v = repDie u .ringOverrun r.val
      ((ownIndex u r).toNat * 2 ^ 64 + v.toNat * 2 ^ 32 + (indexOf u r).toNat)) :
    t.herd.dbStale = s.herd.dbStale ∧ sameRing s t r ∧
      ∃ before ev, t.herd.reports = s.herd.reports ++ before ++ [ev] ∧ ev.code = .ringOverrun ∧
        ev.detail = BitVec.ofNat 32 r.val ∧
        bits ev.record 0 64 = BitVec.ofNat 64 (v.toNat * 2 ^ 32 + (indexOf s r).toNat) := by
  have kept : sameRing s t r := sameRing_of_judged before same (by rw [overrun]; rfl)
  obtain ⟨count, events, -⟩ := same
  rw [overrun, indexOf_of_addsReports before, repDie, report, updHerd_herd] at count events
  obtain ⟨evs, e⟩ := before
  rw [e] at count events
  exact ⟨count, kept, evs, _, events, rfl, rfl, overrunRecord_low _ v _⟩

end Judged

/-- Settles O39: both deliveries come down to `applyIndex`, which answers in four ways. -/
theorem indexValuesJudged : Obligations.IndexValuesJudged := by
  refine ⟨fun s i r v d runs brings hd => ?_, fun s homes runs reach all good => ?_,
    fun s r v runs unlocked off en home => ?_⟩
  · subst hd
    obtain ⟨u, t, run, before, same⟩ := exec_of_bringsIndex runs brings
    refine ⟨t, run, fun q other => sameRing_of_judged before same (hring_applyIndex_ne other), ?_⟩
    have ring := hring_of_addsReports before r
    have index := indexOf_of_addsReports before r
    have limit := indexRoom_of_addsReports before r
    refine ⟨fun off => ?_, fun on stale => ?_, fun on pos room ahead => ?_, fun on past ahead => ?_⟩
    · exact judged_stale before same (applyIndex_off (by rwa [ring]))
    · exact judged_stale before same (applyIndex_stale (by rwa [ring]) (by rwa [index]))
    · exact judged_move before same
        (applyIndex_move (by rwa [ring]) (by rwa [index]) (by rwa [index, limit]) (by rwa [index]))
    · exact judged_overrun before same
        (applyIndex_overrun (by rwa [ring]) (by rwa [index, limit]) (by rwa [index]))
  · refine ⟨_, ringPoll_good runs reach all good, rfl, fun r due => ?_⟩
    exact fresh_judgeHomes (fun h mem => good h (List.mem_of_mem_filter mem)) (.inl (exists_mem_takenHomes all r due))
  · refine ⟨_, stwRing_enables runs unlocked off en home, ?_⟩
    rw [hring_enableRing]
    exact ⟨en, rfl⟩

end Sys2Proof.Proofs

/-! ## Configuration sets after a reset (R522, R395), and a CFG_WRITE that names the active set (R331). -/

namespace Sys2Proof.Proofs
open Sys2Proof.Machine Sys2Proof.Safety

/-! ### What a reset leaves of the sets -/

/-- Set A is active at the Herdsman and at every router and NI, and both sets hold their boot values (R522). -/
def setsAtBoot (t : State) : Prop :=
  t.herd.active = false ∧ (∀ r, (rtr t r).active = false) ∧ (∀ n, activeSet t (.ni n) = false) ∧
    ∀ set item unit port index, cfgGet t set item unit port index = cfgBoot (cfgKey item unit port index)

/-- An NI follows its router, and a set without entries reads as the boot values. -/
theorem setsAtBoot_of_reset {t : State} (herd : t.herd.active = false) (routers : t.routers = tabOf Router.reset)
    (setA : t.cfgA = []) (setB : t.cfgB = []) : setsAtBoot t := by
  have router (r : RouterId) : (rtr t r).active = false := by rw [rtr, routers, tget_tabOf]; rfl
  refine ⟨herd, router, fun n => router (routerOf n), fun set item unit port index => ?_⟩
  rw [cfgGet, setA, setB, ite_self, sget]

theorem hardReset_setsAtBoot (s : State) : ∃ t, exec .hardReset s = .next t ∧ setsAtBoot t :=
  ⟨_, rfl, setsAtBoot_of_reset rfl rfl rfl rfl⟩

/-- In TEST a warm reset gives only its notice (R354). -/
theorem warmReset_setsAtBoot {s : State} (mode : s.aon.mode ≠ .test) :
    ∃ t, exec .warmReset s = .next t ∧ setsAtBoot t := by
  have run : exec .warmReset s = execWarmReset s := rfl
  rw [run, execWarmReset, if_neg (by simpa using mode)]
  exact ⟨_, rfl, setsAtBoot_of_reset rfl rfl rfl rfl⟩

/-! ### Commands on their turn -/

section Turn
variable {s : State} {c : Cmd} {op : Nat}

theorem startedOp_of_onTurn (turn : onTurn s c op) : startedOp s c.ring op = some c := by
  obtain ⟨runs, die, code, front⟩ := turn
  simp [startedOp, startedCmd, runs, die, front, code]

theorem mem_started_of_onTurn (turn : onTurn s c op) : c ∈ s.herd.started := by
  obtain ⟨-, -, -, front⟩ := turn
  exact List.mem_of_find?_eq_some front

end Turn

/-! ### The end of a command -/

section End
variable (s : State) (ring : CmdRing) (index : Nat) (st : Status) (d : BitVec 16) (res : BitVec 320)

theorem onlyStarted_endCmd : onlyStarted s (endCmd s ring index st d res) := by
  rw [onlyStarted, endCmd, updHerd_herd]
  split <;> rfl

theorem endCmd_frame : endCmd s ring index st d res = { s with herd := (endCmd s ring index st d res).herd } := rfl

variable {s}

/-- The command that ends is the first started one of that ring and index, which need not be `c` itself. -/
theorem ended_endCmd {c : Cmd} (mem : c ∈ s.herd.started) :
    ended (endCmd s c.ring c.index st d res) c.ring c.index st d res := by
  obtain ⟨e, found⟩ := Option.isSome_iff_exists.mp (List.find?_isSome.mpr ⟨c, mem, by simp [isCmd]⟩ :
    (s.herd.started.find? (isCmd c.ring c.index)).isSome = true)
  have same : e.ring = c.ring ∧ e.index = c.index := by simpa [isCmd] using List.find?_some found
  refine ⟨{ e with result := some (st, d, res) }, ?_, same.1, same.2, rfl⟩
  rw [Laws.endCmd_started found]
  exact List.mem_append_right _ (List.mem_singleton_self _)

end End

/-! ### CFG_WRITE -/

/-- R331, first condition: the set named is the active one, and nothing of it is written. -/
theorem cfgWriteCmd_activeSet {s : State} {c : Cmd} {block : Block} (named : (cfgArgs c).set ≤ 1)
    (active : ((cfgArgs c).set == 1) = s.herd.active) :
    cfgWriteCmd s c block = endCmd s c.ring c.index .staleSet 0 := by
  simp [cfgWriteCmd, named, active]

theorem exec_cfgWrite_onTurn {s : State} {c : Cmd} (block : Block) (turn : onTurn s c 0x01) :
    exec (.cfgWrite c.ring block) s = .next (cfgWriteCmd s c block) := by
  have run : exec (.cfgWrite c.ring block) s = execCfgWrite c.ring block s := rfl
  rw [run, execCfgWrite, startedOp_of_onTurn turn]

/-- Settles O3: both resets end in `setsAtBoot`, and a CFG_WRITE that names the active set only ends the command. -/
theorem setsAfterReset : Obligations.SetsAfterReset := by
  refine ⟨fun s i reset => ?_, fun s c block setA turn names => ?_⟩
  · obtain rfl | ⟨rfl, mode⟩ := reset
    · exact hardReset_setsAtBoot s
    · exact warmReset_setsAtBoot mode
  · refine ⟨_, exec_cfgWrite_onTurn block turn, ?_⟩
    rw [cfgWriteCmd_activeSet (by omega) (by rw [names, setA]; rfl)]
    exact ⟨ended_endCmd _ _ _ (mem_started_of_onTurn turn), onlyStarted_endCmd .., endCmd_frame ..⟩

end Sys2Proof.Proofs

/-! ## The configuration sets and the Crock under every command. What an operation makes of them is said once for each:
`stores_f` where operation `f` leaves all three as they are, `canonical_f` where it writes them and keeps their canonical
form. -/

namespace Sys2Proof.Proofs
open Sys2Proof.Machine Sys2Proof.Safety

/-- What the two invariants speak of: both configuration sets, and the Crock. -/
def stores (s : State) : Sparse Nat × Sparse Nat × Crock := (s.cfgA, s.cfgB, s.crock)

/-- Which of the two invariants. -/
inductive Held | sets | crock

/-- The Crock's stores are in canonical form and NEXT names an entry. -/
def crockOk (c : Crock) : Prop :=
  swf (fun _ => (0 : BitVec 128)) c.entries = true ∧ swf (fun _ => false) c.valid = true ∧
  swf (fun _ => false) c.post = true ∧ swf (fun _ => false) c.cont = true ∧ c.next < 4096

/-- The configuration sets, or the Crock's stores, are in canonical form. -/
def canonical (w : Held) (x : Sparse Nat × Sparse Nat × Crock) : Prop :=
  match w with
  | .sets => swf cfgBoot x.1 = true ∧ swf cfgBoot x.2.1 = true
  | .crock => crockOk x.2.2

/-! ### The Crock's own writes -/

theorem crockOk_write1 {c : Crock} (w : BitVec 128) (isCont : Bool) (hc : crockOk c) :
    crockOk (crockWrite1 c w isCont) := by
  obtain ⟨entries, valid, post, cont, -⟩ := hc
  refine ⟨swf_sput _ _ _ _ entries, ?_, swf_sput _ _ _ _ post, swf_sput _ _ _ _ cont, Nat.mod_lt _ (by decide)⟩
  simp only [crockWrite1]
  split
  · exact swf_sput _ _ _ _ (swf_sput _ _ _ _ valid)
  · exact swf_sput _ _ _ _ valid

theorem crockOk_put {c : Crock} (ev : Event) (epoch : Nat) (hc : crockOk c) : crockOk (crockPut c ev epoch) := by
  unfold crockPut
  dsimp only
  generalize atSeen : (if (evClass ev.code == .fatal) = true then c else { c with seen := _ }) = d
  have hd : crockOk d := by rw [← atSeen]; split <;> exact hc
  split
  · exact hc
  split
  · exact hd
  generalize atTrigger : (if (evClass ev.code == .fatal && d.arm && !d.triggered) = true then
    { d with triggered := true, trigIdx := _, postLeft := _ } else d) = e
  have he : crockOk e := by rw [← atTrigger]; split <;> exact hd
  generalize atWritten : (if (if evHasRecord ev.code = true then 2 else 1) = 2 then
    crockWrite1 (crockWrite1 e _ false) _ true else crockWrite1 e _ false) = f
  have hf : crockOk f := by
    rw [← atWritten]
    split
    · exact crockOk_write1 _ _ (crockOk_write1 _ _ he)
    · exact crockOk_write1 _ _ he
  split
  · obtain ⟨entries, valid, post, cont, next⟩ := hf
    refine ⟨entries, valid, ?_, cont, next⟩
    dsimp only
    split
    · exact swf_sput _ _ _ _ post
    · exact post
  · exact hf

theorem crockOk_clear {c : Crock} (is : List Nat) (hc : crockOk c) : crockOk (crockClear c is) := by
  obtain ⟨entries, valid, post, cont, next⟩ := hc
  exact ⟨entries, swf_foldl _ _ _ _ (fun _ _ h => swf_sput _ _ _ _ h) valid, post, cont, next⟩

/-! ### The stores under shapes of update -/

@[simp] theorem stores_tuple (s : State) : (s.cfgA, s.cfgB, s.crock) = stores s := rfl
@[simp] theorem stores_mk (a b c d e f g h i j k l m n o) :
    stores ⟨a, b, c, d, e, f, g, h, i, j, k, l, m, n, o⟩ = (e, f, j) := rfl
@[simp] theorem stores_ite (c : Prop) [Decidable c] (a b : State) :
    stores (if c then a else b) = if c then stores a else stores b := apply_ite ..
@[simp] theorem stores_foldl {α : Type} {f : State → α → State} {l : List α} {s : State}
    (h : ∀ s x, stores (f s x) = stores s) : stores (l.foldl f s) = stores s := by
  induction l generalizing s with
  | nil => rfl
  | cons x l ih => rw [List.foldl_cons, ih, h]

@[simp] theorem stores_foldl_fst {α β : Type} {f : State × β → α → State × β} {l : List α} {a : State × β}
    (h : ∀ a x, stores (f a x).1 = stores a.1) : stores (l.foldl f a).1 = stores a.1 := by
  induction l generalizing a with
  | nil => rfl
  | cons x l ih => rw [List.foldl_cons, ih, h]

variable {part : Held}

@[simp] theorem canonical_ite {c : Prop} [Decidable c] {x y : Sparse Nat × Sparse Nat × Crock} (hx : canonical part x)
    (hy : canonical part y) : canonical part (if c then x else y) := by split <;> assumption
theorem canonical_foldl {α : Type} {f : State → α → State} {l : List α} {s : State}
    (step : ∀ s x, canonical part (stores s) → canonical part (stores (f s x))) (h : canonical part (stores s)) :
    canonical part (stores (l.foldl f s)) := by
  induction l generalizing s with
  | nil => exact h
  | cons x l ih => exact ih (step s x h)

theorem canonical_foldl_fst {α β : Type} {f : State × β → α → State × β} {l : List α} {a : State × β}
    (step : ∀ a x, canonical part (stores a.1) → canonical part (stores (f a x).1))
    (h : canonical part (stores a.1)) : canonical part (stores (l.foldl f a).1) := by
  induction l generalizing a with
  | nil => exact h
  | cons x l ih => exact ih (step a x h)

/-- The state that a command leaves. -/
def after (s : State) : Host.Outcome State Fault Refusal → State
  | .next t => t
  | _ => s

@[simp] theorem after_next (s t : State) : after s (.next t) = t := rfl
@[simp] theorem after_ite (s : State) (c : Prop) [Decidable c] (a b : Host.Outcome State Fault Refusal) :
    after s (if c then a else b) = if c then after s a else after s b := apply_ite ..

section Updates
variable (s : State)

@[simp] theorem stores_updR (r f) : stores (updR s r f) = stores s := by
  rw [stores, updR]; rfl
@[simp] theorem stores_updN (n f) : stores (updN s n f) = stores s := by
  rw [stores, updN]; rfl
@[simp] theorem stores_updE (e f) : stores (updE s e f) = stores s := by
  rw [stores, updE]; rfl
@[simp] theorem stores_updHerd (f) : stores (updHerd s f) = stores s := by
  rw [stores, updHerd]; rfl
@[simp] theorem stores_updAon (f) : stores (updAon s f) = stores s := by
  rw [stores, updAon]; rfl
@[simp] theorem stores_updCan (f) : stores (updCan s f) = stores s := by
  rw [stores, updCan]; rfl
@[simp] theorem stores_updDip (f) : stores (updDip s f) = stores s := by
  rw [stores, updDip]; rfl
@[simp] theorem stores_updChurn (f) : stores (updChurn s f) = stores s := by
  rw [stores, updChurn]; rfl
@[simp] theorem stores_updRecov (f) : stores (updRecov s f) = stores s := by
  rw [stores, updRecov]; rfl
@[simp] theorem stores_updAllN (f) : stores (updAllN s f) = stores s := by
  rw [stores, updAllN]; rfl
@[simp] theorem stores_updAllR (f) : stores (updAllR s f) = stores s := by
  rw [stores, updAllR]; rfl
@[simp] theorem stores_updAllE (f) : stores (updAllE s f) = stores s := by
  rw [stores, updAllE]; rfl
end Updates

/-! ### Machine/Ops.lean -/

@[simp] theorem canonical_cfgPut (s set item unit port index v) (hs : canonical part (stores s)) :
    canonical part (stores (cfgPut s set item unit port index v)) := by
  unfold cfgPut
  cases part <;> cases set
  · exact ⟨swf_sput _ _ _ _ hs.1, hs.2⟩
  · exact ⟨hs.1, swf_sput _ _ _ _ hs.2⟩
  · exact hs
  · exact hs

@[simp] theorem stores_report (s ev) : stores (report s ev) = stores s := by simp [report]
@[simp] theorem stores_repNi (s n code detail record) :
    stores (repNi s n code detail record) = stores s := by simp [repNi]
@[simp] theorem stores_repRouter (s r code detail record) :
    stores (repRouter s r code detail record) = stores s := by simp [repRouter]
@[simp] theorem stores_repDie (s code detail record) :
    stores (repDie s code detail record) = stores s := by simp [repDie]
@[simp] theorem stores_repGroup (s g code detail record) :
    stores (repGroup s g code detail record) = stores s := by simp [repGroup]
@[simp] theorem stores_repSpine (s e code detail record) :
    stores (repSpine s e code detail record) = stores s := by simp [repSpine]
@[simp] theorem canonical_toCrock (s ev) (hs : canonical part (stores s)) :
    canonical part (stores (toCrock s ev)) := by
  cases part with
  | sets => exact hs
  | crock => exact crockOk_put ev ev.epoch hs

@[simp] theorem stores_wrapNotice (s g) : stores (wrapNotice s g) = stores s := by simp [wrapNotice]
@[simp] theorem stores_bump (s g amt) : stores (bump s g amt) = stores s := by simp [bump]
@[simp] theorem stores_countR (s r code port vc cls amt) :
    stores (countR s r code port vc cls amt) = stores s := by simp [countR]
@[simp] theorem stores_countN (s n code vc cls amt) :
    stores (countN s n code vc cls amt) = stores s := by simp [countN]
@[simp] theorem stores_countNFix (s n j amt) : stores (countNFix s n j amt) = stores s := by simp [countNFix]
@[simp] theorem stores_countE (s e k amt) : stores (countE s e k amt) = stores s := by simp [countE]

/-! ### Machine/Gates.lean -/

@[simp] theorem stores_gateRecord (s n outb h dest kind ans) :
    stores (gateRecord s n outb h dest kind ans) = stores s := by
  unfold gateRecord
  dsimp only
  split <;> simp

@[simp] theorem stores_gateEccLog (s n) : stores (gateEccLog s n) = stores s := by simp [gateEccLog]

/-! ### Machine/CurdMap.lean -/

@[simp] theorem stores_repCurd (s n ev g src l) : stores (repCurd s n ev g src l) = stores s := by simp [repCurd]

/-! ### Machine/MemPort.lean -/

@[simp] theorem stores_memWrite (s a) : stores (memWrite s a) = stores s := by simp [memWrite]
@[simp] theorem stores_memWrites (s as) : stores (memWrites s as) = stores s := by simp [memWrites]
@[simp] theorem stores_endCmd (s ring index st detail res) :
    stores (endCmd s ring index st detail res) = stores s := by simp [endCmd]
@[simp] theorem stores_ranCmdAs (s ring index e) : stores (ranCmdAs s ring index e) = stores s := by simp [ranCmdAs]
@[simp] theorem canonical_drainAnswered (s ring index is st) (hs : canonical part (stores s)) :
    canonical part (stores (drainAnswered s ring index is st)) := by
  have cleared (is) : canonical part (stores (updCrock s (fun c => crockClear c is))) := by
    cases part with
    | sets => exact hs
    | crock => exact crockOk_clear is hs
  unfold drainAnswered
  split
  · dsimp only
    split <;> simp [cleared]
  · simp [hs]

@[simp] theorem stores_cmdAnswered (s ring index st lstat) :
    stores (cmdAnswered s ring index st lstat) = stores s := by simp [cmdAnswered]
@[simp] theorem canonical_answered (s u st lstat) (hs : canonical part (stores s)) :
    canonical part (stores (answered s u st lstat)) := by
  unfold answered
  split <;> simp [hs]

@[simp] theorem canonical_memEnd (s b st lstat) (hs : canonical part (stores s)) :
    canonical part (stores (memEnd s b st lstat)) := by
  simp [memEnd, hs]

@[simp] theorem canonical_memAnswer (s tag st lstat) (hs : canonical part (stores s)) :
    canonical part (stores (memAnswer s tag st lstat)) := by
  unfold memAnswer
  split <;> simp [hs]

@[simp] theorem stores_memAccepted (s tag req pieces codes) :
    stores (memAccepted s tag req pieces codes) = stores s := by simp [memAccepted]
@[simp] theorem canonical_memPiece (s req st lstat) (hs : canonical part (stores s)) :
    canonical part (stores (memPiece s req st lstat)) := by
  unfold memPiece
  split <;> simp [hs]

@[simp] theorem canonical_memWiped (s) (hs : canonical part (stores s)) : canonical part (stores (memWiped s)) := by
  exact canonical_foldl (fun s u h => by simp [h]) (by simpa using hs)
@[simp] theorem stores_canWiped (s) : stores (canWiped s) = stores s := by simp [canWiped]

/-! ### Machine/Meter.lean -/

@[simp] theorem stores_clearBad (s u k) : stores (clearBad s u k) = stores s := by simp [clearBad]
@[simp] theorem stores_meterEcc (s n tenant) : stores (meterEcc s n tenant) = stores s := by simp [meterEcc]
@[simp] theorem stores_meterReq (s n tenant askB b) : stores (meterReq s n tenant askB b).2 = stores s := by
  unfold meterReq
  dsimp only
  (repeat' split) <;> simp

@[simp] theorem stores_meterApply (s n) : stores (meterApply s n) = stores s := by simp [meterApply]

/-! ### Machine/Tally.lean -/

@[simp] theorem stores_putMarkers (s n m) : stores (putMarkers s n m) = stores s := by simp [putMarkers]
@[simp] theorem stores_noneOwed (s n) : stores (noneOwed s n) = stores s := by simp [noneOwed]
@[simp] theorem stores_putTally (s n inb words) : stores (putTally s n inb words) = stores s := by simp [putTally]

/-! ### Machine/Requests.lean -/

@[simp] theorem stores_errRec (s n kind st op) : stores (errRec s n kind st op) = stores s := by simp [errRec]
@[simp] theorem stores_refuseMalformed (s n op pkt tagOurs) :
    stores (refuseMalformed s n op pkt tagOurs) = stores s := by simp [refuseMalformed]
@[simp] theorem stores_logStep3 (s n op fetch h pieces) :
    stores (logStep3 s n op fetch h pieces) = stores s := stores_foldl fun s p => by
  dsimp only
  rw [stores_foldl fun s c => by (repeat' split) <;> simp]
  simp

@[simp] theorem canonical_endRefused (s n op h codes whole) (hs : canonical part (stores s)) :
    canonical part (stores (endRefused s n op h codes whole)) := by
  unfold endRefused
  (repeat' split) <;> simp [hs]

@[simp] theorem stores_stepFour (s n op h verdict lines) : stores (stepFour s n op h verdict lines).2 = stores s := by
  unfold stepFour
  (repeat' split) <;> simp

@[simp] theorem stores_noteMeter (s n i m) : stores (noteMeter s n i m) = stores s := by simp [noteMeter]
/-- The state that a turn leaves. -/
def turnState : Turn → State
  | .done s | .wait s | .hold s | .pass s => s

theorem canonical_turnLines (s n i e) (hs : canonical part (stores s)) :
    canonical part (stores (turnState (turnLines s n i e))) := by
  unfold turnLines
  dsimp only
  split
  · split <;> simp [turnState, hs]
  · split
    all_goals
      next four =>
        have kept := congrArg (fun p => stores p.2) four
        simp only [stores_stepFour, stores_gateEccLog] at kept
        (repeat' split) <;> simp [turnState, hs, ← kept]

theorem canonical_turnOf (s n i e) (hs : canonical part (stores s)) :
    canonical part (stores (turnState (turnOf s n i e))) := by
  unfold turnOf
  split
  · simp [turnState, hs]
  split
  · unfold turnFence
    dsimp only
    split <;> simp [turnState, hs]
  split
  · unfold turnClose
    dsimp only
    (repeat' split) <;> simp [turnState, hs]
  · exact canonical_turnLines s n i e hs

@[simp] theorem canonical_processFrom (fuel s n i) (hs : canonical part (stores s)) :
    canonical part (stores (processFrom fuel s n i)) := by
  induction fuel generalizing s i with
  | zero => exact hs
  | succ fuel ih =>
    unfold processFrom
    dsimp only
    split
    · exact hs
    split
    · exact hs
    next e _ =>
    split
    · split <;> simp [ih, hs]
    split
    · exact ih _ _ hs
    have turn := canonical_turnOf s n i e hs
    generalize turnOf s n i e = left at turn ⊢
    cases left with
    | wait t => exact turn
    | pass t => exact ih _ _ turn
    | done t => exact ih _ _ (by rw [stores_updN]; exact turn)
    | hold t =>
      replace turn : canonical part (stores t) := turn
      dsimp only
      (repeat' split) <;> simp [ih, turn]

@[simp] theorem canonical_processOnce (s n) (hs : canonical part (stores s)) :
    canonical part (stores (processOnce s n)) := by simp [processOnce, hs]
@[simp] theorem stores_abandon (s n) : stores (abandon s n) = stores s := by
  unfold abandon
  split <;> simp

@[simp] theorem stores_checkOperand (s n op pkt) : stores (checkOperand s n op pkt).1 = stores s := by
  unfold checkOperand
  dsimp only
  (repeat' split) <;> simp

@[simp] theorem stores_enterStore (s n op fetch pkt tagFree parity) :
    stores (enterStore s n op fetch pkt tagFree parity) = stores s := by simp [enterStore]
@[simp] theorem stores_logLocalParity (s n f) : stores (logLocalParity s n f) = stores s := by simp [logLocalParity]
@[simp] theorem stores_logLocalParities (s n h bad) : stores (logLocalParities s n h bad) = stores s := by
  simp [logLocalParities]
@[simp] theorem stores_drawBody (s n flits) : stores (drawBody s n flits) = stores s := by
  unfold drawBody
  dsimp only
  repeat' split
  all_goals simp

@[simp] theorem stores_drawHead (s n op fetch pkt) :
    stores (drawHead s n op fetch pkt) = stores s := by simp [drawHead]
@[simp] theorem stores_drawFlits (s n c) : stores (drawFlits s n c) = stores s := by simp [drawFlits]
@[simp] theorem canonical_drawFifo (fuel s n) (hs : canonical part (stores s)) :
    canonical part (stores (drawFifo fuel s n)) := by
  induction fuel generalizing s with
  | zero => exact hs
  | succ fuel ih =>
    unfold drawFifo
    dsimp only
    repeat' split
    all_goals simp [ih, hs]

@[simp] theorem canonical_feedHerd (fuel s) (hs : canonical part (stores s)) :
    canonical part (stores (feedHerd fuel s)) := by
  induction fuel generalizing s with
  | zero => exact hs
  | succ fuel ih =>
    unfold feedHerd
    dsimp only
    repeat' split
    all_goals simp [ih, hs]

@[simp] theorem canonical_feedCan (fuel s) (hs : canonical part (stores s)) :
    canonical part (stores (feedCan fuel s)) := by
  induction fuel generalizing s with
  | zero => exact hs
  | succ fuel ih =>
    unfold feedCan
    dsimp only
    repeat' split
    all_goals simp [ih, hs]

@[simp] theorem canonical_processStore (s n) (hs : canonical part (stores s)) :
    canonical part (stores (processStore s n)) := by
  unfold processStore
  split
  · exact hs
  · have drawn := canonical_drawFifo (nif (processOnce s n) n).reqFifo.length (processOnce s n) n
      (canonical_processFrom _ s n 0 hs)
    dsimp only
    (repeat' split) <;> simp [drawn]

@[simp] theorem canonical_pushFlits (s n c) (hs : canonical part (stores s)) :
    canonical part (stores (pushFlits s n c)) := by
  simp [pushFlits, hs]

@[simp] theorem canonical_present (s n op fetch pkt) (hs : canonical part (stores s)) :
    canonical part (stores (present s n op fetch pkt)) := by
  unfold present
  (repeat' split) <;> simp [hs]

/-! ### Machine/Routers.lean -/

@[simp] theorem stores_accruePool (s e now) : stores (accruePool s e now) = stores s := by simp [accruePool]
@[simp] theorem stores_freeCell (s r p bvc pool now) : stores (freeCell s r p bvc pool now) = stores s := by
  unfold freeCell
  (repeat' split) <;> simp

@[simp] theorem stores_logParity (s r p vc) : stores (logParity s r p vc) = stores s := by simp [logParity]
@[simp] theorem stores_acceptFlit (s r p bvc now w laOk) :
    stores (acceptFlit s r p bvc now w laOk) = stores s := by simp [acceptFlit]
@[simp] theorem stores_flitArrives (s r p k dist laDist) : stores (flitArrives s r p k dist laDist) = stores s := by
  unfold flitArrives
  split <;> simp

@[simp] theorem stores_sendOut (s r p w f len pool cls) : stores (sendOut s r p w f len pool cls) = stores s := by
  unfold sendOut
  (repeat' split) <;> simp

@[simp] theorem stores_grant (s r p k q aged) : stores (grant s r p k q aged) = stores s := by
  unfold grant
  dsimp only
  rw [stores_sendOut]
  simp only [stores_countR, stores_ite, ite_self]
  split <;> simp

@[simp] theorem stores_giveHint (s r inP vc h) : stores (giveHint s r inP vc h) = stores s := by
  unfold giveHint
  dsimp only
  split <;> simp

@[simp] theorem stores_afterDecision (s0 s r p k wins capped) :
    stores (afterDecision s0 s r p k wins capped) = stores s := by
  unfold afterDecision
  dsimp only
  rw [stores_foldl fun s v => by (repeat' split) <;> simp]
  (repeat' split) <;> simp

@[simp] theorem stores_allocate (s r ports k) : stores (allocate s r ports k) = stores s := by
  simp [allocate]
@[simp] theorem stores_execHeadFlitArrival (r p k dist laDist s) :
    stores (after s (execHeadFlitArrival r p k dist laDist s)) = stores s := by simp [execHeadFlitArrival]
@[simp] theorem stores_execSwitchAllocation (r ports k s) :
    stores (after s (execSwitchAllocation r ports k s)) = stores s := by simp [execSwitchAllocation]
@[simp] theorem stores_execCreditReturn (u vc s) : stores (after s (execCreditReturn u vc s)) = stores s := by
  unfold execCreditReturn
  split <;> simp

@[simp] theorem stores_execEscEntry (r p vc k s) :
    stores (after s (execEscEntry r p vc k s)) = stores s := by simp [execEscEntry]
@[simp] theorem stores_execReturnPortReinject (q k s) :
    stores (after s (execReturnPortReinject q k s)) = stores s := by
  unfold execReturnPortReinject
  dsimp only
  split <;> simp

/-! ### Machine/Inject.lean -/

@[simp] theorem stores_checkOut (s n pkt quiet) : stores (checkOut s n pkt quiet).1 = stores s := by simp [checkOut]
@[simp] theorem stores_driveFlit (s n h f) : stores (driveFlit s n h f) = stores s := by simp [driveFlit]
@[simp] theorem stores_ontoLocal (s n stamp pkt) : stores (ontoLocal s n stamp pkt) = stores s := by simp [ontoLocal]
@[simp] theorem stores_injectPiece (s n p) : stores (injectPiece s n p) = stores s := by
  unfold injectPiece
  dsimp only
  split <;> simp

@[simp] theorem stores_spillGone (s n stamp) : stores (spillGone s n stamp) = stores s := by simp [spillGone]
@[simp] theorem stores_injectOther (s n c) : stores (injectOther s n c) = stores s := by simp [injectOther]
@[simp] theorem stores_injectBody (s n v) : stores (injectBody s n v) = stores s := by
  unfold injectBody
  split <;> simp

@[simp] theorem canonical_injectNext (s n k) (hs : canonical part (stores s)) :
    canonical part (stores (injectNext s n k)) := by
  unfold injectNext
  dsimp only
  (repeat' split) <;> simp [hs]

@[simp] theorem canonical_execPieceInject (n k s) (hs : canonical part (stores s)) :
    canonical part (stores (after s (execPieceInject n k s))) := by simp [execPieceInject, hs]

/-! ### Machine/Target.lean -/

@[simp] theorem stores_ejPop (s n vc len) : stores (ejPop s n vc len) = stores s := by simp [ejPop]
@[simp] theorem stores_withFront {s n vc f} (hf : ∀ pkt, stores (f pkt) = stores s) :
    stores (withFront s n vc f) = stores s := by
  unfold withFront
  (repeat' split) <;> simp [hf]

@[simp] theorem canonical_withFront {s n vc f} (hs : canonical part (stores s))
    (hf : ∀ pkt, canonical part (stores (f pkt))) : canonical part (stores (withFront s n vc f)) := by
  unfold withFront
  (repeat' split) <;> simp [hs, hf]

@[simp] theorem stores_checkIn (s n pkt) : stores (checkIn s n pkt).1 = stores s := by simp [checkIn]
@[simp] theorem stores_sendRsp (s n p) : stores (sendRsp s n p) = stores s := by simp [sendRsp]
@[simp] theorem stores_discardArrival (s n vc pkt) :
    stores (discardArrival s n vc pkt) = stores s := by simp [discardArrival]
@[simp] theorem stores_inboundArrive (s n vc pkt) : stores (inboundArrive s n vc pkt) = stores s := by
  unfold inboundArrive
  dsimp only
  (repeat' split) <;> simp

@[simp] theorem stores_execInboundRequest (n vc s) :
    stores (after s (execInboundRequest n vc s)) = stores s := by simp [execInboundRequest]
@[simp] theorem stores_execOrdGap (n src s) : stores (after s (execOrdGap n src s)) = stores s := by
  unfold execOrdGap
  dsimp only
  (repeat' split) <;> simp

@[simp] theorem stores_execInboundDiscard (n s) :
    stores (after s (execInboundDiscard n s)) = stores s := by simp [execInboundDiscard]
@[simp] theorem stores_execInboundDiscardEnd (n s) :
    stores (after s (execInboundDiscardEnd n s)) = stores s := by simp [execInboundDiscardEnd]

/-! ### Machine/Master.lean -/

@[simp] theorem canonical_takeResponse (s n t rsp) (hs : canonical part (stores s)) :
    canonical part (stores (takeResponse s n t rsp)) := by simp [takeResponse, hs]
@[simp] theorem stores_refreshOrder (s n) : stores (refreshOrder s n) = stores s := by simp [refreshOrder]
@[simp] theorem stores_dropDiscarded (s n) : stores (dropDiscarded s n) = stores s := by simp [dropDiscarded]
@[simp] theorem canonical_execResponseArrival (n vc s) (hs : canonical part (stores s)) :
    canonical part (stores (after s (execResponseArrival n vc s))) := by
  unfold execResponseArrival
  simp only [after_next]
  split
  · refine canonical_withFront hs fun rsp => ?_
    (repeat' split) <;> simp [hs]
  · exact hs

@[simp] theorem canonical_retireReq (s n r) (hs : canonical part (stores s)) :
    canonical part (stores (retireReq s n r)) := by
  simp [retireReq, hs]

@[simp] theorem canonical_execResponseDelivery (n s) (hs : canonical part (stores s)) :
    canonical part (stores (after s (execResponseDelivery n s))) := by
  unfold execResponseDelivery
  dsimp only
  (repeat' split) <;> simp [hs]

@[simp] theorem canonical_execFenceComplete (n s) (hs : canonical part (stores s)) :
    canonical part (stores (after s (execFenceComplete n s))) := by
  unfold execFenceComplete
  dsimp only
  split <;> simp [hs]

@[simp] theorem canonical_execTagLost (n tag s) (hs : canonical part (stores s)) :
    canonical part (stores (after s (execTagLost n tag s))) := by
  unfold execTagLost
  dsimp only
  (repeat' split) <;> simp [hs]

@[simp] theorem canonical_execQuarantineEnd (n tag s) (hs : canonical part (stores s)) :
    canonical part (stores (after s (execQuarantineEnd n tag s))) := by
  unfold execQuarantineEnd
  simp only [after_next]
  (repeat' split) <;> simp [hs]

@[simp] theorem canonical_execRdLine (n k fetch pkt s) (hs : canonical part (stores s)) :
    canonical part (stores (after s (execRdLine n k fetch pkt s))) := by simp [execRdLine, hs]
@[simp] theorem canonical_execRdSpray (n k fetch pkt s) (hs : canonical part (stores s)) :
    canonical part (stores (after s (execRdSpray n k fetch pkt s))) := by simp [execRdSpray, hs]
@[simp] theorem canonical_execWrFullP (n k pkt s) (hs : canonical part (stores s)) :
    canonical part (stores (after s (execWrFullP n k pkt s))) := by simp [execWrFullP, hs]
@[simp] theorem canonical_execWrFullNp (n k pkt s) (hs : canonical part (stores s)) :
    canonical part (stores (after s (execWrFullNp n k pkt s))) := by simp [execWrFullNp, hs]
@[simp] theorem canonical_execWrPartP (n k pkt s) (hs : canonical part (stores s)) :
    canonical part (stores (after s (execWrPartP n k pkt s))) := by simp [execWrPartP, hs]
@[simp] theorem canonical_execWrPartNp (n k pkt s) (hs : canonical part (stores s)) :
    canonical part (stores (after s (execWrPartNp n k pkt s))) := by simp [execWrPartNp, hs]
@[simp] theorem canonical_execAtAdd (n k pkt s) (hs : canonical part (stores s)) :
    canonical part (stores (after s (execAtAdd n k pkt s))) := by simp [execAtAdd, hs]
@[simp] theorem canonical_execAtMin (n k pkt s) (hs : canonical part (stores s)) :
    canonical part (stores (after s (execAtMin n k pkt s))) := by simp [execAtMin, hs]
@[simp] theorem canonical_execAtMax (n k pkt s) (hs : canonical part (stores s)) :
    canonical part (stores (after s (execAtMax n k pkt s))) := by simp [execAtMax, hs]
@[simp] theorem canonical_execAtSwap (n k pkt s) (hs : canonical part (stores s)) :
    canonical part (stores (after s (execAtSwap n k pkt s))) := by simp [execAtSwap, hs]
@[simp] theorem canonical_execAtCas (n k pkt s) (hs : canonical part (stores s)) :
    canonical part (stores (after s (execAtCas n k pkt s))) := by simp [execAtCas, hs]
@[simp] theorem canonical_execLkAcq (n k pkt s) (hs : canonical part (stores s)) :
    canonical part (stores (after s (execLkAcq n k pkt s))) := by simp [execLkAcq, hs]
@[simp] theorem canonical_execLkRel (n k pkt s) (hs : canonical part (stores s)) :
    canonical part (stores (after s (execLkRel n k pkt s))) := by simp [execLkRel, hs]
@[simp] theorem canonical_execFnStoreT (n k pkt s) (hs : canonical part (stores s)) :
    canonical part (stores (after s (execFnStoreT n k pkt s))) := by simp [execFnStoreT, hs]
@[simp] theorem canonical_execFnStoreG (n k pkt s) (hs : canonical part (stores s)) :
    canonical part (stores (after s (execFnStoreG n k pkt s))) := by simp [execFnStoreG, hs]
@[simp] theorem canonical_execFnFullT (n k pkt s) (hs : canonical part (stores s)) :
    canonical part (stores (after s (execFnFullT n k pkt s))) := by simp [execFnFullT, hs]
@[simp] theorem canonical_execFnFullG (n k pkt s) (hs : canonical part (stores s)) :
    canonical part (stores (after s (execFnFullG n k pkt s))) := by simp [execFnFullG, hs]
@[simp] theorem canonical_execMsgIntr (n k pkt s) (hs : canonical part (stores s)) :
    canonical part (stores (after s (execMsgIntr n k pkt s))) := by simp [execMsgIntr, hs]
@[simp] theorem canonical_execMsgMail (n k pkt s) (hs : canonical part (stores s)) :
    canonical part (stores (after s (execMsgMail n k pkt s))) := by simp [execMsgMail, hs]
@[simp] theorem canonical_execEpochClose (n k pkt s) (hs : canonical part (stores s)) :
    canonical part (stores (after s (execEpochClose n k pkt s))) := by simp [execEpochClose, hs]
@[simp] theorem canonical_presentAny (s n fetch pkt) (hs : canonical part (stores s)) :
    canonical part (stores (presentAny s n fetch pkt)) := by
  unfold presentAny
  dsimp only
  (repeat' split) <;> simp [hs]

@[simp] theorem canonical_execMalformed (n k pkt s) (hs : canonical part (stores s)) :
    canonical part (stores (after s (execMalformed n k pkt s))) := by simp [execMalformed, hs]
@[simp] theorem canonical_execPrematureHead (n k fetch pkt s) (hs : canonical part (stores s)) :
    canonical part (stores (after s (execPrematureHead n k fetch pkt s))) := by simp [execPrematureHead, hs]
@[simp] theorem canonical_resumeStore (s n) (hs : canonical part (stores s)) :
    canonical part (stores (resumeStore s n)) := by simp [resumeStore, hs]
@[simp] theorem canonical_execMeterHoldRetry (n k s) (hs : canonical part (stores s)) :
    canonical part (stores (after s (execMeterHoldRetry n k s))) := by simp [execMeterHoldRetry, hs]
@[simp] theorem canonical_execRequestStep5Resume (n k s) (hs : canonical part (stores s)) :
    canonical part (stores (after s (execRequestStep5Resume n k s))) := by simp [execRequestStep5Resume, hs]
@[simp] theorem canonical_execEndpointAbandon (n s) (hs : canonical part (stores s)) :
    canonical part (stores (after s (execEndpointAbandon n s))) := by simp [execEndpointAbandon, hs]
@[simp] theorem stores_execAbandonRemainderDiscard (n flit s) :
    stores (after s (execAbandonRemainderDiscard n flit s)) = stores s := by simp [execAbandonRemainderDiscard]

/-! ### Machine/Offer.lean -/

@[simp] theorem stores_offerPkt (s n t p) : stores (offerPkt s n t p) = stores s := by simp [offerPkt]
@[simp] theorem stores_sendAfter (s n stamps p) : stores (sendAfter s n stamps p) = stores s := by simp [sendAfter]
@[simp] theorem stores_offerRuns (s n p rs whole after runs) :
    stores (offerRuns s n p rs whole after runs) = stores s := by
  unfold offerRuns
  split <;> simp

@[simp] theorem stores_atomStart (s n p staged) : stores (atomStart s n p staged) = stores s := by simp [atomStart]
@[simp] theorem stores_atomReadDone (s n e l st) : stores (atomReadDone s n e l st).1 = stores s := by
  unfold atomReadDone
  dsimp only
  (repeat' split) <;> simp

@[simp] theorem stores_atomWriteDone (s n e st) : stores (atomWriteDone s n e st).1 = stores s := by
  unfold atomWriteDone
  split <;> simp

@[simp] theorem stores_logLock (s n ev who line w) :
    stores (logLock s n ev who line w) = stores s := by simp [logLock]
@[simp] theorem stores_lockAcquire (s n h) : stores (lockAcquire s n h) = stores s := by
  unfold lockAcquire
  dsimp only
  split <;> simp

@[simp] theorem stores_lockRelease (s n h) : stores (lockRelease s n h) = stores s := by
  unfold lockRelease
  dsimp only
  split <;> simp

@[simp] theorem stores_breakLocks (s n ev p) : stores (breakLocks s n ev p) = stores s := by
  simp [breakLocks]
@[simp] theorem stores_execLockLease (n s) :
    stores (after s (execLockLease n s)) = stores s := by simp [execLockLease]
@[simp] theorem stores_takeGeneration (s n o) : stores (takeGeneration s n o) = stores s := by simp [takeGeneration]
@[simp] theorem stores_execOwnerGenerationChange (n o s) :
    stores (after s (execOwnerGenerationChange n o s)) = stores s := by simp [execOwnerGenerationChange]
@[simp] theorem stores_execLockReopenWindowEnd (n s) : stores (after s (execLockReopenWindowEnd n s)) = stores s := by
  unfold execLockReopenWindowEnd
  split <;> simp

@[simp] theorem stores_updG (s n g f) : stores (updG s n g f) = stores s := by simp [updG]

/-! ### Machine/Curd.lean -/

@[simp] theorem stores_logJudges (s n src js) :
    stores (logJudges s n src js) = stores s := stores_foldl fun s j => by split <;> simp
@[simp] theorem stores_spill (s n g es) : stores (spill s n g es).1 = stores s := by simp [spill]
@[simp] theorem stores_stageOne (s n e) : stores (stageOne s n e).1 = stores s := by
  unfold stageOne
  dsimp only
  split <;> simp

@[simp] theorem stores_stageAll (s n es) : stores (stageAll s n es).1 = stores s := by simp [stageAll]
@[simp] theorem stores_takeWrite (s n p) : stores (takeWrite s n p) = stores s := by
  unfold takeWrite
  dsimp only
  split <;> simp

@[simp] theorem stores_takeAtomic (s n p) : stores (takeAtomic s n p) = stores s := by
  unfold takeAtomic
  dsimp only
  (repeat' split) <;> simp

@[simp] theorem stores_offerRead (s n p js) : stores (offerRead s n p js) = stores s := by simp [offerRead]
@[simp] theorem stores_takeRead (s n p) : stores (takeRead s n p) = stores s := by
  unfold takeRead
  split <;> simp

@[simp] theorem stores_serveWaiting (s n) : stores (serveWaiting s n) = stores s := stores_foldl fun s p => by
  dsimp only
  (repeat' split) <;> simp

theorem stores_releaseOne {s n g e t} (h : releaseOne s n g e = some t) : stores t = stores s := by
  unfold releaseOne at h
  dsimp only at h
  repeat' split at h
  all_goals cases h
  all_goals simp

@[simp] theorem stores_offerEnts (s n g es lines) : stores (offerEnts s n g es lines) = stores s := by
  induction es generalizing s lines with
  | nil => rfl
  | cons e rest ih =>
    unfold offerEnts
    repeat' split
    · exact ih ..
    · rfl
    · rfl
    all_goals rw [ih, stores_releaseOne (by assumption)]

@[simp] theorem stores_askRecords (s n g q p) : stores (askRecords s n g q p) = stores s := by
  unfold askRecords
  dsimp only
  split <;> simp

@[simp] theorem stores_endPass (s n g l p) : stores (endPass s n g l p) = stores s := by
  simp [endPass]
@[simp] theorem stores_passStep (fuel s n g l) : stores (passStep fuel s n g l) = stores s := by
  induction fuel generalizing s with
  | zero => rfl
  | succ fuel ih =>
    unfold passStep
    dsimp only
    (repeat' split) <;> simp [ih]

@[simp] theorem stores_pump (s n g) : stores (pump s n g) = stores s := by
  unfold pump
  dsimp only
  split <;> simp

@[simp] theorem stores_beginRelease (s n g) : stores (beginRelease s n g) = stores s := by simp [beginRelease]
@[simp] theorem stores_entDone (s n g idx again) : stores (entDone s n g idx again) = stores s := by simp [entDone]
@[simp] theorem stores_atomEnd (s n e r) : stores (atomEnd s n e r) = stores s := by
  unfold atomEnd
  (repeat' split) <;> simp

@[simp] theorem stores_execCurdRelease (n g s) :
    stores (after s (execCurdRelease n g s)) = stores s := by simp [execCurdRelease]
@[simp] theorem stores_execCurdEpochReleased (n g s) : stores (after s (execCurdEpochReleased n g s)) = stores s := by
  unfold execCurdEpochReleased
  dsimp only
  split <;> simp

@[simp] theorem stores_execCurdReleaseResume (n s) :
    stores (after s (execCurdReleaseResume n s)) = stores s := by simp [execCurdReleaseResume]
@[simp] theorem stores_takeRecord (s n g l pos m d) : stores (takeRecord s n g l pos m d) = stores s := by
  unfold takeRecord
  dsimp only
  generalize List.foldl _ none _ = largest
  cases largest <;> simp

@[simp] theorem stores_execVatData (n s) : stores (after s (execVatData n s)) = stores s := by
  unfold execVatData
  rw [after_next]
  split
  · rfl
  · refine stores_withFront fun pkt => ?_
    dsimp only
    split
    · rfl
    split
    · simp
    · (repeat' split) <;> simp

@[simp] theorem stores_drainSink (s n) : stores (drainSink s n) = stores s := by
  unfold drainSink
  split
  · rfl
  · simp

@[simp] theorem stores_vatArrive (s n op) : stores (vatArrive s n op) = stores s := by simp [vatArrive]
@[simp] theorem stores_execVatSpill (n s) : stores (after s (execVatSpill n s)) = stores s := by simp [execVatSpill]
@[simp] theorem stores_execVatDrain (n s) : stores (after s (execVatDrain n s)) = stores s := by simp [execVatDrain]
@[simp] theorem canonical_execEpochCloseInject (n g s) (hs : canonical part (stores s)) :
    canonical part (stores (after s (execEpochCloseInject n g s))) := by
  unfold execEpochCloseInject
  dsimp only
  split <;> simp [hs]

@[simp] theorem stores_execCloseRepeat (n s) :
    stores (after s (execCloseRepeat n s)) = stores s := by simp [execCloseRepeat]
@[simp] theorem stores_updCo (s g f) : stores (updCo s g f) = stores s := by simp [updCo]
@[simp] theorem stores_execEpochCloseArrival (s) :
    stores (after s (execEpochCloseArrival s)) = stores s := by simp [execEpochCloseArrival]
theorem stores_sendCommit {s g l q i t} (h : sendCommit s g l q i = some t) : stores t = stores s := by
  unfold sendCommit at h
  dsimp only at h
  split at h
  · cases h
    simp
  · cases h

@[simp] theorem stores_commitGroup (s t g) : stores (commitGroup s t g) = stores s := by
  unfold commitGroup
  dsimp only
  split
  · rfl
  split
  · rfl
  split
  · rfl
  next sent =>
    have kept := stores_sendCommit sent
    (repeat' split) <;> simpa using kept

@[simp] theorem stores_coordTick (s t) : stores (coordTick s t) = stores s := by simp [coordTick]
@[simp] theorem stores_execCommitRepeat (s) : stores (after s (execCommitRepeat s)) = stores s := by
  unfold execCommitRepeat
  simp only [after_next]
  split
  · refine stores_foldl fun s g => ?_
    split
    · next l q i _ =>
      cases sent : sendCommit s g l q i with
      | none => rfl
      | some t => exact stores_sendCommit sent
    · rfl
  · rfl

@[simp] theorem stores_execCmCommit (n s) : stores (after s (execCmCommit n s)) = stores s := by simp [execCmCommit]
@[simp] theorem canonical_execCurdMemberCommit (n g s) (hs : canonical part (stores s)) :
    canonical part (stores (after s (execCurdMemberCommit n g s))) := by
  unfold execCurdMemberCommit
  dsimp only
  split <;> simp [hs]

@[simp] theorem canonical_takeGroupState (s n g) (hs : canonical part (stores s)) :
    canonical part (stores (takeGroupState s n g)) := by
  unfold takeGroupState
  dsimp only
  (repeat' split) <;> simp [hs]

@[simp] theorem canonical_execGroupStateChange (n g s) (hs : canonical part (stores s)) :
    canonical part (stores (after s (execGroupStateChange n g s))) := by simp [execGroupStateChange, hs]
@[simp] theorem stores_updRing (s r f) : stores (updRing s r f) = stores s := by simp [updRing]

/-! ### Machine/Herd.lean -/

@[simp] theorem stores_eventToRing (s ev r) : stores (eventToRing s ev r) = stores s := by simp [eventToRing]
@[simp] theorem canonical_writeEvent (s ev) (hs : canonical part (stores s)) :
    canonical part (stores (writeEvent s ev)) := by simp [writeEvent, hs]
@[simp] theorem stores_applyIndex (s r v) : stores (applyIndex s r v) = stores s := by simp [applyIndex]
@[simp] theorem stores_execDbFwd (s) : stores (after s (execDbFwd s)) = stores s := by simp [execDbFwd]
@[simp] theorem stores_pollRing (s r l) : stores (pollRing s r l) = stores s := by simp [pollRing]
@[simp] theorem stores_execRingPoll (homes s) :
    stores (after s (execRingPoll homes s)) = stores s := by simp [execRingPoll]
@[simp] theorem stores_execCommandFetch (ring entries s) :
    stores (after s (execCommandFetch ring entries s)) = stores s := by simp [execCommandFetch]
@[simp] theorem stores_execCommandIndexRecheck (ring entry s) :
    stores (after s (execCommandIndexRecheck ring entry s)) = stores s := by simp [execCommandIndexRecheck]
@[simp] theorem stores_noteMode (s target st detail) :
    stores (noteMode s target st detail) = stores s := by simp [noteMode]
@[simp] theorem stores_execCommandStart (ring s) : stores (after s (execCommandStart ring s)) = stores s := by
  unfold execCommandStart
  dsimp only
  (repeat' split) <;> simp

@[simp] theorem stores_ranCmd (s ring index) : stores (ranCmd s ring index) = stores s := by simp [ranCmd]
@[simp] theorem stores_execCommandComplete (ring s) : stores (after s (execCommandComplete ring s)) = stores s := by
  unfold execCommandComplete
  (repeat' split) <;> simp

@[simp] theorem stores_execPublishBatch (ring k s) :
    stores (after s (execPublishBatch ring k s)) = stores s := by simp [execPublishBatch]
@[simp] theorem stores_haltRing (s ring) : stores (haltRing s ring) = stores s := by simp [haltRing]
@[simp] theorem stores_execPublishIndex (ring s) :
    stores (after s (execPublishIndex ring s)) = stores s := by simp [execPublishIndex]
@[simp] theorem stores_execRingInterrupt (ring s) :
    stores (after s (execRingInterrupt ring s)) = stores s := by simp [execRingInterrupt]
@[simp] theorem stores_enableRing (s r w) : stores (enableRing s r w) = stores s := by simp [enableRing]
@[simp] theorem stores_execSpineUpUpdate (r s) :
    stores (after s (execSpineUpUpdate r s)) = stores s := by simp [execSpineUpUpdate]
@[simp] theorem stores_execDoorbellWindowUpdate (n w s) :
    stores (after s (execDoorbellWindowUpdate n w s)) = stores s := by simp [execDoorbellWindowUpdate]
@[simp] theorem stores_execDbgAuthChange (level s) :
    stores (after s (execDbgAuthChange level s)) = stores s := by simp [execDbgAuthChange]

/-! ### Machine/Spine.lean -/

@[simp] theorem stores_repLink (s e ev) : stores (repLink s e ev) = stores s := by simp [repLink]
@[simp] theorem stores_startRetrain (s e) : stores (startRetrain s e) = stores s := by simp [startRetrain]
@[simp] theorem stores_setSpineUp (s l up hubs) : stores (setSpineUp s l up hubs) = stores s := by simp [setSpineUp]
@[simp] theorem stores_declareDown (s l) : stores (declareDown s l) = stores s := by simp [declareDown]
@[simp] theorem stores_fruitlessReplay (s e from_) :
    stores (fruitlessReplay s e from_) = stores s := by simp [fruitlessReplay]
@[simp] theorem stores_takeAck (s e q now) : stores (takeAck s e q now) = stores s := by simp [takeAck]
@[simp] theorem stores_takeNak (s e q now) : stores (takeNak s e q now) = stores s := by simp [takeNak]
@[simp] theorem stores_execLinkSfuReceive (e k dist s) :
    stores (after s (execLinkSfuReceive e k dist s)) = stores s := by
  unfold execLinkSfuReceive
  dsimp only
  (repeat' split) <;> simp

@[simp] theorem stores_recToHub (s e r) : stores (recToHub s e r) = stores s := by simp [recToHub]
@[simp] theorem stores_sfuFails (s e w rest) : stores (sfuFails s e w rest) = stores s := by simp [sfuFails]
@[simp] theorem stores_execDataSfuReceive (e k dist s) :
    stores (after s (execDataSfuReceive e k dist s)) = stores s := by
  unfold execDataSfuReceive
  dsimp only
  (repeat' split) <;> simp

@[simp] theorem stores_execNakRepeat (e k s) :
    stores (after s (execNakRepeat e k s)) = stores s := by simp [execNakRepeat]
@[simp] theorem stores_execAckDue (e k s) : stores (after s (execAckDue e k s)) = stores s := by simp [execAckDue]
@[simp] theorem stores_execReplayTimeout (e k s) :
    stores (after s (execReplayTimeout e k s)) = stores s := by simp [execReplayTimeout]
@[simp] theorem stores_onLanes (s e w) : stores (onLanes s e w) = stores s := by simp [onLanes]
@[simp] theorem stores_sendLink (s e now) : stores (sendLink s e now) = stores s := by simp [sendLink]
@[simp] theorem stores_sendReplay (s e q now) : stores (sendReplay s e q now) = stores s := by
  unfold sendReplay
  split <;> simp

@[simp] theorem stores_sendData (s e now) : stores (sendData s e now) = stores s := by simp [sendData]
@[simp] theorem stores_execSpineRecordSend (e k s) : stores (after s (execSpineRecordSend e k s)) = stores s := by
  unfold execSpineRecordSend
  dsimp only
  (repeat' split) <;> simp

@[simp] theorem stores_updLane (s e i f) : stores (updLane s e i f) = stores s := by simp [updLane]
@[simp] theorem stores_lockLost (s e i) : stores (lockLost s e i) = stores s := by
  unfold lockLost
  split <;> simp

@[simp] theorem stores_execLaneLockLoss (e lane s) :
    stores (after s (execLaneLockLoss e lane s)) = stores s := by simp [execLaneLockLoss]
@[simp] theorem stores_execLaneFailing (e lane s) : stores (after s (execLaneFailing e lane s)) = stores s := by
  unfold execLaneFailing
  dsimp only
  split <;> simp

@[simp] theorem stores_laneMarker1 (s e m i) : stores (laneMarker1 s e m i) = stores s := by
  unfold laneMarker1
  dsimp only
  split <;> simp

@[simp] theorem stores_execLaneMarker (e seen s) :
    stores (after s (execLaneMarker e seen s)) = stores s := by simp [execLaneMarker]
@[simp] theorem stores_reportLanes (s e gone kept) : stores (reportLanes s e gone kept) = stores s := by
  unfold reportLanes
  dsimp only
  (repeat' split) <;> simp

@[simp] theorem stores_relayUp (s e) : stores (relayUp s e) = stores s := by simp [relayUp]
@[simp] theorem stores_resume270 (s e now) : stores (resume270 s e now) = stores s := by simp [resume270]
@[simp] theorem stores_freshTx (s e now) : stores (freshTx s e now) = stores s := by simp [freshTx]
@[simp] theorem stores_trainFails (s e) : stores (trainFails s e) = stores s := by simp [trainFails]
@[simp] theorem stores_execLinkTrainingComplete (e seen far s) :
    stores (after s (execLinkTrainingComplete e seen far s)) = stores s := by
  unfold execLinkTrainingComplete
  dsimp only
  (repeat' split) <;> simp

@[simp] theorem stores_execLinkTrainingTimeout (e s) :
    stores (after s (execLinkTrainingTimeout e s)) = stores s := by simp [execLinkTrainingTimeout]
@[simp] theorem stores_execLinkRetrainComplete (e seen s) :
    stores (after s (execLinkRetrainComplete e seen s)) = stores s := by
  unfold execLinkRetrainComplete
  dsimp only
  (repeat' split) <;> simp

@[simp] theorem stores_execLinkRetrainFail (e s) :
    stores (after s (execLinkRetrainFail e s)) = stores s := by simp [execLinkRetrainFail]
@[simp] theorem stores_execLockLossExpiry (e s) :
    stores (after s (execLockLossExpiry e s)) = stores s := by simp [execLockLossExpiry]
@[simp] theorem stores_execLinkDown (l s) : stores (after s (execLinkDown l s)) = stores s := by simp [execLinkDown]
@[simp] theorem stores_execLinkDownRetry (e s) :
    stores (after s (execLinkDownRetry e s)) = stores s := by simp [execLinkDownRetry]
@[simp] theorem stores_execTrainingPatternsSeen (e s) :
    stores (after s (execTrainingPatternsSeen e s)) = stores s := by
  unfold execTrainingPatternsSeen
  dsimp only
  (repeat' split) <;> simp

@[simp] theorem stores_padIn (s e v) : stores (padIn s e v).1 = stores s := by
  unfold padIn
  dsimp only
  split <;> simp

@[simp] theorem stores_repReturn (s e ret disc pad) :
    stores (repReturn s e ret disc pad) = stores s := by simp [repReturn]
@[simp] theorem stores_padAll (s e) : stores (padAll s e).1 = stores s := by simp [padAll]
@[simp] theorem stores_execReturnWaitExpiry (e s) : stores (after s (execReturnWaitExpiry e s)) = stores s := by
  unfold execReturnWaitExpiry
  dsimp only
  split <;> simp

@[simp] theorem stores_execReturnETimeout (e s) : stores (after s (execReturnETimeout e s)) = stores s := by
  unfold execReturnETimeout
  dsimp only
  split <;> simp

@[simp] theorem stores_startTraining (s e) : stores (startTraining s e) = stores s := by simp [startTraining]
@[simp] theorem stores_linkEnOff (s l) : stores (linkEnOff s l) = stores s := by
  unfold linkEnOff
  dsimp only
  repeat' split
  all_goals simp

@[simp] theorem stores_execLinkEnOff (l s) :
    stores (after s (execLinkEnOff l s)) = stores s := by simp [execLinkEnOff]

/-! ### Machine/Dip.lean -/

@[simp] theorem stores_sendSel (s g w) : stores (sendSel s g w) = stores s := by
  unfold sendSel
  split <;> simp

@[simp] theorem stores_writeSel (s v) : stores (writeSel s v) = stores s := by simp [writeSel]
@[simp] theorem stores_resendSels (s p) : stores (resendSels s p) = stores s := by simp [resendSels]
@[simp] theorem stores_execDipSelData (v s) :
    stores (after s (execDipSelData v s)) = stores s := by simp [execDipSelData]
@[simp] theorem stores_accrueUnit (s u) : stores (accrueUnit s u) = stores s := by
  unfold accrueUnit
  split <;> simp

@[simp] theorem stores_accrueAt (s r) : stores (accrueAt s r) = stores s := by simp [accrueAt]
@[simp] theorem stores_restartUnit (s u) : stores (restartUnit s u) = stores s := by simp [restartUnit]
@[simp] theorem stores_latchRouter (s t r) : stores (latchRouter s t r) = stores s := by simp [latchRouter]
@[simp] theorem stores_armUnits (s) : stores (armUnits s) = stores s := by
  unfold armUnits
  split <;> simp

@[simp] theorem stores_latchCluster (s c) :
    stores (latchCluster s c) = stores s := stores_foldl fun s r => by split <;> simp
@[simp] theorem stores_execSnapshotLatch (c s) :
    stores (after s (execSnapshotLatch c s)) = stores s := by simp [execSnapshotLatch]
@[simp] theorem stores_applySels (s u) : stores (applySels s u) = stores s := by simp [applySels]
@[simp] theorem stores_execSelectionApply (u s) :
    stores (after s (execSelectionApply u s)) = stores s := by simp [execSelectionApply]
@[simp] theorem stores_dropGather (s) : stores (dropGather s) = stores s := by simp [dropGather]
@[simp] theorem stores_gatherOver (s abandoned) : stores (gatherOver s abandoned) = stores s := by
  unfold gatherOver
  dsimp only
  split <;> simp

@[simp] theorem stores_execDipperGather (s) : stores (after s (execDipperGather s)) = stores s := by
  unfold execDipperGather
  split <;> simp

@[simp] theorem stores_execDipperPublish (s) : stores (after s (execDipperPublish s)) = stores s := by
  unfold execDipperPublish
  split <;> simp

@[simp] theorem stores_execGatherAbandon (s) : stores (after s (execGatherAbandon s)) = stores s := by
  unfold execGatherAbandon
  split <;> simp

@[simp] theorem stores_execSnapshot (ring s) : stores (after s (execSnapshot ring s)) = stores s := by
  unfold execSnapshot
  (repeat' split) <;> simp

@[simp] theorem stores_writeSelStatus (s v) : stores (writeSelStatus s v) = stores s := by simp [writeSelStatus]
@[simp] theorem stores_execDipSelStatus (v s) :
    stores (after s (execDipSelStatus v s)) = stores s := by simp [execDipSelStatus]
@[simp] theorem stores_writeDipReg (s reg v) : stores (writeDipReg s reg v) = stores s := by
  unfold writeDipReg
  split <;> simp

@[simp] theorem stores_execDipUserCtl (reg v s) :
    stores (after s (execDipUserCtl reg v s)) = stores s := by simp [execDipUserCtl]

/-! ### Machine/Can.lean -/

@[simp] theorem stores_flushCan (s) : stores (flushCan s) = stores s := by
  unfold flushCan
  split
  · rw [stores_foldl fun s ev => stores_report s ev]
    simp
  · rfl

@[simp] theorem stores_canEvent (s code detail record) :
    stores (canEvent s code detail record) = stores s := by simp [canEvent]
@[simp] theorem stores_canLogAt (s code arg detail aclk) :
    stores (canLogAt s code arg detail aclk) = stores s := by simp [canLogAt]
@[simp] theorem stores_canLog (s code arg detail) : stores (canLog s code arg detail) = stores s := by simp [canLog]
@[simp] theorem stores_closeReport (s reason t absent) :
    stores (closeReport s reason t absent) = stores s := by simp [closeReport]
@[simp] theorem stores_closeNow (s) : stores (closeNow s) = stores s := by
  unfold closeNow
  split <;> simp

@[simp] theorem stores_badTally (s l w) : stores (badTally s l w) = stores s := by simp [badTally]
@[simp] theorem stores_takeMarker (s l w) : stores (takeMarker s l w) = stores s := by
  unfold takeMarker
  dsimp only
  (repeat' split) <;> simp

@[simp] theorem stores_takeLane (s l marker dist) : stores (takeLane s l marker dist) = stores s := by
  unfold takeLane
  split <;> simp

@[simp] theorem stores_execTallyWord (lane dist s) :
    stores (after s (execTallyWord lane dist s)) = stores s := by simp [execTallyWord]
@[simp] theorem stores_execTallyMarker (lane dist s) :
    stores (after s (execTallyMarker lane dist s)) = stores s := by simp [execTallyMarker]
@[simp] theorem stores_execReportClose (s) :
    stores (after s (execReportClose s)) = stores s := by simp [execReportClose]
@[simp] theorem stores_execLaneAbsentTimeout (s) :
    stores (after s (execLaneAbsentTimeout s)) = stores s := by simp [execLaneAbsentTimeout]
@[simp] theorem stores_canTaken (s) : stores (canTaken s) = stores s := by simp [canTaken]
@[simp] theorem stores_abandonReport (s) : stores (abandonReport s) = stores s := by
  unfold abandonReport
  split <;> simp

@[simp] theorem canonical_execReportWrite (s) (hs : canonical part (stores s)) :
    canonical part (stores (after s (execReportWrite s))) := by
  unfold execReportWrite
  (repeat' split) <;> simp [hs]

@[simp] theorem canonical_sendTrailer (s r) (hs : canonical part (stores s)) :
    canonical part (stores (sendTrailer s r)) := by
  simp [sendTrailer, hs]

@[simp] theorem stores_reportDone (s r) : stores (reportDone s r) = stores s := by simp [reportDone]
@[simp] theorem canonical_execReportTrailer (s) (hs : canonical part (stores s)) :
    canonical part (stores (after s (execReportTrailer s))) := by
  unfold execReportTrailer
  (repeat' split) <;> simp [hs]

@[simp] theorem stores_execMeterResetNotice (s) :
    stores (after s (execMeterResetNotice s)) = stores s := by simp [execMeterResetNotice]
@[simp] theorem stores_execCanScrub (bad s) : stores (after s (execCanScrub bad s)) = stores s := by
  unfold execCanScrub
  split <;> simp

@[simp] theorem stores_execMeterClock (s) : stores (after s (execMeterClock s)) = stores s := by simp [execMeterClock]
@[simp] theorem stores_execMtrRst (s) : stores (after s (execMtrRst s)) = stores s := by simp [execMtrRst]
@[simp] theorem stores_unsealAnswer (s ans) : stores (unsealAnswer s ans) = stores s := by
  unfold unsealAnswer
  split <;> simp

@[simp] theorem stores_otsAnswer (s ans) : stores (otsAnswer s ans) = stores s := by
  unfold otsAnswer
  split <;> simp

@[simp] theorem stores_execOtsMAnswer (ans s) :
    stores (after s (execOtsMAnswer ans s)) = stores s := by simp [execOtsMAnswer]
@[simp] theorem stores_execUnsealConfirm (ans s) :
    stores (after s (execUnsealConfirm ans s)) = stores s := by simp [execUnsealConfirm]
@[simp] theorem stores_sealedWrite (s off v) : stores (sealedWrite s off v) = stores s := by simp [sealedWrite]
@[simp] theorem stores_askClose (s reason) : stores (askClose s reason) = stores s := by simp [askClose]
@[simp] theorem stores_writeSeal (s v) : stores (writeSeal s v) = stores s := by simp [writeSeal]
@[simp] theorem stores_writeUnseal (s v) : stores (writeUnseal s v) = stores s := by simp [writeUnseal]
@[simp] theorem stores_writeTmap (s v) : stores (writeTmap s v) = stores s := by simp [writeTmap]
@[simp] theorem stores_writeRptCtl (s v) : stores (writeRptCtl s v) = stores s := by simp [writeRptCtl]
@[simp] theorem stores_writeMtr (s off v) : stores (writeMtr s off v) = stores s := by
  unfold writeMtr
  split <;> simp

@[simp] theorem stores_debugAccess (s off) : stores (debugAccess s off) = stores s := by simp [debugAccess]
@[simp] theorem stores_execMtrSeal (v s) : stores (after s (execMtrSeal v s)) = stores s := by simp [execMtrSeal]
@[simp] theorem stores_execMtrUnseal (v sealOpen s) :
    stores (after s (execMtrUnseal v sealOpen s)) = stores s := by simp [execMtrUnseal]
@[simp] theorem stores_execSealedWrite (off v s) :
    stores (after s (execSealedWrite off v s)) = stores s := by simp [execSealedWrite]
@[simp] theorem stores_execMtrTmapData (v s) :
    stores (after s (execMtrTmapData v s)) = stores s := by simp [execMtrTmapData]
@[simp] theorem stores_execMtrRptNow (v s) :
    stores (after s (execMtrRptNow v s)) = stores s := by simp [execMtrRptNow]
@[simp] theorem stores_execMtrDebugAccess (off s) :
    stores (after s (execMtrDebugAccess off s)) = stores s := by simp [execMtrDebugAccess]

/-! ### Machine/Churn.lean -/

@[simp] theorem stores_groupFail (s g stageLost lost) :
    stores (groupFail s g stageLost lost) = stores s := by simp [groupFail]
@[simp] theorem stores_loseLocks (s n) : stores (loseLocks s n) = stores s := by simp [loseLocks]
@[simp] theorem stores_repBank (s b code record) : stores (repBank s b code record) = stores s := by
  unfold repBank
  split <;> simp

@[simp] theorem stores_putEngine (s e) : stores (putEngine s e) = stores s := by simp [putEngine]
@[simp] theorem stores_churnTick (s c) : stores (churnTick s c) = stores s := by simp [churnTick]
@[simp] theorem stores_crockTick (s) : stores (crockTick s) = stores s := by simp [crockTick]
@[simp] theorem stores_ownerRule (s b k) : stores (ownerRule s b k) = stores s := by
  unfold ownerRule
  (repeat' split) <;> simp

@[simp] theorem stores_wordUe (s b row w syn src k) :
    stores (wordUe s b row w syn src k) = stores s := by simp [wordUe]
@[simp] theorem stores_wordFixed (s b row w syn src) :
    stores (wordFixed s b row w syn src) = stores s := by simp [wordFixed]
@[simp] theorem stores_scrubWords (s b row seen) :
    stores (scrubWords s b row seen) = stores s := stores_foldl fun s x => by
  dsimp only
  (repeat' split) <;> simp

@[simp] theorem stores_groupFails (s b row ks) : stores (groupFails s b row ks) = stores s := by simp [groupFails]
@[simp] theorem stores_scrub (s b row seen) : stores (scrub s b row seen) = stores s := by simp [scrub]
@[simp] theorem stores_execScrubLine (b row seen s) :
    stores (after s (execScrubLine b row seen s)) = stores s := by simp [execScrubLine]
@[simp] theorem stores_execScrubForce (b row seen s) :
    stores (after s (execScrubForce b row seen s)) = stores s := by simp [execScrubForce]
@[simp] theorem stores_mapWritten (s u t) : stores (mapWritten s u t) = stores s := by simp [mapWritten]
@[simp] theorem stores_copiesSwapped (s r) : stores (copiesSwapped s r) = stores s := by simp [copiesSwapped]
@[simp] theorem stores_execBankCopyDone (b s) :
    stores (after s (execBankCopyDone b s)) = stores s := by simp [execBankCopyDone]
@[simp] theorem canonical_loseConfig (s u) (hs : canonical part (stores s)) :
    canonical part (stores (loseConfig s u)) := by
  cases part with
  | sets => exact ⟨swf_filter _ _ _ hs.1, swf_filter _ _ _ hs.2⟩
  | crock => exact hs

@[simp] theorem stores_loseShadows (s u) : stores (loseShadows s u) = stores s := by simp [loseShadows]
@[simp] theorem canonical_bankGone (s b) (hs : canonical part (stores s)) :
    canonical part (stores (bankGone s b)) := by
  unfold bankGone
  split
  · simpa using hs
  · simpa using hs
  · simp [hs]
  · simp [hs]
  · exact hs

@[simp] theorem stores_writeCanaries (s t) : stores (writeCanaries s t) = stores s := by simp [writeCanaries]
@[simp] theorem canonical_bankLost (s l) (hs : canonical part (stores s)) :
    canonical part (stores (bankLost s l)) := by simp [bankLost, hs]
@[simp] theorem stores_execSetRate (ring s) : stores (after s (execSetRate ring s)) = stores s := by
  unfold execSetRate
  split <;> simp

@[simp] theorem stores_execPause (ring s) : stores (after s (execPause ring s)) = stores s := by
  unfold execPause
  split <;> simp

@[simp] theorem stores_execResume (ring s) : stores (after s (execResume ring s)) = stores s := by
  unfold execResume
  split <;> simp

@[simp] theorem stores_execStatus (ring s) : stores (after s (execStatus ring s)) = stores s := by
  unfold execStatus
  split <;> simp

@[simp] theorem stores_execReloaded (ring s) : stores (after s (execReloaded ring s)) = stores s := by
  unfold execReloaded
  split <;> simp

/-! ### Machine/Answer.lean -/

@[simp] theorem stores_pumpAll (s n) : stores (pumpAll s n) = stores s := by simp [pumpAll]
@[simp] theorem stores_answerWork (s n t st ls) : stores (answerWork s n t st ls) = stores s := by
  unfold answerWork
  (repeat' split) <;> simp

@[simp] theorem stores_answerStep (s n pkt) : stores (answerStep s n pkt) = stores s := by
  unfold answerStep
  dsimp only
  (repeat' split) <;> simp

@[simp] theorem stores_execEndpointAnswer (n pkt s) :
    stores (after s (execEndpointAnswer n pkt s)) = stores s := by simp [execEndpointAnswer]
@[simp] theorem stores_answerQueue (s n) : stores (answerQueue s n) = stores s := by
  simp [answerQueue]
@[simp] theorem stores_answerTaken (s n) : stores (answerTaken s n) = stores s := by
  unfold answerTaken
  dsimp only
  rw [stores_foldl fun s t => by split <;> simp]
  simp

@[simp] theorem stores_bumpGen (s o resync) : stores (bumpGen s o resync) = stores s := by simp [bumpGen]
@[simp] theorem stores_resetEndpoint (s n) : stores (resetEndpoint s n) = stores s := by simp [resetEndpoint]
@[simp] theorem stores_execEpResetAssert (n s) :
    stores (after s (execEpResetAssert n s)) = stores s := by simp [execEpResetAssert]
@[simp] theorem stores_releaseEndpoint (s n) : stores (releaseEndpoint s n) = stores s := by simp [releaseEndpoint]
@[simp] theorem stores_execEpResetRelease (n s) :
    stores (after s (execEpResetRelease n s)) = stores s := by simp [execEpResetRelease]
@[simp] theorem stores_syncReset (s n) : stores (syncReset s n) = stores s := by simp [syncReset]
@[simp] theorem stores_execRequestReadyRise (n s) :
    stores (after s (execRequestReadyRise n s)) = stores s := by simp [execRequestReadyRise]
@[simp] theorem stores_execEpReadyChange (n level s) :
    stores (after s (execEpReadyChange n level s)) = stores s := by simp [execEpReadyChange]
@[simp] theorem stores_execEpExc (n s) : stores (after s (execEpExc n s)) = stores s := by simp [execEpExc]

/-! ### Machine/Power.lean -/

@[simp] theorem stores_sendCodes (s m) : stores (sendCodes s m) = stores s := by simp [sendCodes]
@[simp] theorem stores_settled (s) : stores (settled s) = stores s := by simp [settled]
@[simp] theorem stores_setPorts (s) : stores (setPorts s) = stores s := by simp [setPorts]
@[simp] theorem stores_enterMode (s m) : stores (enterMode s m) = stores s := by simp [enterMode]
@[simp] theorem canonical_resumeAll (s) (hs : canonical part (stores s)) :
    canonical part (stores (resumeAll s)) := canonical_foldl (fun s n h => by simp [h]) hs
@[simp] theorem canonical_releaseHolds (s) (hs : canonical part (stores s)) :
    canonical part (stores (releaseHolds s)) := by
  simp [releaseHolds, hs]

@[simp] theorem stores_endMode (s m st detail res) :
    stores (endMode s m st detail res) = stores s := by simp [endMode]
@[simp] theorem stores_endJoined (s st detail) : stores (endJoined s st detail) = stores s := by
  simp [endJoined]
@[simp] theorem canonical_dropEntry (s m detail res) (hs : canonical part (stores s)) :
    canonical part (stores (dropEntry s m detail res)) := by
  simp [dropEntry, hs]

@[simp] theorem canonical_refuseEntry (s m detail f) (hs : canonical part (stores s)) :
    canonical part (stores (refuseEntry s m detail f)) := by simp [refuseEntry, hs]
@[simp] theorem canonical_abortEntry (s) (hs : canonical part (stores s)) :
    canonical part (stores (abortEntry s)) := by
  unfold abortEntry
  split <;> simp [hs]

@[simp] theorem stores_recordWake (s src slot fromRetain replayed epoch) :
    stores (recordWake s src slot fromRetain replayed epoch) = stores s := stores_updAon ..
@[simp] theorem stores_startExit (s src slot replayed) : stores (startExit s src slot replayed) = stores s := by
  unfold startExit
  rw [stores_updAon, stores_sendCodes, stores_recordWake]

@[simp] theorem stores_startReturn (s src slot replayed) : stores (startReturn s src slot replayed) = stores s := by
  unfold startReturn
  rw [stores_updAon, stores_recordWake]

@[simp] theorem stores_takeWake (s src slot replayed) :
    stores (takeWake s src slot replayed) = stores s := by simp [takeWake]
@[simp] theorem stores_replayLatch (s) : stores (replayLatch s) = stores s := by
  unfold replayLatch
  dsimp only
  split <;> simp

@[simp] theorem stores_fireAlarm (s) : stores (fireAlarm s) = stores s := by
  unfold fireAlarm
  dsimp only
  (repeat' split) <;> simp

@[simp] theorem stores_execWakeEvent (src s) : stores (after s (execWakeEvent src s)) = stores s := by
  unfold execWakeEvent
  split <;> simp

@[simp] theorem stores_execEpochAlarm (s) : stores (after s (execEpochAlarm s)) = stores s := by simp [execEpochAlarm]
@[simp] theorem stores_enterDrowse (s m) : stores (enterDrowse s m) = stores s := by simp [enterDrowse]
@[simp] theorem stores_enterRetain (s m) : stores (enterRetain s m) = stores s := by simp [enterRetain]
@[simp] theorem stores_finishExit (s) : stores (finishExit s) = stores s := by
  unfold finishExit
  dsimp only
  split <;> simp

@[simp] theorem stores_aonNext (s) : stores (aonNext s) = stores s := by
  unfold aonNext
  (repeat' split) <;> simp

@[simp] theorem stores_execPwrcAck (level s) :
    stores (after s (execPwrcAck level s)) = stores s := by simp [execPwrcAck]
@[simp] theorem stores_execClkcRootAck (level s) :
    stores (after s (execClkcRootAck level s)) = stores s := by simp [execClkcRootAck]
@[simp] theorem stores_execClkcAck (n level s) :
    stores (after s (execClkcAck n level s)) = stores s := by simp [execClkcAck]
@[simp] theorem stores_endNow (s c target st detail) :
    stores (endNow s c target st detail) = stores s := by simp [endNow]
@[simp] theorem stores_beginMode (s c target phase) :
    stores (beginMode s c target phase) = stores s := by simp [beginMode]
@[simp] theorem stores_execModeReqServe (ring s) : stores (after s (execModeReqServe ring s)) = stores s := by
  unfold execModeReqServe
  (repeat' split) <;> simp

@[simp] theorem stores_holdNis (s all) : stores (holdNis s all) = stores s := by simp [holdNis]
@[simp] theorem stores_armLatch (s) : stores (armLatch s) = stores s := by simp [armLatch]
@[simp] theorem stores_execModeReqDrowse (ring s) : stores (after s (execModeReqDrowse ring s)) = stores s := by
  unfold execModeReqDrowse
  (repeat' split) <;> simp

@[simp] theorem stores_retainAccept (s) : stores (retainAccept s) = stores s := by
  unfold retainAccept
  split <;> simp

@[simp] theorem stores_execModeReqRetain (ring s) : stores (after s (execModeReqRetain ring s)) = stores s := by
  unfold execModeReqRetain
  (repeat' split) <;> simp

@[simp] theorem canonical_execPostedDrainDone (s) (hs : canonical part (stores s)) :
    canonical part (stores (after s (execPostedDrainDone s))) := by
  unfold execPostedDrainDone
  dsimp only
  (repeat' split) <;> simp [hs]

@[simp] theorem stores_execQuietReached (s) : stores (after s (execQuietReached s)) = stores s := by
  unfold execQuietReached
  split <;> simp

@[simp] theorem canonical_execDrainTimeout (s) (hs : canonical part (stores s)) :
    canonical part (stores (after s (execDrainTimeout s))) := by
  unfold execDrainTimeout
  split <;> simp [hs]

@[simp] theorem stores_execDrowseExit (s) : stores (after s (execDrowseExit s)) = stores s := by simp [execDrowseExit]
@[simp] theorem stores_returnClocks (s) : stores (returnClocks s) = stores s := by simp [returnClocks]
@[simp] theorem stores_replayResets (s) : stores (replayResets s) = stores s := by simp [replayResets]
@[simp] theorem canonical_returnOpen (s) (hs : canonical part (stores s)) :
    canonical part (stores (returnOpen s)) := by
  unfold returnOpen
  dsimp only
  split <;> simp [hs]

@[simp] theorem canonical_returnStep (s failed) (hs : canonical part (stores s)) :
    canonical part (stores (returnStep s failed)) := by
  have lost {t : State} (l : List LostBank) (ht : canonical part (stores t)) :
      canonical part (stores (l.foldl bankLost t)) := canonical_foldl (fun s b h => canonical_bankLost s b h) ht
  unfold returnStep
  dsimp only
  (repeat' split) <;> simp [hs, lost]

@[simp] theorem stores_stopTree (s) : stores (stopTree s) = stores s := by simp [stopTree]
@[simp] theorem stores_freezeNow (s) : stores (freezeNow s) = stores s := by
  unfold freezeNow
  (repeat' split) <;> simp

@[simp] theorem canonical_execRetainReturn (failed s) (hs : canonical part (stores s)) :
    canonical part (stores (after s (execRetainReturn failed s))) := by
  unfold execRetainReturn
  split <;> simp [hs]

@[simp] theorem stores_execFreeze (s) : stores (after s (execFreeze s)) = stores s := by simp [execFreeze]
@[simp] theorem stores_thawNow (s) : stores (thawNow s) = stores s := by
  unfold thawNow
  dsimp only
  split
  · rfl
  · (repeat' split) <;> simp

@[simp] theorem stores_execThaw (s) : stores (after s (execThaw s)) = stores s := by simp [execThaw]
@[simp] theorem canonical_crockOnly (s code detail) (hs : canonical part (stores s)) :
    canonical part (stores (crockOnly s code detail)) := by simp [crockOnly, hs]
@[simp] theorem canonical_failChange (s m) (hs : canonical part (stores s)) :
    canonical part (stores (failChange s m)) := by
  unfold failChange
  dsimp only
  (repeat' split) <;> simp [hs]

@[simp] theorem canonical_execPwrAckLate (s) (hs : canonical part (stores s)) :
    canonical part (stores (after s (execPwrAckLate s))) := by
  unfold execPwrAckLate
  (repeat' split) <;> simp [hs]

@[simp] theorem stores_execClusterGate (c k s) :
    stores (after s (execClusterGate c k s)) = stores s := by simp [execClusterGate]
@[simp] theorem stores_ungate (s c) : stores (ungate s c) = stores s := by
  unfold ungate
  split
  · dsimp only
    rw [stores_foldl fun s r => stores_updR s r _]
    rfl
  · rfl

@[simp] theorem stores_execClusterUngate (c s) :
    stores (after s (execClusterUngate c s)) = stores s := by simp [execClusterUngate]
@[simp] theorem stores_writeWakeCfg (s v) : stores (writeWakeCfg s v) = stores s := by simp [writeWakeCfg]
@[simp] theorem stores_writeAlarm (s v) : stores (writeAlarm s v) = stores s := by simp [writeAlarm]
@[simp] theorem stores_writeDrain (s v) : stores (writeDrain s v) = stores s := by simp [writeDrain]
@[simp] theorem stores_execPwrWakeCfg (v s) :
    stores (after s (execPwrWakeCfg v s)) = stores s := by simp [execPwrWakeCfg]
@[simp] theorem stores_execPwrAlarm (v s) : stores (after s (execPwrAlarm v s)) = stores s := by simp [execPwrAlarm]
@[simp] theorem stores_execPwrDrain (v s) : stores (after s (execPwrDrain v s)) = stores s := by simp [execPwrDrain]
@[simp] theorem stores_writePwr (s off v) : stores (writePwr s off v) = stores s := by simp [writePwr]

/-! ### Machine/Regs.lean -/

@[simp] theorem stores_writeFab (s off v) : stores (writeFab s off v) = stores s := by simp [writeFab]
@[simp] theorem stores_winAnswered (s) : stores (winAnswered s) = stores s := by simp [winAnswered]
@[simp] theorem stores_writeRing (s r v) : stores (writeRing s r v) = stores s := by simp [writeRing]
@[simp] theorem stores_writeRingCtl (s v) : stores (writeRingCtl s v) = stores s := by simp [writeRingCtl]
@[simp] theorem stores_writeDbw (s w v) : stores (writeDbw s w v) = stores s := by simp [writeDbw]
@[simp] theorem stores_writeIrqMask (s v) : stores (writeIrqMask s v) = stores s := by simp [writeIrqMask]
@[simp] theorem stores_writeIrqCause (s v) : stores (writeIrqCause s v) = stores s := by simp [writeIrqCause]
@[simp] theorem stores_writeIntr (s k isVal v) : stores (writeIntr s k isVal v) = stores s := by simp [writeIntr]
@[simp] theorem stores_writeStw (s off v) : stores (writeStw s off v) = stores s := by simp [writeStw]
@[simp] theorem canonical_writeCrk (s off v) (hs : canonical part (stores s)) :
    canonical part (stores (writeCrk s off v)) := by
  unfold writeCrk
  split
  · cases part with
    | sets => exact hs
    | crock =>
      simp only [updCrock]
      split <;> exact hs
  · exact hs

@[simp] theorem stores_writeDip (s off v) : stores (writeDip s off v) = stores s := by simp [writeDip]
@[simp] theorem stores_readReg (s off dbg) : stores (readReg s off dbg).1 = stores s := by
  unfold readReg
  dsimp only
  (repeat' split) <;> simp

@[simp] theorem canonical_writeReg (s off v dbg) (hs : canonical part (stores s)) :
    canonical part (stores (writeReg s off v dbg)) := by
  unfold writeReg
  dsimp only
  (repeat' split) <;> simp [hs]

@[simp] theorem stores_readRegLine (s off dbg) : stores (readRegLine s off dbg).1 = stores s := by simp [readRegLine]
@[simp] theorem canonical_writeRegLine (s off d mask dbg) (hs : canonical part (stores s)) :
    canonical part (stores (writeRegLine s off d mask dbg).1) :=
  canonical_foldl_fst (fun a i h => by dsimp only; split <;> simp [h]) hs

@[simp] theorem stores_regReadLine (s line code dbg) : stores (regReadLine s line code dbg).1 = stores s := by
  unfold regReadLine
  (repeat' split) <;> simp

@[simp] theorem canonical_regWriteLine (s line w code bad dbg) (hs : canonical part (stores s)) :
    canonical part (stores (regWriteLine s line w code bad dbg).1) := by
  unfold regWriteLine
  (repeat' split) <;> simp [hs]

@[simp] theorem canonical_regRequest (s p) (hs : canonical part (stores s)) :
    canonical part (stores (regRequest s p)) := by
  unfold regRequest
  dsimp only
  split
  · simp [hs]
  · split
    · simp only [stores_winAnswered, stores_sendRsp]
      exact canonical_foldl_fst (fun a i h => by simp [h]) hs
    · simpa using hs

@[simp] theorem stores_atHerd {s t} (ht : stores t = stores s) : stores (after s (atHerd s t)) = stores s := by
  unfold atHerd
  split <;> simp [ht]

@[simp] theorem canonical_atHerd {s t} (hs : canonical part (stores s)) (ht : canonical part (stores t)) :
    canonical part (stores (after s (atHerd s t))) := by
  unfold atHerd
  split <;> simp [hs, ht]

@[simp] theorem stores_execFabLock (v s) : stores (after s (execFabLock v s)) = stores s := by simp [execFabLock]
@[simp] theorem stores_execFabWin (v s) : stores (after s (execFabWin v s)) = stores s := by simp [execFabWin]
@[simp] theorem stores_execStwRing (r v s) : stores (after s (execStwRing r v s)) = stores s := by simp [execStwRing]
@[simp] theorem stores_execStwRingCtl (v s) :
    stores (after s (execStwRingCtl v s)) = stores s := by simp [execStwRingCtl]
@[simp] theorem stores_execStwDbw (w v s) : stores (after s (execStwDbw w v s)) = stores s := by simp [execStwDbw]
@[simp] theorem stores_execStwIrqMask (v s) :
    stores (after s (execStwIrqMask v s)) = stores s := by simp [execStwIrqMask]
@[simp] theorem stores_execStwIrqCause (v s) :
    stores (after s (execStwIrqCause v s)) = stores s := by simp [execStwIrqCause]
@[simp] theorem stores_execStwIntr (ring isVal v s) :
    stores (after s (execStwIntr ring isVal v s)) = stores s := by simp [execStwIntr]
@[simp] theorem canonical_execCrkRearm (v s) (hs : canonical part (stores s)) :
    canonical part (stores (after s (execCrkRearm v s))) := by simp [execCrkRearm, hs]
@[simp] theorem canonical_execRegisterWrite (off v mask s) (hs : canonical part (stores s)) :
    canonical part (stores (after s (execRegisterWrite off v mask s))) := canonical_atHerd hs (by split <;> simp [hs])

/-! ### Machine/TargetRows.lean -/

@[simp] theorem stores_leaveQueue (s n p) : stores (leaveQueue s n p) = stores s := by simp [leaveQueue]
@[simp] theorem canonical_takeInbound {s n kind f} (hs : canonical part (stores s))
    (hf : ∀ s p, canonical part (stores s) → canonical part (stores (f s p))) :
    canonical part (stores (takeInbound s n kind f)) := by
  unfold takeInbound
  dsimp only
  (repeat' split) <;> simp [hs, hf]

@[simp] theorem canonical_execInboundOffer (n s) (hs : canonical part (stores s)) :
    canonical part (stores (after s (execInboundOffer n s))) := by simp [execInboundOffer, hs]
@[simp] theorem canonical_execAtomicExecute (n s) (hs : canonical part (stores s)) :
    canonical part (stores (after s (execAtomicExecute n s))) := by simp [execAtomicExecute, hs]
@[simp] theorem stores_atomAnswer (s n kind line st) : stores (atomAnswer s n kind line st) = stores s := by
  unfold atomAnswer
  split <;> simp

@[simp] theorem stores_execAtomicReadReturn (n entry line st s) :
    stores (after s (execAtomicReadReturn n entry line st s)) = stores s := by simp [execAtomicReadReturn]
@[simp] theorem stores_execAtomicWritebackAck (n entry st s) :
    stores (after s (execAtomicWritebackAck n entry st s)) = stores s := by simp [execAtomicWritebackAck]
@[simp] theorem canonical_lockRow {s n op f} (hs : canonical part (stores s))
    (hf : ∀ s n h, stores (f s n h) = stores s) : canonical part (stores (lockRow s n op f)) :=
  canonical_takeInbound hs fun s p h => by dsimp only; split <;> simp [h, hf]

@[simp] theorem canonical_execLockTableAcquire (n s) (hs : canonical part (stores s)) :
    canonical part (stores (after s (execLockTableAcquire n s))) := by simp [execLockTableAcquire, hs]
@[simp] theorem canonical_execLockTableRelease (n s) (hs : canonical part (stores s)) :
    canonical part (stores (after s (execLockTableRelease n s))) := by simp [execLockTableRelease, hs]

/-! ### Machine/Cfg.lean -/

@[simp] theorem stores_markDirty (s m) : stores (markDirty s m) = stores s := by simp [markDirty]
@[simp] theorem stores_mapsWritten (s item ps) : stores (mapsWritten s item ps) = stores s := by
  unfold mapsWritten
  split
  · exact stores_foldl fun s p => by split <;> simp
  · rfl

@[simp] theorem canonical_cfgWriteAll (s set item ps val) (hs : canonical part (stores s)) :
    canonical part (stores (cfgWriteAll s set item ps val)) :=
  canonical_foldl (fun s p h => by simp [h]) hs

@[simp] theorem canonical_cfgWriteCmd (s c block) (hs : canonical part (stores s)) :
    canonical part (stores (cfgWriteCmd s c block)) := by
  unfold cfgWriteCmd
  dsimp only
  (repeat' split) <;> simp [hs]

@[simp] theorem canonical_execCfgWrite (ring block s) (hs : canonical part (stores s)) :
    canonical part (stores (after s (execCfgWrite ring block s))) := by
  unfold execCfgWrite
  split <;> simp [hs]

@[simp] theorem canonical_copySets (s) (hs : canonical part (stores s)) : canonical part (stores (copySets s)) := by
  cases part with
  | sets =>
    have copied := swf_foldl cfgBoot (s.cfgB.filter (fun e => keyActive s e.1)) (fun m e => sput cfgBoot e.1 e.2 m) _
      (fun m e h => swf_sput _ _ _ _ h) (swf_filter cfgBoot (fun e => !keyActive s e.1) _ hs.1)
    exact ⟨copied, copied⟩
  | crock => exact hs

@[simp] theorem canonical_execCfgCopy (ring s) (hs : canonical part (stores s)) :
    canonical part (stores (after s (execCfgCopy ring s))) := by
  unfold execCfgCopy
  (repeat' split) <;> simp [hs]

@[simp] theorem stores_copyTick (s) : stores (copyTick s) = stores s := by
  unfold copyTick
  split <;> simp

@[simp] theorem stores_armAgents (s) : stores (armAgents s) = stores s := by
  unfold armAgents
  split <;> simp

@[simp] theorem stores_execCfgSwap (ring s) : stores (after s (execCfgSwap ring s)) = stores s := by
  unfold execCfgSwap
  split <;> simp

@[simp] theorem stores_swapCancel (s) : stores (swapCancel s) = stores s := by
  unfold swapCancel
  split <;> simp

@[simp] theorem stores_execCfgSwapCancel (s) :
    stores (after s (execCfgSwapCancel s)) = stores s := by simp [execCfgSwapCancel]
@[simp] theorem stores_swapDone (s) : stores (swapDone s) = stores s := by
  unfold swapDone
  split <;> simp

@[simp] theorem stores_freshConfig (s r) : stores (freshConfig s r) = stores s := by simp [freshConfig]
@[simp] theorem canonical_swapApply (s r) (hs : canonical part (stores s)) :
    canonical part (stores (swapApply s r)) := by
  unfold swapApply
  (repeat' split) <;> simp [hs]

@[simp] theorem canonical_execCfgSwapApply (r s) (hs : canonical part (stores s)) :
    canonical part (stores (after s (execCfgSwapApply r s))) := by simp [execCfgSwapApply, hs]
@[simp] theorem stores_execCfgRead (ring s) : stores (after s (execCfgRead ring s)) = stores s := by
  unfold execCfgRead
  dsimp only
  (repeat' split) <;> simp

@[simp] theorem stores_endGate (s c n st detail) : stores (endGate s c n st detail) = stores s := by simp [endGate]
@[simp] theorem stores_putGate (s n set i w) : stores (putGate s n set i w) = stores s := by
  unfold putGate
  split <;> simp

@[simp] theorem stores_bumpGate (s n set) : stores (bumpGate s n set) = stores s := by simp [bumpGate]
@[simp] theorem canonical_execGateLoad (ring block s) (hs : canonical part (stores s)) :
    canonical part (stores (after s (execGateLoad ring block s))) := by
  unfold execGateLoad
  dsimp only
  (repeat' split) <;> simp [hs]

@[simp] theorem canonical_execGateSwap (ring s) (hs : canonical part (stores s)) :
    canonical part (stores (after s (execGateSwap ring s))) := by
  unfold execGateSwap
  simp only [after_next]
  (repeat' split) <;> simp [hs]

@[simp] theorem stores_execGateFence (ring s) : stores (after s (execGateFence ring s)) = stores s := by
  unfold execGateFence
  dsimp only
  (repeat' split) <;> simp

@[simp] theorem stores_execMeterProg (ring block s) : stores (after s (execMeterProg ring block s)) = stores s := by
  unfold execMeterProg
  split <;> simp

@[simp] theorem stores_meterTick (s n) : stores (meterTick s n) = stores s := by
  simp [meterTick]
@[simp] theorem canonical_execMeterEntryApply (n s) (hs : canonical part (stores s)) :
    canonical part (stores (after s (execMeterEntryApply n s))) := by simp [execMeterEntryApply, hs]

/-! ### Machine/Commands.lean -/

@[simp] theorem stores_execNop (ring s) : stores (after s (execNop ring s)) = stores s := by
  unfold execNop
  split <;> simp

@[simp] theorem stores_execCrockDrain (ring s) : stores (after s (execCrockDrain ring s)) = stores s := by
  unfold execCrockDrain
  dsimp only
  (repeat' split) <;> simp

@[simp] theorem stores_writeLinkItems (s l d) : stores (writeLinkItems s l d) = stores s := by simp [writeLinkItems]
@[simp] theorem stores_linkCtl (s l d) : stores (linkCtl s l d) = stores s := by
  unfold linkCtl
  dsimp only
  (repeat' split) <;> simp

@[simp] theorem stores_execLinkCtl (ring s) : stores (after s (execLinkCtl ring s)) = stores s := by
  unfold execLinkCtl
  split <;> simp

@[simp] theorem stores_enableGroup (s g it ws) : stores (enableGroup s g it ws) = stores s := by simp [enableGroup]
@[simp] theorem stores_curdEnable (s c block) : stores (curdEnable s c block) = stores s := by
  unfold curdEnable
  dsimp only
  (repeat' split) <;> simp

@[simp] theorem stores_execEnable (ring block s) : stores (after s (execEnable ring block s)) = stores s := by
  unfold execEnable
  split <;> simp

@[simp] theorem stores_execChange (ring block s) : stores (after s (execChange ring block s)) = stores s := by
  unfold execChange
  split <;> simp

@[simp] theorem canonical_disableGroup (s g) (hs : canonical part (stores s)) :
    canonical part (stores (disableGroup s g)) := by
  unfold disableGroup
  exact canonical_foldl (fun s n h => by split <;> simp [h]) (by simpa using hs)

@[simp] theorem canonical_execDisable (ring s) (hs : canonical part (stores s)) :
    canonical part (stores (after s (execDisable ring s))) := by
  unfold execDisable
  dsimp only
  (repeat' split) <;> simp [hs]

@[simp] theorem stores_sendMsg (s c a) : stores (sendMsg s c a) = stores s := by simp [sendMsg]
@[simp] theorem stores_execMsgSendIntr (ring s) : stores (after s (execMsgSendIntr ring s)) = stores s := by
  unfold execMsgSendIntr
  split <;> simp

@[simp] theorem stores_execMsgSendMail (ring block s) :
    stores (after s (execMsgSendMail ring block s)) = stores s := by
  unfold execMsgSendMail
  split <;> simp

@[simp] theorem stores_execRingMove (ring block s) : stores (after s (execRingMove ring block s)) = stores s := by
  unfold execRingMove
  (repeat' split) <;> simp

@[simp] theorem stores_moveRing (s r w) : stores (moveRing s r w) = stores s := by simp [moveRing]
@[simp] theorem stores_ringMoveNext (s) : stores (ringMoveNext s) = stores s := by
  unfold ringMoveNext
  split
  · rfl
  · split
    · dsimp only
      rw [stores_updHerd, stores_foldl fun s r => stores_moveRing s r _]
    · (repeat' split) <;> simp

@[simp] theorem stores_updRound (s n f) : stores (updRound s n f) = stores s := by simp [updRound]

/-! ### Machine/Milk.lean -/

@[simp] theorem stores_badFrame (s n stop) : stores (badFrame s n stop) = stores s := by simp [badFrame]
@[simp] theorem stores_awaitFrame (s n f ws) : stores (awaitFrame s n f ws) = stores s := by simp [awaitFrame]
@[simp] theorem stores_answerFrame (s n stop tag st data) :
    stores (answerFrame s n stop tag st data) = stores s := by simp [answerFrame]
@[simp] theorem canonical_frameItem (s f p) (hs : canonical part (stores s)) :
    canonical part (stores (frameItem s f p).1) := by
  unfold frameItem
  dsimp only
  (repeat' split) <;> simp [hs]

@[simp] theorem canonical_copyUnit (s r) (hs : canonical part (stores s)) :
    canonical part (stores (copyUnit s r)) := by
  cases part with
  | sets =>
    have moved (mine : Nat × Nat → Bool) {a b : Sparse Nat} (hb : swf cfgBoot b = true) :
        swf cfgBoot ((a.filter mine).foldl (fun m e => sput cfgBoot e.1 e.2 m) (b.filter (fun e => !mine e))) = true :=
      swf_foldl _ _ _ _ (fun m e h => swf_sput _ _ _ _ h) (swf_filter _ _ _ hb)
    unfold copyUnit
    dsimp only
    split
    · exact ⟨moved _ hs.1, hs.2⟩
    · exact ⟨hs.1, moved _ hs.2⟩
  | crock =>
    unfold copyUnit
    dsimp only
    split <;> exact hs

@[simp] theorem canonical_frameWrite (s r f) (hs : canonical part (stores s)) :
    canonical part (stores (frameWrite s r f).1) := by
  unfold frameWrite
  dsimp only
  repeat' split
  all_goals simp [hs]

@[simp] theorem stores_takeFrame {s sec stop words dist op act} (hact : ∀ s r f, stores (act s r f).1 = stores s) :
    stores (takeFrame s sec stop words dist op act) = stores s := by
  unfold takeFrame
  dsimp only
  (repeat' split) <;> simp [hact]

@[simp] theorem canonical_takeFrame {s sec stop words dist op act} (hs : canonical part (stores s))
    (hact : ∀ s r f, canonical part (stores s) → canonical part (stores (act s r f).1)) :
    canonical part (stores (takeFrame s sec stop words dist op act)) := by
  unfold takeFrame
  dsimp only
  (repeat' split) <;> simp [hact, hs]

@[simp] theorem stores_execMgRd (sec stop words dist s) :
    stores (after s (execMgRd sec stop words dist s)) = stores s := by simp [execMgRd]
@[simp] theorem canonical_execMgWr (sec stop words dist s) (hs : canonical part (stores s)) :
    canonical part (stores (after s (execMgWr sec stop words dist s))) := by
  unfold execMgWr
  rw [after_next]
  exact canonical_takeFrame hs fun s r f h => canonical_frameWrite s r f h

@[simp] theorem stores_execMgResp (sec dist s) : stores (after s (execMgResp sec dist s)) = stores s := by
  unfold execMgResp
  (repeat' split) <;> simp

@[simp] theorem stores_stewardTakes (s sec f) : stores (stewardTakes s sec f) = stores s := by
  unfold stewardTakes
  (repeat' split) <;> simp

@[simp] theorem stores_execMgEvent (sec words dist s) :
    stores (after s (execMgEvent sec words dist s)) = stores s := by
  unfold execMgEvent
  (repeat' split) <;> simp

@[simp] theorem stores_agentTimeout (s sec tag) : stores (agentTimeout s sec tag) = stores s := by simp [agentTimeout]
@[simp] theorem stores_execMgFrameTimeout (sec tag s) :
    stores (after s (execMgFrameTimeout sec tag s)) = stores s := by
  unfold execMgFrameTimeout
  (repeat' split) <;> simp

@[simp] theorem canonical_execStewardLost (sec silent s) (hs : canonical part (stores s)) :
    canonical part (stores (after s (execStewardLost sec silent s))) := by
  unfold execStewardLost
  dsimp only
  (repeat' split) <;> simp [hs]

@[simp] theorem canonical_catchUpNi (s n) (hs : canonical part (stores s)) :
    canonical part (stores (catchUpNi s n)) := by
  unfold catchUpNi
  split
  · exact hs
  · exact canonical_foldl (fun s g h => by simp [h]) (by simpa using hs)

@[simp] theorem stores_mendSplit (s n) : stores (mendSplit s n) = stores s := by
  unfold mendSplit
  dsimp only
  (repeat' split) <;> simp

@[simp] theorem canonical_execSectorReturn (sec s) (hs : canonical part (stores s)) :
    canonical part (stores (after s (execSectorReturn sec s))) := by
  unfold execSectorReturn
  split
  · exact hs
  · dsimp only [after_next]
    simp only [stores_mendSplit, stores_resendSels, stores_updRound]
    exact canonical_foldl (fun s n h => by simp [h]) (by simpa using hs)

/-! ### Machine/Recovery.lean -/

@[simp] theorem stores_failGroups (s n) : stores (failGroups s n) = stores s := by simp [failGroups]
@[simp] theorem canonical_applyLoss (s n) (hs : canonical part (stores s)) :
    canonical part (stores (applyLoss s n)) := by simp [applyLoss, hs]
@[simp] theorem stores_reopenNi (s n) : stores (reopenNi s n) = stores s := by simp [reopenNi]
@[simp] theorem stores_restartRouter (s r) : stores (restartRouter s r) = stores s := by simp [restartRouter]
@[simp] theorem stores_updInVc (s r p f) : stores (updInVc s r p f) = stores s := by simp [updInVc]
@[simp] theorem stores_dropRest (s r inP bvc left) :
    stores (dropRest s r inP bvc left) = stores s := by simp [dropRest]
@[simp] theorem stores_dropInto (s r p) : stores (dropInto s r p) = stores s := by
  unfold dropInto
  dsimp only
  rw [stores_updR, stores_foldl fun s v => by split <;> simp]

@[simp] theorem stores_finishFrom (s r p) : stores (finishFrom s r p) = stores s := by simp [finishFrom]
@[simp] theorem stores_isolate (s c) : stores (isolate s c) = stores s := by
  unfold isolate
  dsimp only
  rw [stores_updAon, stores_foldl fun s e => stores_updE s e _, stores_foldl fun s x => by cases x; simp]

@[simp] theorem stores_farGivesUp (s e) : stores (farGivesUp s e) = stores s := by simp [farGivesUp]
@[simp] theorem canonical_clusterCheck (s c) (hs : canonical part (stores s)) :
    canonical part (stores (clusterCheck s c)) := by
  unfold clusterCheck
  dsimp only
  rw [stores_updRecov, stores_foldl fun s r => stores_restartRouter s r]
  refine canonical_foldl (fun s n h => by simp [h]) ?_
  simpa using hs

@[simp] theorem stores_loadNi (s n) : stores (loadNi s n) = stores s := by simp [loadNi]
@[simp] theorem stores_tickLoaded (s c) : stores (tickLoaded s c) = stores s := by simp [tickLoaded]
@[simp] theorem stores_clusterLoad (s c) : stores (clusterLoad s c) = stores s := by simp [clusterLoad]
@[simp] theorem stores_clusterRejoin (s c) : stores (clusterRejoin s c) = stores s := by simp [clusterRejoin]
@[simp] theorem stores_putCluster (s c x) : stores (putCluster s c x) = stores s := by simp [putCluster]
@[simp] theorem stores_canRecover (s arg) : stores (canRecover s arg) = stores s := by simp [canRecover]
@[simp] theorem stores_endChange (s) : stores (endChange s) = stores s := by
  unfold endChange
  (repeat' split) <;> simp

@[simp] theorem stores_dieStop (s) : stores (dieStop s) = stores s := by simp [dieStop]
@[simp] theorem stores_startDie (s) : stores (startDie s) = stores s := by
  unfold startDie
  (repeat' split) <;> simp

@[simp] theorem stores_clusterAgain (s c x) : stores (clusterAgain s c x) = stores s := by
  unfold clusterAgain
  (repeat' split) <;> simp

@[simp] theorem canonical_startCluster (s c) (hs : canonical part (stores s)) :
    canonical part (stores (startCluster s c)) := by
  unfold startCluster
  (repeat' split) <;> simp [hs]

@[simp] theorem stores_cutVc (s n v) : stores (cutVc s n v) = stores s := by
  unfold cutVc
  split <;> simp

@[simp] theorem stores_cutSending (s n) : stores (cutSending s n) = stores s := by simp [cutSending]
@[simp] theorem canonical_niFault (s n ev detail) (hs : canonical part (stores s)) :
    canonical part (stores (niFault s n ev detail)) := by
  unfold niFault
  dsimp only
  (repeat' split) <;> simp [hs]

@[simp] theorem canonical_execNiStateParity (n s) (hs : canonical part (stores s)) :
    canonical part (stores (after s (execNiStateParity n s))) := by simp [execNiStateParity, hs]
@[simp] theorem canonical_execCdcPtr (n fifo s) (hs : canonical part (stores s)) :
    canonical part (stores (after s (execCdcPtr n fifo s))) := by simp [execCdcPtr, hs]
@[simp] theorem canonical_checkBanks (s mine failed) (hs : canonical part (stores s)) :
    canonical part (stores (checkBanks s mine failed)) := canonical_foldl (fun s b h => by simp [h]) hs
@[simp] theorem canonical_execNiRecoveryDone (n failed s) (hs : canonical part (stores s)) :
    canonical part (stores (after s (execNiRecoveryDone n failed s))) := by
  unfold execNiRecoveryDone
  simp only [after_next]
  split
  · exact hs
  split
  · simp [hs]
  · simp only [stores_repNi, stores_reopenNi]
    exact canonical_foldl (fun s b h => by simp [h]) hs

@[simp] theorem canonical_execClusterRecoveryStep (c failed s) (hs : canonical part (stores s)) :
    canonical part (stores (after s (execClusterRecoveryStep c failed s))) := by
  unfold execClusterRecoveryStep
  dsimp only
  (repeat' split) <;> simp [hs]

@[simp] theorem stores_execClusterRecoveryRestart (c s) :
    stores (after s (execClusterRecoveryRestart c s)) = stores s := by
  unfold execClusterRecoveryRestart
  split <;> simp

@[simp] theorem stores_markDown (s c) : stores (markDown s c) = stores s := stores_foldl fun _ _ => rfl
@[simp] theorem stores_execClusterClockLost (c s) : stores (after s (execClusterClockLost c s)) = stores s := by
  unfold execClusterClockLost
  (repeat' split) <;> simp

@[simp] theorem stores_execRouterStateUe (r s) :
    stores (after s (execRouterStateUe r s)) = stores s := by simp [execRouterStateUe]
@[simp] theorem stores_execHerdStateUe (s) :
    stores (after s (execHerdStateUe s)) = stores s := by simp [execHerdStateUe]
@[simp] theorem stores_execSpineNoRoute (q s) : stores (after s (execSpineNoRoute q s)) = stores s := by
  unfold execSpineNoRoute
  dsimp only
  split <;> simp

@[simp] theorem canonical_dieDiscard (s) (hs : canonical part (stores s)) :
    canonical part (stores (dieDiscard s)) := by
  unfold dieDiscard
  dsimp only
  rw [stores_updRecov]
  exact canonical_foldl (fun s n h => by simp [h]) (by simpa using hs)

@[simp] theorem canonical_dieReload (s failed) (hs : canonical part (stores s)) :
    canonical part (stores (dieReload s failed)) := by
  unfold dieReload
  dsimp only
  simp [hs]

@[simp] theorem stores_dieOpen (s d) : stores (dieOpen s d) = stores s := by simp [dieOpen]
@[simp] theorem canonical_execDieRecoveryStep (failed s) (hs : canonical part (stores s)) :
    canonical part (stores (after s (execDieRecoveryStep failed s))) := by
  unfold execDieRecoveryStep
  dsimp only
  (repeat' split) <;> simp [hs]

@[simp] theorem canonical_eventStarts (s ev) (hs : canonical part (stores s)) :
    canonical part (stores (eventStarts s ev)) := by
  unfold eventStarts
  dsimp only
  (repeat' split) <;> simp [hs]

@[simp] theorem canonical_execEventReport (s) (hs : canonical part (stores s)) :
    canonical part (stores (after s (execEventReport s))) := by
  unfold execEventReport
  (repeat' split) <;> simp [hs]

@[simp] theorem canonical_execEventMergeClose (s) (hs : canonical part (stores s)) :
    canonical part (stores (after s (execEventMergeClose s))) := by
  unfold execEventMergeClose
  (repeat' split) <;> simp [hs]

/-! ### Machine/Ticks.lean -/

@[simp] theorem stores_sendEnergy (s r) : stores (sendEnergy s r) = stores s := by simp [sendEnergy]
@[simp] theorem stores_governor (s t) : stores (governor s t) = stores s := by simp [governor]
@[simp] theorem stores_applyLevel (s r) : stores (applyLevel s r) = stores s := by
  unfold applyLevel
  split <;> simp

@[simp] theorem stores_execGovernorLevelApply (r s) :
    stores (after s (execGovernorLevelApply r s)) = stores s := by simp [execGovernorLevelApply]
@[simp] theorem stores_sendTick (s) : stores (sendTick s) = stores s := by simp [sendTick]
@[simp] theorem stores_execHerdsmanTick (s) :
    stores (after s (execHerdsmanTick s)) = stores s := by simp [execHerdsmanTick]
@[simp] theorem canonical_tickNi (s n) (hs : canonical part (stores s)) :
    canonical part (stores (tickNi s n)) := by simp [tickNi, hs]
@[simp] theorem canonical_tickRouter (s r) (hs : canonical part (stores s)) :
    canonical part (stores (tickRouter s r)) := by simp [tickRouter, hs]
@[simp] theorem stores_tickEnd (s e) : stores (tickEnd s e) = stores s := by
  unfold tickEnd
  split <;> simp

@[simp] theorem stores_skippedLatch (s c from_ to_) : stores (skippedLatch s c from_ to_) = stores s := by
  unfold skippedLatch
  split <;> simp

@[simp] theorem stores_repeatsDue (s c t) : stores (repeatsDue s c t) = stores s := by
  unfold repeatsDue
  dsimp only
  (repeat' split) <;> simp

@[simp] theorem stores_countTick (s c low) : stores (countTick s c low) = stores s := by simp [countTick]
@[simp] theorem canonical_tickWork (s c from_ to_) (hs : canonical part (stores s)) :
    canonical part (stores (tickWork s c from_ to_)) := by
  unfold tickWork
  simp only [stores_churnTick, stores_tickEnd, stores_sendEnergy, stores_foldl, implies_true]
  exact canonical_foldl (fun s n h => by simp [h]) (canonical_foldl (fun s n h => by simp [h]) (by simpa using hs))

@[simp] theorem canonical_clusterTick (s c low) (hs : canonical part (stores s)) :
    canonical part (stores (clusterTick s c low)) := by simp [clusterTick, hs]
@[simp] theorem canonical_execClusterTick (c s) (hs : canonical part (stores s)) :
    canonical part (stores (after s (execClusterTick c s))) := by
  unfold execClusterTick
  (repeat' split) <;> simp [hs]

@[simp] theorem stores_aclkCycle (s) : stores (aclkCycle s) = stores s := by simp [aclkCycle]

/-! ### Machine/Boot.lean -/

@[simp] theorem canonical_resetFabric (s) (hs : canonical part (stores s)) :
    canonical part (stores (resetFabric s)) := by
  cases part with
  | sets => exact ⟨rfl, rfl⟩
  | crock => exact hs

@[simp] theorem canonical_execHardReset (s) (hs : canonical part (stores s)) :
    canonical part (stores (after s (execHardReset s))) := by simp [execHardReset, hs]
@[simp] theorem canonical_execWarmReset (s) (hs : canonical part (stores s)) :
    canonical part (stores (after s (execWarmReset s))) := by simp [execWarmReset, hs]
@[simp] theorem canonical_execSupplyPowerOn (s) (hs : canonical part (stores s)) :
    canonical part (stores (after s (execSupplyPowerOn s))) := by
  cases part with
  | sets => exact hs
  | crock => exact ⟨rfl, rfl, rfl, rfl, Nat.zero_lt_succ _⟩

@[simp] theorem stores_bootWord (s ans) : stores (bootWord s ans) = stores s := by simp [bootWord]
@[simp] theorem stores_execBootWordRead (ans s) :
    stores (after s (execBootWordRead ans s)) = stores s := by simp [execBootWordRead]
@[simp] theorem stores_execOtsTimeout (port s) : stores (after s (execOtsTimeout port s)) = stores s := by
  unfold execOtsTimeout
  split <;> simp

@[simp] theorem canonical_bootRecord (a r) (hs : canonical part (stores a.1)) :
    canonical part (stores (bootRecord a r).1) := by
  unfold bootRecord
  split <;> simp [hs]

@[simp] theorem canonical_execResetSequenceComplete (s) (hs : canonical part (stores s)) :
    canonical part (stores (after s (execResetSequenceComplete s))) := by
  have booted := canonical_foldl_fst (l := bootRecords s.aon.bootWords) (f := bootRecord) (a := (s, 0, 0))
    (fun a r h => canonical_bootRecord a r h) hs
  unfold execResetSequenceComplete
  split
  · exact hs
  · simpa using booted

@[simp] theorem stores_tapSelect (s code dr) : stores (tapSelect s code dr) = stores s := by simp [tapSelect]
@[simp] theorem stores_execIdcode (s) : stores (after s (execIdcode s)) = stores s := by simp [execIdcode]
@[simp] theorem stores_execTestEntry (bit s) :
    stores (after s (execTestEntry bit s)) = stores s := by simp [execTestEntry]
@[simp] theorem stores_execFrzHold (bit s) : stores (after s (execFrzHold bit s)) = stores s := by simp [execFrzHold]
@[simp] theorem stores_execFrzRead (seg s) : stores (after s (execFrzRead seg s)) = stores s := by simp [execFrzRead]
@[simp] theorem stores_tapAnswer (s flit) : stores (tapAnswer s flit) = stores s := by simp [tapAnswer]
@[simp] theorem canonical_execDbgMaster (flit ans fetch s) (hs : canonical part (stores s)) :
    canonical part (stores (after s (execDbgMaster flit ans fetch s))) := by
  unfold execDbgMaster
  dsimp only
  (repeat' split) <;> simp [hs]

@[simp] theorem stores_execBypass (code s) : stores (after s (execBypass code s)) = stores s := by simp [execBypass]
@[simp] theorem stores_execTapReset (s) : stores (after s (execTapReset s)) = stores s := by simp [execTapReset]

/-! ### A step -/

theorem canonical_exec (i : Instr) (s : State) (hs : canonical part (stores s)) :
    canonical part (stores (after s (exec i s))) := by
  cases i <;> simp [exec, hs]

theorem canonical_step {s t : State} (hs : canonical part (stores s)) (run : step s = .next t) :
    canonical part (stores t) := by
  rw [step] at run
  split at run
  · cases run
    simp [hs]
  · next c rest _ =>
    have kept := canonical_exec c { s with pending := rest } hs
    rw [run] at kept
    exact kept

/-- Settles O6: no command leaves a configuration set out of canonical form. -/
theorem stepKeepsConfigSetsCanonical : Obligations.StepKeepsConfigSetsCanonical :=
  fun _ _ hs run => canonical_step (part := .sets) hs run

/-- Settles O7: no command leaves the Crock's stores out of canonical form, or NEXT beyond its entries. -/
theorem stepKeepsCrockCanonical : Obligations.StepKeepsCrockCanonical :=
  fun _ _ hs run => canonical_step (part := .crock) hs run

end Sys2Proof.Proofs

/-! ## A step, reset, and the metering key (R12, R428, R503): what a reader sees of the Can does not hold its key. -/

namespace Sys2Proof.Proofs
open Sys2Proof.Machine Sys2Proof.Safety

/-- Settles O1. -/
theorem stepRunsFrontCommand : Obligations.StepRunsFrontCommand := by
  refine ⟨fun _ _ _ => rfl, fun s idle => ?_⟩
  unfold step
  split
  · rfl
  · next front => cases idle.symm.trans front

theorem rtr_reset (r : RouterId) : rtr State.reset r = Router.reset r := tget_tabOf ..

theorem spn_reset (e : LinkEnd) : spn State.reset e = SpineEnd.reset e := tget_tabOf ..

/-- Settles O2: the reset tables hold the reset value of every unit, and the stores of reset list nothing. -/
theorem resetState : Obligations.ResetState := by
  refine ⟨rfl, rfl, rfl, rfl, rfl, rfl, rfl, rfl, tget_tabAll 0, fun r => by rw [rtr_reset]; rfl,
    fun set item unit port index => ?_, fun e => by rw [spn_reset]; rfl, ⟨rfl, rfl⟩, ⟨rfl, rfl, rfl, rfl, by decide⟩⟩
  rw [cfgGet, show (if set then State.reset.cfgB else State.reset.cfgA) = [] from ite_self _]
  rfl

/-- The state with another metering key. -/
def withKey (s : State) (key : Vector Word 4) : State := updCan s (fun c => { c with key := key })

section Key
variable (s : State) (key : Vector Word 4)

theorem canRuns_withKey : canRuns (withKey s key) = canRuns s := rfl

/-- No page but the Can's reads the Can, and the Can's page reads all but its key. -/
theorem readReg_withKey (off : Nat) (dbg : Bool) :
    (readReg (withKey s key) off dbg).2 = (readReg s off dbg).2 := by
  unfold readReg
  dsimp only
  rw [canRuns_withKey]
  (repeat' split) <;> rfl

theorem openFields_withKey : openFields (withKey s key) = openFields s := rfl

theorem openEntries_withKey : openEntries (withKey s key) = openEntries s := rfl

/-- What a readout shifts out, and the rest of the always-on island after it. -/
def readoutAon (s : State) (seg : BitVec 16) : Aon :=
  { s.aon with tapIr := 0x21, tapDr := if s.aon.mode == .freeze then
      if s.aon.dbgAuth then Config.readout s.drawn else Config.openChain seg (openEntries s) (openFields s) else 0 }

theorem frzRead_aon (seg : BitVec 16) : ∃ t, exec (.frzRead seg) s = .next t ∧ t.aon = readoutAon s seg := by
  refine ⟨_, rfl, ?_⟩
  unfold readoutAon
  split
  · split <;> rfl
  · rfl

theorem readoutAon_withKey (seg : BitVec 16) : readoutAon (withKey s key) seg = readoutAon s seg := by
  simp only [readoutAon, openFields_withKey, openEntries_withKey]
  rfl

end Key

/-- Settles O5. -/
theorem keyNotReadable : Obligations.KeyNotReadable := by
  refine fun s key => ⟨fun off dbg => readReg_withKey s key off dbg, fun seg => ?_⟩
  obtain ⟨t, runs, aon⟩ := frzRead_aon s seg
  obtain ⟨u, runs', aon'⟩ := frzRead_aon (withKey s key) seg
  exact ⟨t, u, runs, runs', by rw [aon', aon, readoutAon_withKey]⟩

end Sys2Proof.Proofs

/-! ## Bit fields (R6), the correction of a tick (R211) and the relays (R90, R517, R308). -/

namespace Sys2Proof.Proofs
open Sys2Proof.Machine Sys2Proof.Safety

/-! ### Fields -/

section Fields
variable {n : Nat} (x : BitVec n)

/-- A bit of a word one field of which is written. -/
theorem getLsbD_setField (lo w v i : Nat) : (setField x lo w v).getLsbD i =
    if lo ≤ i ∧ i < lo + w ∧ i < n then v.testBit (i - lo) else x.getLsbD i := by
  have mask : (BitVec.ofNat n ((2 ^ w - 1) * 2 ^ lo)).getLsbD i = decide (i < n ∧ lo ≤ i ∧ i < lo + w) := by
    rw [BitVec.getLsbD_ofNat, Nat.testBit_mul_two_pow, Nat.testBit_two_pow_sub_one]
    grind
  have value : (BitVec.ofNat n (v % 2 ^ w * 2 ^ lo)).getLsbD i =
      decide (i < n ∧ lo ≤ i ∧ i < lo + w ∧ v.testBit (i - lo) = true) := by
    rw [BitVec.getLsbD_ofNat, Nat.testBit_mul_two_pow, Nat.testBit_mod_two_pow]
    grind
  rw [setField, BitVec.getLsbD_or, BitVec.getLsbD_and, BitVec.getLsbD_not, mask, value]
  have high : n ≤ i → x.getLsbD i = false := BitVec.getLsbD_of_ge x i
  grind

theorem getLsbD_setField_of_out {lo w i : Nat} (v : Nat) (out : i < lo ∨ lo + w ≤ i) :
    (setField x lo w v).getLsbD i = x.getLsbD i := by
  rw [getLsbD_setField, if_neg (by omega)]

/-- A field that lies beside the one written stays. -/
theorem bits_setField_of_out {lo w lo' w' : Nat} (v : Nat) (out : lo' + w' ≤ lo ∨ lo + w ≤ lo') :
    bits (setField x lo w v) lo' w' = bits x lo' w' := by
  apply BitVec.eq_of_getLsbD_eq
  intro i hi
  rw [BitVec.getLsbD_extractLsb', BitVec.getLsbD_extractLsb', getLsbD_setField_of_out x v (by omega)]

theorem field_setField_of_out {lo w lo' w' : Nat} (v : Nat) (out : lo' + w' ≤ lo ∨ lo + w ≤ lo') :
    field (setField x lo w v) lo' w' = field x lo' w' :=
  congrArg BitVec.toNat (bits_setField_of_out x v out)

theorem bits_setField {lo w : Nat} (v : Nat) (fits : lo + w ≤ n) :
    bits (setField x lo w v) lo w = BitVec.ofNat w v := by
  apply BitVec.eq_of_getLsbD_eq
  intro i hi
  rw [BitVec.getLsbD_extractLsb', getLsbD_setField, if_pos (by omega), BitVec.getLsbD_ofNat, Nat.add_sub_cancel_left]

/-- The field written reads as the value, cut to its width. -/
theorem field_setField {lo w : Nat} (v : Nat) (fits : lo + w ≤ n) : field (setField x lo w v) lo w = v % 2 ^ w :=
  (congrArg BitVec.toNat (bits_setField x v fits)).trans (BitVec.toNat_ofNat ..)

theorem field_lt {n : Nat} (x : BitVec n) (lo w : Nat) : field x lo w < 2 ^ w := (bits x lo w).isLt

/-- A field copied into its own place. -/
theorem field_setField_field {m lo w lo' : Nat} (y : BitVec m) (fits : lo + w ≤ n) :
    field (setField x lo w (field y lo' w)) lo w = field y lo' w := by
  rw [field_setField x _ fits, Nat.mod_eq_of_lt (field_lt y lo' w)]

theorem testBit_field {n : Nat} (x : BitVec n) (lo w i : Nat) (hi : i < w) :
    (field x lo w).testBit i = x.getLsbD (lo + i) := by
  rw [field, BitVec.testBit_toNat, BitVec.getLsbD_extractLsb']
  simp [hi]

theorem field_zero {n lo w : Nat} : field (0 : BitVec n) lo w = 0 := by
  simp [field]

end Fields

/-! ### Ticks -/

/-- Settles O29, by the distance from the counter's low bits up to those carried. -/
theorem tickCorrection : Obligations.TickCorrection := by
  intro count low
  have bound := low.isLt
  generalize low.toNat = l at bound ⊢
  dsimp only [tickTo]
  refine ⟨?_, fun h => ?_, fun h => ?_⟩
  · (repeat' split) <;> omega
  · (repeat' split) <;> omega
  · (repeat' split) <;> omega

/-! ### Relays -/

/-- Settles O40: each relay is one update of one unit. -/
theorem relaysTakenUp : Obligations.RelaysTakenUp := by
  refine fun s => ⟨fun r runs reached => ?_, fun n w runs reached => ?_, fun level => ⟨_, rfl, rfl, rfl, rfl⟩⟩
  · have run : exec (.spineUpUpdate r) s = .next (updR s r (fun x => { x with spineUp := s.herd.spineUp })) := by
      show execSpineUpUpdate r s = _
      simp [execSpineUpUpdate, runs, reached]
    exact ⟨_, run, by simp [rtr_updR], fun q other => rtr_updR_ne _ _ _ _ other.symm, rfl⟩
  · refine ⟨_, by
      show execDoorbellWindowUpdate n w s = _
      rw [execDoorbellWindowUpdate, if_pos (by simp [runs, reached])], ?_, ?_, fun v other => ?_,
      fun m other => nif_updN_ne _ _ _ _ other.symm, rfl⟩
    · simp
    · simp
    · simp [tget_tupd_ne _ _ _ _ other.symm]

end Sys2Proof.Proofs

/-! ## Writes of the set-up registers (R508, R515–R521, R340, R473). -/

namespace Sys2Proof.Proofs
open Sys2Proof.Machine Sys2Proof.Safety

/-! ### The pages of the Herdsman -/

/-- A write of a register of the Herdsman, while it runs. -/
theorem atHerd_runs {s : State} (runs : herdRuns s = true) (t : State) : atHerd s t = .next t := by
  rw [atHerd, if_pos runs]

/-- Where no write of FAB_WIN waits, an answered packet changes nothing. -/
theorem winAnswered_none {s : State} (idle : s.herd.winNext = none) : winAnswered s = s := by
  have same : winAnswered s = { s with herd := { s.herd with winNext := s.herd.winNext } } := by
    rw [winAnswered, updHerd, idle]
    rfl
  exact same

theorem winAnswered_writeFab_win {s : State} (v : Word) (idle : s.herd.winNext = none) :
    winAnswered (writeFab s 0x018 v) =
      if s.herd.lock then s else updHerd s (fun h => { h with win := winField v }) := by
  have same : { s.herd with win := winField v, winNext := none } = { s.herd with win := winField v } := by
    rw [← idle]
  cases lock : s.herd.lock with
  | true => simpa [writeFab, lock] using winAnswered_none idle
  | false =>
    simp only [writeFab, lock, Bool.false_eq_true, if_false, if_true]
    exact congrArg (fun h => ({ s with herd := h } : State)) same

section Rings
variable {s : State} {r : RingId}

theorem writeRing_refused (v : Word) (held : s.herd.lock = true ∨ ringEn (hring s r) = true) :
    writeRing s r v = s := by
  simp [writeRing, held]

theorem hring_enableRing_ne {q : RingId} (other : q ≠ r) (w : Word) : hring (enableRing s r w) q = hring s q := by
  unfold enableRing
  dsimp only
  split
  · exact hring_updRing_ne other
  · exact hring_updRing_ne other

/-- The home word that the Herdsman owns is written as zero when its ring is enabled (R516). -/
theorem memOut_enableRing (w : Word) : (enableRing s r w).herd.memOut =
    s.herd.memOut ++ (if 8 ≤ r.val then [homeWrite s .home (prodHome (enableRing s r w) r) 0] else []) := by
  by_cases event : 8 ≤ r.val
  · simp only [enableRing, if_pos event]
    rfl
  · simp only [enableRing, if_neg event, List.append_nil]
    rfl

theorem enableRing_frame (w : Word) : enableRing s r w = { s with herd := { s.herd with
    rings := (enableRing s r w).herd.rings, memOut := (enableRing s r w).herd.memOut } } := by
  unfold enableRing
  dsimp only
  split <;> rfl

theorem hring_writeRingCtl (v : Word) :
    hring (writeRingCtl s v) r = { hring s r with halted := (hring s r).halted && !v.getLsbD r.val } := by
  show tget (tmap s.herd.rings _) r = _
  rw [tget_tmap]
  show _ = { tget s.herd.rings r with halted := (tget s.herd.rings r).halted && !v.getLsbD r.val }
  generalize tget s.herd.rings r = x
  cases resume : v.getLsbD r.val <;> cases halted : x.halted <;> simp [← halted]

end Rings

theorem writeDbw_refused {s : State} {w : Fin 16} (v : Word) (held : s.herd.lock = true ∨ namesWin s w = true) :
    writeDbw s w v = s := by
  simp [writeDbw, held]

/-- The fields that a register of a doorbell window has. -/
def dbwFields (v : Word) : Word := setField (setField 0 63 1 (field v 63 1)) 12 40 (field v 12 40)

theorem writeDbw_open {s : State} {w : Fin 16} (v : Word) (unlocked : s.herd.lock = false)
    (unused : namesWin s w = false) :
    writeDbw s w v = updHerd s (fun h => { h with windows := tupd h.windows w (fun _ => dbwFields v) }) := by
  simp only [writeDbw, unlocked, unused, Bool.or_self, Bool.false_eq_true, if_false]
  rfl

theorem dbwFields_base (v : Word) : field (dbwFields v) 12 40 = field v 12 40 :=
  field_setField_field _ v (by decide)

theorem dbwFields_en (v : Word) : (dbwFields v).getLsbD 63 = v.getLsbD 63 := by
  rw [dbwFields, getLsbD_setField_of_out _ _ (by decide), getLsbD_setField, if_pos (by decide),
    testBit_field _ _ _ _ (by decide)]

theorem dbwFields_low (v : Word) : field (dbwFields v) 0 12 = 0 := by
  rw [dbwFields, field_setField_of_out _ _ (by decide), field_setField_of_out _ _ (by decide), field_zero]

/-- The fields that STW_INTR_ADDR has. -/
def intrAddrFields (v : Word) : Word := setField (setField v 52 3 0) 0 3 0

theorem intrAddrFields_addr (v : Word) : field (intrAddrFields v) 3 49 = field v 3 49 := by
  rw [intrAddrFields, field_setField_of_out _ _ (by decide), field_setField_of_out _ _ (by decide)]

theorem intrAddrFields_dest (v : Word) : field (intrAddrFields v) 55 9 = field v 55 9 := by
  rw [intrAddrFields, field_setField_of_out _ _ (by decide), field_setField_of_out _ _ (by decide)]

theorem intrAddrFields_low (v : Word) : field (intrAddrFields v) 0 3 = 0 :=
  field_setField _ 0 (by decide)

/-! ### The pages of the always-on island -/

/-- A wake event in SERVE with the latch not armed changes nothing (R414). -/
theorem takeWake_serve {s : State} (src : BitVec 4) (slot : BitVec 8) (replayed : Bool)
    (mode : s.aon.mode = .serve) (unarmed : s.aon.armedLatch = false) : takeWake s src slot replayed = s := by
  simp [takeWake, mode, unarmed]

theorem writeWakeCfg_serve {s : State} (v : Word) (mode : s.aon.mode = .serve) (unarmed : s.aon.armedLatch = false) :
    writeWakeCfg s v = updAon s (fun a => { a with wakeCfg := setField 0 0 26 (field v 0 26) }) := by
  unfold writeWakeCfg
  dsimp only
  generalize written : updAon s (fun a => { a with wakeCfg := setField 0 0 26 (field v 0 26) }) = u
  have mode' : u.aon.mode = .serve := by rw [← written]; exact mode
  have unarmed' : u.aon.armedLatch = false := by rw [← written]; exact unarmed
  have pins : ∀ l : List (Fin 8), l.foldl (fun s' n =>
      if pinPresent s'.aon n && !pinPresent s.aon n then takeWake s' (srcPin n) 0 false else s') u = u := by
    intro l
    induction l with
    | nil => rfl
    | cons n l ih => rw [List.foldl_cons, takeWake_serve _ _ _ mode' unarmed', ite_self, ih]
  simp only [pins, takeWake_serve _ _ _ mode' unarmed', ite_self]

/-! ### The statement -/

/-- Settles O58, register by register. -/
theorem setupRegistersWritten : Obligations.SetupRegistersWritten := by
  intro s v runs
  have write := atHerd_runs runs
  refine ⟨⟨_, write _, rfl, rfl⟩, fun unlocked idle => ?_, fun locked idle => ?_, fun r held => ?_,
    fun r unlocked off en home => ?_, ⟨_, write _, fun r => hring_writeRingCtl v, rfl⟩, fun w unlocked unused => ?_,
    fun w held => ?_, write _, ⟨_, write _, rfl, rfl, rfl⟩, fun k => ⟨?_, ?_⟩, ?_, fun mode unarmed => ?_,
    write _, write _, fun off mask part => ?_, fun idle => ?_⟩
  · refine (write _).trans ?_
    rw [winAnswered_writeFab_win v idle, unlocked]
    rfl
  · refine (write _).trans ?_
    rw [winAnswered_writeFab_win v idle, locked]
    rfl
  · exact (write _).trans (congrArg _ (writeRing_refused v held))
  · refine ⟨_, stwRing_enables runs unlocked off en home, ?_⟩
    rw [hring_enableRing]
    exact ⟨rfl, rfl, rfl, rfl, rfl, fun q other => hring_enableRing_ne other _, memOut_enableRing _,
      enableRing_frame _⟩
  · refine ⟨_, (write _).trans (congrArg _ (writeDbw_open v unlocked unused)), ?_⟩
    rw [updHerd_herd, tget_tupd]
    exact ⟨dbwFields_base v, dbwFields_en v, dbwFields_low v, fun x other => tget_tupd_ne _ _ _ _ other.symm, rfl⟩
  · exact (write _).trans (congrArg _ (writeDbw_refused v held))
  · exact ⟨_, write _, tget_tupd .., fun j other => tget_tupd_ne _ _ _ _ other.symm, rfl⟩
  · refine ⟨updHerd s (fun h => { h with intrAddr := tupd h.intrAddr k (fun _ => intrAddrFields v) }), write _, ?_⟩
    rw [updHerd_herd, tget_tupd]
    exact ⟨intrAddrFields_addr v, intrAddrFields_dest v, intrAddrFields_low v,
      fun j other => tget_tupd_ne _ _ _ _ other.symm, rfl⟩
  · refine ⟨_, write _, ?_⟩
    rw [writeCrk, if_pos rfl, updCrock_crock]
    cases restart : v.getLsbD 1 with
    | true => exact ⟨rfl, fun _ => ⟨rfl, rfl, rfl⟩, (nomatch ·), rfl, rfl, rfl⟩
    | false => exact ⟨rfl, (nomatch ·), fun _ => rfl, rfl, rfl, rfl⟩
  · exact ⟨_, (write _).trans (congrArg _ (writeWakeCfg_serve v mode unarmed)), rfl, rfl⟩
  · refine (write _).trans ?_
    rw [if_neg part]
  · refine (write _).trans ?_
    rw [if_pos rfl]
    exact congrArg _ (winAnswered_none idle)

end Sys2Proof.Proofs

/-! ## Resets (R395, R473, R499, R510–R513). The boot records only write registers, so what the reset sequence starts
from stands while they are applied. -/

namespace Sys2Proof.Proofs
open Sys2Proof.Machine Sys2Proof.Safety

/-! ### Boot records -/

/-- What the reset sequence starts from: routers, links and counters, the mode, and the inputs of FREEZE. -/
def bootPart (s : State) :=
  (s.routers, s.spine, s.epochs, s.aon.mode, s.aon.freezePin, s.aon.freezeHold)

theorem mode_of_bootPart {s t : State} (same : bootPart t = bootPart s) : t.aon.mode = s.aon.mode :=
  congrArg (fun p => p.2.2.2.1) same

section Boot
variable (s : State)

@[simp] theorem bootPart_updHerd (f : Herd → Herd) : bootPart (updHerd s f) = bootPart s := rfl

@[simp] theorem bootPart_updDip (f : Dipper → Dipper) : bootPart (updDip s f) = bootPart s := rfl

@[simp] theorem bootPart_writeFab (o : Nat) (v : Word) : bootPart (writeFab s o v) = bootPart s := by
  unfold writeFab
  (repeat' split) <;> rfl

@[simp] theorem bootPart_writeRing (r : RingId) (v : Word) : bootPart (writeRing s r v) = bootPart s := by
  unfold writeRing enableRing
  dsimp only
  (repeat' split) <;> rfl

@[simp] theorem bootPart_writeDbw (w : Fin 16) (v : Word) : bootPart (writeDbw s w v) = bootPart s := by
  unfold writeDbw
  split <;> rfl

@[simp] theorem bootPart_writeStw (o : Nat) (v : Word) : bootPart (writeStw s o v) = bootPart s := by
  rw [writeStw]
  (repeat' split) <;> simp [writeRingCtl, writeIntr, writeIrqMask, writeIrqCause]

@[simp] theorem bootPart_writeDip (o : Nat) (v : Word) : bootPart (writeDip s o v) = bootPart s := by
  have sel : bootPart (writeSel s v) = bootPart s := by
    unfold writeSel sendSel
    dsimp only
    (repeat' split) <;> rfl
  rw [writeDip]
  (repeat' split) <;> simp [writeDipReg, writeSelStatus, sel]

@[simp] theorem bootPart_writeCrk (o : Nat) (v : Word) : bootPart (writeCrk s o v) = bootPart s := by
  unfold writeCrk
  split <;> rfl

variable {s} (mode : s.aon.mode = .reset)
include mode

/-- In RESET a wake event is at most latched (R414). -/
theorem bootPart_takeWake (src : BitVec 4) (slot : BitVec 8) (replayed : Bool) :
    bootPart (takeWake s src slot replayed) = bootPart s := by
  simp only [takeWake, mode]
  cases s.aon.armedLatch <;> rfl

theorem bootPart_wakeIf (c : Bool) (src : BitVec 4) (slot : BitVec 8) :
    bootPart (if c then takeWake s src slot false else s) = bootPart s := by
  split
  · exact bootPart_takeWake mode ..
  · rfl

theorem bootPart_foldl {α : Type} {f : State → α → State}
    (turn : ∀ (t : State) (a : α), t.aon.mode = .reset → bootPart (f t a) = bootPart t) (l : List α) :
    bootPart (l.foldl f s) = bootPart s := by
  induction l generalizing s with
  | nil => rfl
  | cons a l ih =>
    have first := turn s a mode
    exact (ih ((mode_of_bootPart first).trans mode)).trans first

theorem bootPart_writeWakeCfg (v : Word) : bootPart (writeWakeCfg s v) = bootPart s := by
  unfold writeWakeCfg
  dsimp only
  generalize written : updAon s (fun a => { a with wakeCfg := setField 0 0 26 (field v 0 26) }) = u
  have first : bootPart u = bootPart s := by rw [← written]; rfl
  generalize taken : (List.finRange 8).foldl (fun s' n =>
    if pinPresent s'.aon n && !pinPresent s.aon n then takeWake s' (srcPin n) 0 false else s') u = p
  have pins : bootPart p = bootPart s := by
    rw [← taken, bootPart_foldl ((mode_of_bootPart first).trans mode) (fun t n reset => bootPart_wakeIf reset ..), first]
  generalize latched : (if alarmEn p.aon && !alarmEn s.aon && alarmMet p then takeWake p srcAlarm 0 false else p) = q
  have alarm : bootPart q = bootPart s := by
    rw [← latched, bootPart_wakeIf ((mode_of_bootPart pins).trans mode), pins]
  rw [bootPart_wakeIf ((mode_of_bootPart alarm).trans mode), alarm]

theorem bootPart_writePwr (o : Nat) (v : Word) : bootPart (writePwr s o v) = bootPart s := by
  unfold writePwr
  split
  · rfl
  split
  · exact bootPart_writeWakeCfg mode v
  split
  · rfl
  split
  · split <;> rfl
  · rfl

/-- No record reaches the Can's page (R514). -/
theorem bootPart_writeReg {off : Nat} (v : Word) (page : off / 4096 < 5) :
    bootPart (writeReg s off v false) = bootPart s := by
  unfold writeReg
  have pages : off / 4096 % 16 < 5 := by omega
  generalize off / 4096 % 16 = p at pages
  dsimp only
  match p with
  | 0 => exact bootPart_writeFab ..
  | 1 => exact bootPart_writeStw ..
  | 2 => exact bootPart_writePwr mode ..
  | 3 => exact bootPart_writeDip ..
  | 4 => exact bootPart_writeCrk ..

end Boot

theorem page_of_bootTakes {a : Aon} {off : Nat} {b : Bool} (takes : bootTakes a off = some b) : off / 4096 < 5 := by
  by_contra high
  rw [bootTakes, if_pos (by omega)] at takes
  cases takes

theorem bootPart_bootRecord {acc : State × Nat × Nat} (r : Nat × Word) (mode : acc.1.aon.mode = .reset) :
    bootPart (bootRecord acc r).1 = bootPart acc.1 := by
  unfold bootRecord
  split
  · rfl
  · rfl
  · next takes => exact bootPart_writeReg mode r.2 (page_of_bootTakes takes)

theorem bootPart_bootRecords {acc : State × Nat × Nat} (rs : List (Nat × Word)) (mode : acc.1.aon.mode = .reset) :
    bootPart (rs.foldl bootRecord acc).1 = bootPart acc.1 := by
  induction rs generalizing acc with
  | nil => rfl
  | cons r rs ih =>
    have first := bootPart_bootRecord r mode
    exact (ih ((mode_of_bootPart first).trans mode)).trans first

/-! ### The links that the reset sequence trains -/

/-- What the start of training makes of an end. -/
def trainedEnd (x : SpineEnd) : SpineEnd :=
  if x.state == .off && x.en then { x with state := .train, lanesIn := [], stopping := false } else x

theorem trainedEnd_trainedEnd (x : SpineEnd) : trainedEnd (trainedEnd x) = trainedEnd x := by
  unfold trainedEnd
  split <;> rfl

theorem spn_trainAll (s : State) (l : List LinkEnd) (e : LinkEnd) :
    spn (l.foldl startTraining s) e = if e ∈ l then trainedEnd (spn s e) else spn s e := by
  induction l generalizing s with
  | nil => rfl
  | cons d l ih =>
    rw [List.foldl_cons, ih, show startTraining s d = updE s d trainedEnd from rfl, spn_updE]
    by_cases same : d = e
    · simp [same, trainedEnd_trainedEnd]
    · simp [same, Ne.symm same]

/-- Starting training touches nothing but the links. -/
theorem trainAll_frame (s : State) (l : List LinkEnd) :
    l.foldl startTraining s = { s with spine := (l.foldl startTraining s).spine } := by
  induction l generalizing s with
  | nil => rfl
  | cons d l ih =>
    rw [List.foldl_cons, ih]
    rfl

/-- The state at which the boot records are applied. -/
def booted (s : State) : State × Nat × Nat := (bootRecords s.aon.bootWords).foldl bootRecord (s, 0, 0)

/-- TRAIN begins: the status of the boot words, the clocks and the ports. -/
def trainEntered (r : State × Nat × Nat) : State :=
  setPorts (updAon (updHerd r.1 (fun h => { h with bootStatus := bootStatus r.1.aon r.2.1 r.2.2 })) (fun a => { a with
    mode := .train, resetDone := true, crkBoot := false, warm := false
    clkReq := BitVec.allOnes 26, clkAck := BitVec.allOnes 26 }))

theorem freezeAsked_trainAll (s : State) (l : List LinkEnd) :
    freezeAsked (l.foldl startTraining s) = freezeAsked s := by
  rw [trainAll_frame]
  rfl

section Entered
variable (r : State × Nat × Nat)

theorem trainEntered_routers : (trainEntered r).routers = r.1.routers := by
  rw [trainEntered, setPorts, updAllN_routers, updAon_routers, updHerd_routers]

theorem trainEntered_spine : (trainEntered r).spine = r.1.spine := by
  rw [trainEntered, setPorts, updAllN_spine, updAon_spine, updHerd_spine]

theorem trainEntered_epochs : (trainEntered r).epochs = r.1.epochs := by
  rw [trainEntered, setPorts, updAllN_epochs, updAon_epochs, updHerd_epochs]

theorem trainEntered_aon : (trainEntered r).aon = { r.1.aon with
    mode := .train, resetDone := true, crkBoot := false, warm := false
    clkReq := BitVec.allOnes 26, clkAck := BitVec.allOnes 26 } := by
  rw [trainEntered, setPorts, updAllN_aon, updAon_aon, updHerd_aon]

theorem trainEntered_bootStatus :
    (trainEntered r).herd.bootStatus = bootStatus r.1.aon r.2.1 r.2.2 := by
  rw [trainEntered, setPorts, updAllN_herd, updAon_herd, updHerd_herd]

theorem trainEntered_ports (n : Slot) : (nif (trainEntered r) n).reqReady = decide (180 ≤ n.val) := by
  rw [nif, trainEntered, setPorts, updAllN_nis, tget_tmap]
  rfl

end Entered

theorem freezeAsked_trainEntered (r : State × Nat × Nat) : freezeAsked (trainEntered r) = freezeAsked r.1 := by
  rw [freezeAsked, freezeAsked, trainEntered_aon]

theorem freezeAsked_of_bootPart {s t : State} (same : bootPart t = bootPart s) : freezeAsked t = freezeAsked s :=
  congrArg (fun p : _ × _ × _ × _ × Bool × Bool => p.2.2.2.2.1 || p.2.2.2.2.2) same

theorem resetSequence_trains {s : State} (mode : s.aon.mode = .reset) (all : 256 ≤ s.aon.bootWords.length)
    (thawed : freezeAsked s = false) :
    exec .resetSequenceComplete s = .next ((List.finRange 12).foldl startTraining (trainEntered (booted s))) := by
  have asked : freezeAsked (booted s).1 = freezeAsked s :=
    freezeAsked_of_bootPart (bootPart_bootRecords (acc := (s, 0, 0)) _ mode)
  show execResetSequenceComplete s = _
  rw [execResetSequenceComplete, if_neg (by simpa [mode] using all)]
  unfold booted at asked ⊢
  generalize (bootRecords s.aon.bootWords).foldl bootRecord (s, 0, 0) = r at asked ⊢
  refine congrArg _ (if_neg ?_)
  show ¬ freezeAsked ((List.finRange 12).foldl startTraining (trainEntered r)) = true
  rw [freezeAsked_trainAll, freezeAsked_trainEntered, asked, thawed]
  decide

theorem bootStatus_valid (a : Aon) (applied rejected : Nat) : (bootStatus a applied rejected).getLsbD 63 = true := by
  simp [bootStatus, getLsbD_setField]

/-! ### The words of the one-time store -/

theorem bootWord_taken {s : State} (ans : OtsAnswer) (mode : s.aon.mode = .reset) (more : s.aon.bootWords.length < 256) :
    bootWord s ans = updAon s (fun a => match ans with
      | .data w => { a with bootWords := a.bootWords ++ [some w] }
      | _ => { a with
          bootWords := a.bootWords ++ [none], bootFailed := satAdd 255 a.bootFailed 1
          bootFirst := if a.bootFailed = 0 then a.bootWords.length else a.bootFirst }) := by
  rw [bootWord, if_neg (by simpa [mode] using more)] <;> rfl

/-! ### The statement -/

/-- Settles O60, clause by clause. -/
theorem resetsWork : Obligations.ResetsWork := by
  refine fun s => ⟨⟨_, rfl, rfl, rfl, rfl, rfl, rfl, rfl, rfl, rfl, rfl, rfl, rfl, rfl, rfl, rfl, fun n => ?_, rfl, rfl,
    rfl⟩, fun mode => ?_, fun mode => ?_, ⟨_, rfl, rfl, rfl, rfl⟩, fun ans mode more => ⟨?_, ?_⟩,
    fun mode all thawed => ?_⟩
  · exact tget_tmap ..
  · have run : exec .warmReset s = execWarmReset s := rfl
    rw [run, execWarmReset, if_neg (by simpa using mode)]
    refine ⟨_, rfl, ?_⟩
    rw [updAon_aon, driveCodes]
    split <;> exact ⟨rfl, rfl, rfl, rfl, rfl, rfl, rfl, rfl, rfl, rfl, rfl, rfl, rfl, rfl, rfl, rfl, rfl, rfl, rfl⟩
  · show execWarmReset s = _
    rw [execWarmReset, if_pos (by simp [mode])]
  · rintro w rfl
    exact congrArg _ (bootWord_taken (.data w) mode more)
  · have run : exec (.otsTimeout .boot) s = .next (bootWord s .timeout) := rfl
    rw [run, bootWord_taken .timeout mode more]
    exact ⟨_, rfl, rfl, rfl, fun first => if_pos first, rfl⟩
  · have kept : bootPart (booted s).1 = bootPart s := bootPart_bootRecords (acc := (s, 0, 0)) _ mode
    have trains (e : LinkEnd) :
        spn ((List.finRange 12).foldl startTraining (trainEntered (booted s))) e = trainedEnd (spn s e) := by
      rw [spn_trainAll, if_pos (List.mem_finRange e), spn, trainEntered_spine]
      exact congrArg (fun p => trainedEnd (tget p.2.1 e)) kept
    refine ⟨_, resetSequence_trains mode all thawed, ?_⟩
    obtain ⟨spine', frame⟩ : ∃ p, (List.finRange 12).foldl startTraining (trainEntered (booted s)) =
        { trainEntered (booted s) with spine := p } := ⟨_, trainAll_frame ..⟩
    rw [frame] at trains ⊢
    refine ⟨?_, ?_, ?_, fun e off en => ?_, trainEntered_ports _, ?_, ?_⟩
    · rw [trainEntered_aon]
    · rw [trainEntered_aon]
    · rw [trainEntered_bootStatus, bootStatus_valid]
    · rw [trains e]
      simp [trainedEnd, off, en]
    · exact (trainEntered_epochs _).trans (congrArg (·.2.2.1) kept)
    · exact (trainEntered_routers _).trans (congrArg (·.1) kept)

end Sys2Proof.Proofs

/-! ## NIs with nothing to work on, and the event of a late acknowledgement (R421, R455). -/

namespace Sys2Proof.Proofs
open Sys2Proof.Machine Sys2Proof.Safety

/-! ### NIs with nothing to work on -/

/-- Processing the request store of an idle NI changes nothing. -/
theorem processStore_idle {s : State} {n : Slot} (idle : storeIdle s n) : processStore s n = s := by
  obtain ⟨fifo, store, herd, can⟩ := idle
  have once : processOnce s n = s := by
    simp [processOnce, store, processFrom]
  have fed : (if n = herdSlot then feedHerd s.herd.memOut.length s
      else if n = canSlot then feedCan s.can.memOut.length s else s) = s := by
    by_cases isHerd : n = herdSlot
    · rw [if_pos isHerd, herd isHerd]
      rfl
    · by_cases isCan : n = canSlot
      · rw [if_neg isHerd, if_pos isCan, can isCan]
        rfl
      · rw [if_neg isHerd, if_neg isCan]
  unfold processStore
  simp only [once, fifo, List.length_nil, drawFifo, fed, ite_self]

theorem resumeStore_idle {s : State} {n : Slot} (idle : storeIdle s n) : resumeStore s n = s := by
  rw [resumeStore, processStore_idle idle, ite_self]

theorem resumeStores_idle {s : State} {l : List Slot} (idle : ∀ n, storeIdle s n) :
    l.foldl (fun s n => resumeStore s n) s = s := by
  induction l with
  | nil => rfl
  | cons n l ih => rw [List.foldl_cons, resumeStore_idle (idle n), ih]

theorem resumeAll_idle {s : State} (idle : ∀ n, storeIdle s n) : resumeAll s = s := resumeStores_idle idle

/-- Idleness is a matter of FIFO, store and what waits for NIs 188 and 190. -/
theorem storeIdle_congr {s t : State} {n : Slot} (fifo : (nif t n).reqFifo = (nif s n).reqFifo)
    (store : (nif t n).store = (nif s n).store) (herd : t.herd.memOut = s.herd.memOut)
    (can : t.can.memOut = s.can.memOut) (idle : storeIdle s n) : storeIdle t n := by
  rwa [storeIdle, fifo, store, herd, can]

/-! ### A late acknowledgement -/

/-- The Crock notes the epoch of what it writes, which is what R455 compares. -/
theorem crockPut_seen {c : Crock} {ev : Event} (epoch : Nat) (plain : evClass ev.code ≠ .fatal) (empty : c.seen = []) :
    (crockPut c ev epoch).seen = [crockSeenKey ev epoch] := by
  unfold crockPut
  simp only [empty, beq_eq_false_iff_ne.mpr plain, List.contains_nil, Bool.and_false, Bool.false_eq_true, if_false,
    List.filter_nil, List.nil_append]
  (repeat' split) <;> rfl

theorem exec_pwrAckLate {s : State} {m : Mode} {d : Nat} (running : s.aon.mode ≠ .freeze)
    (waits : handshakesDone s = false) (due : s.aon.pwrDue = some (m, d)) (past : d ≤ acl s)
    (first : s.aon.pwrLate = false) : exec .pwrAckLate s =
      .next (crockOnly (updAon s (fun a => { a with pwrLate := true })) .pwrAckLate (modeCode m)) := by
  have shown : (s.aon.mode == .freeze || handshakesDone s) = false := by simp [running, waits]
  show execPwrAckLate s = _
  rw [execPwrAckLate, shown, if_neg Bool.false_ne_true, due]
  simp only [if_neg (Nat.not_lt.mpr past), first, Bool.not_false, if_true]

/-- What the Crock notes of an event of the island (R454). -/
theorem crockOnly_seen {s : State} {code : EventCode} (detail : Nat) (plain : evClass code ≠ .fatal)
    (empty : s.crock.seen = []) : ∃ ev : Event, (crockOnly s code detail).crock.seen =
      [crockSeenKey ev (s.herd.epoch % 2 ^ 48)] :=
  ⟨_, crockPut_seen _ plain empty⟩

/-- A change to SERVE waits for its acknowledgement, 2 ^ 48 epochs after reset. -/
def lateAck : State :=
  { State.reset with
    herd := { Herd.reset with epoch := 2 ^ 48 }
    aon := { Aon.reset with mode := .serve, pwrReq := true, pwrDue := some (.serve, 0) } }

/-- Refutes O54: its clause on PWR_ACK_LATE gives the Crock the Herdsman's epoch as it stands, and an event carries its
epoch modulo 2 ^ 48. At epoch 2 ^ 48 the Crock notes epoch 0. -/
theorem not_wakesAndReturns : ¬ Obligations.WakesAndReturns := by
  intro h
  have mode : lateAck.aon.mode ≠ .freeze := by decide
  have due : lateAck.aon.pwrDue = some (.serve, 0) := rfl
  have empty : lateAck.crock.seen = [] := rfl
  have epoch : lateAck.herd.epoch = 2 ^ 48 := rfl
  have waits : handshakesDone lateAck = false := rfl
  have first : lateAck.aon.pwrLate = false := rfl
  generalize lateAck = s at mode due empty epoch waits first
  obtain ⟨-, late, -⟩ := h s
  obtain ⟨t, ev, run, -, code, crock, -⟩ := late .serve 0 mode waits due (Nat.zero_le _) first
  rw [exec_pwrAckLate mode waits due (Nat.zero_le _) first, Host.Outcome.next.injEq] at run
  obtain ⟨ev', seen⟩ := crockOnly_seen (s := updAon s (fun a => { a with pwrLate := true })) (code := .pwrAckLate)
    (modeCode .serve) (by decide) empty
  rw [run, crock, crockPut_seen _ (by rw [code]; decide) empty, updAon_herd] at seen
  simp only [crockSeenKey, List.cons.injEq, Prod.mk.injEq] at seen
  obtain ⟨⟨-, -, epochs, -⟩, -⟩ := seen
  rw [epoch, Nat.mod_self] at epochs
  exact absurd epochs (by decide)

end Sys2Proof.Proofs

/-! ## The tick at a cluster (R210), whose NIs work on their request stores again (R109). -/

namespace Sys2Proof.Proofs
open Sys2Proof.Machine Sys2Proof.Safety

/-- A posted request without lines waits at NI 188 under the tag of a CROCK_DRAIN's line, and a tick is on its way. -/
def drainAtTick : State :=
  { live with
    nis := tupd live.nis herdSlot (fun x => { x with store := [{
      op := opWrFullP, fetch := false, pkt := [], metered := .colour 0, parity := [], tagFree := true, bad := false
      plan := [] }] })
    herd := { live.herd with
      tickDue := BitVec.allOnes 24
      memBusy := [{ use := .drain 0 0 [0], tag := 0, req := none, left := 1, st := .ok, lstat := 0 }] }
    crock := { Crock.reset with valid := [(0, true)] } }

/-- The request ends, which answers the drain's line with OK, and the line's entry loses its valid bit (R474). -/
theorem drainAtTick_valid : (after drainAtTick (exec (.clusterTick 8) drainAtTick)).crock.valid = [] := by
  decide +kernel

/-- Refutes O28: its clause on the tick at a cluster says that the Crock stands. At cluster 8, NI 188 resumes its request
store, and what ends there may answer a CROCK_DRAIN. -/
theorem not_ticksAdvanceEpochs : ¬ Obligations.TicksAdvanceEpochs := by
  intro h
  obtain ⟨t, run, -, -, -, -, -, crock, -⟩ := (h drainAtTick).2 8 (by decide +kernel) (by decide +kernel)
    (by decide +kernel) (by decide +kernel)
  have valid := drainAtTick_valid
  rw [run, after_next, crock] at valid
  exact absurd valid (by decide +kernel)

end Sys2Proof.Proofs

/-! ## Events at the Herdsman (R34, R314, R322, R454): O49. -/

namespace Sys2Proof.Proofs
open Sys2Proof.Machine Sys2Proof.Safety

theorem fatal_of_evDie {c : EventCode} (die : evDie c = true) : evClass c = .fatal := by
  revert die; cases c <;> decide

section Events
variable {s : State} {ev : Event}

/-- Only a fatal event, or one that merges, starts a recovery. -/
theorem eventStarts_plain (plain : evClass ev.code ≠ .fatal)
    (code : ev.code ≠ .routerStateUe ∧ ev.code ≠ .clusterClockLost) : eventStarts s ev = s := by
  have die : evDie ev.code = false := Bool.eq_false_iff.mpr fun h => plain (fatal_of_evDie h)
  have dead : ev.code ≠ .clusterDead := fun h => plain (by rw [h]; rfl)
  cases unit : eventCluster ev <;> simp [eventStarts, die, dead, plain, code.1, code.2, unit]

/-- An event that its ring can take waits there for the next publication. -/
theorem eventToRing_open {r : RingId} (room : ringHolds s r = false) :
    eventToRing s ev r = updRing s r (fun x => { x with pending := x.pending ++ [eventEntry ev ev.dropped] }) := by
  simp [eventToRing, room]

/-- A CONTAINED event whose ring takes it goes to event ring 0 and to the Crock. -/
theorem writeEvent_contained (cls : evClass ev.code = .contained) (room : ringHolds s 12 = false)
    (ring : crockAlone ev.code = false) :
    writeEvent s ev = updRing (toCrock s ev) 12 (fun x => { x with
      pending := x.pending ++ [eventEntry ev ev.dropped] }) := by
  have room' : ringHolds (toCrock s ev) 12 = false := room
  simp [writeEvent, cls, eventRing, ring, eventToRing_open room']

end Events

theorem takeFirst_head {α : Type} {p : α → Bool} {x : α} {xs : List α} (h : p x = true) :
    takeFirst p (x :: xs) = some (x, xs) := if_pos h

/-- The Herdsman takes its first report. -/
def reportTaken (s : State) (rest : List Event) : State := updHerd s (fun h => { h with reports := rest })

/-- The Herdsman closes its first merge. -/
def mergeTaken (s : State) (rest : List Merge) : State := updHerd s (fun h => { h with merges := rest })

section Runs
variable {s : State} (runs : herdRuns s = true)
include runs

theorem eventReport_plain {ev : Event} {rest : List Event} (first : s.herd.reports = ev :: rest)
    (reach : ev.sectors &&& sectorsMissed s = 0) (alone : mergeable ev.code = false) :
    exec .eventReport s = .next (eventStarts (writeEvent (reportTaken s rest) ev) ev) := by
  show execEventReport s = _
  have taken : takeFirst (fun e : Event => e.sectors &&& sectorsMissed s == 0) (ev :: rest) = some (ev, rest) :=
    takeFirst_head (by simp [reach])
  simp only [execEventReport, runs, first, if_true, taken]
  simp [alone, reportTaken]

theorem eventReport_opens {ev : Event} {rest : List Event} (first : s.herd.reports = ev :: rest)
    (reach : ev.sectors &&& sectorsMissed s = 0) (merges : mergeable ev.code = true) (none : s.herd.merges = []) :
    exec .eventReport s = .next (eventStarts (updHerd (reportTaken s rest) (fun h => { h with
      merges := [{ ev := ev, opened := s.herd.epoch, count := 1 }] })) ev) := by
  show execEventReport s = _
  have taken : takeFirst (fun e : Event => e.sectors &&& sectorsMissed s == 0) (ev :: rest) = some (ev, rest) :=
    takeFirst_head (by simp [reach])
  simp only [execEventReport, runs, first, if_true, taken]
  simp [merges, none, reportTaken, updHerd]

theorem eventMergeClose_due {m : Merge} {rest : List Merge} (first : s.herd.merges = m :: rest)
    (due : m.opened + 4 ≤ s.herd.epoch) :
    exec .eventMergeClose s = .next (writeEvent (mergeTaken s rest) { m.ev with merged := m.count }) := by
  show execEventMergeClose s = _
  have taken : takeFirst (fun m : Merge => decide (m.opened + 4 ≤ s.herd.epoch)) (m :: rest) = some (m, rest) :=
    takeFirst_head (decide_eq_true due)
  simp only [execEventMergeClose, runs, first, if_true, taken]
  rfl

end Runs

/-- Settles O49: each command is its taking step and then `writeEvent`, which for a CONTAINED event is one ring entry and
one write of the Crock. -/
theorem eventsWritten : Obligations.EventsWritten := by
  intro s runs reach full halted
  have room : ringHolds s 12 = false := by simp [ringHolds, full, halted, reach]
  refine ⟨fun ev rest first near cls alone halt late fail => ?_, fun ev rest first near code none => ?_,
    fun m rest first due code => ?_⟩
  · have ring : crockAlone ev.code = false := by simp [crockAlone, halt, late, fail]
    have plain : evClass ev.code ≠ .fatal := by simp [cls]
    have run := eventReport_plain runs first near alone
    rw [eventStarts_plain plain (by simp [mergeable] at alone; exact ⟨alone.1.2, alone.1.1⟩),
      writeEvent_contained cls (show ringHolds (reportTaken s rest) 12 = false from room) ring] at run
    refine ⟨_, run, rfl, ?_, ?_, fun q other => hring_updRing_ne other, rfl, rfl⟩ <;>
      rw [hring_updRing_same] <;> rfl
  · have plain : evClass ev.code ≠ .fatal := by rw [code]; decide
    have run := eventReport_opens runs first near (by rw [code]; rfl) none
    rw [eventStarts_plain plain (by simp [code])] at run
    exact ⟨_, run, rfl, rfl⟩
  · have run := eventMergeClose_due runs first due
    rw [writeEvent_contained (by rw [code]; rfl) (show ringHolds (mergeTaken s rest) 12 = false from room) (by rw [code]; rfl)] at run
    refine ⟨_, run, rfl, ?_, fun q other => hring_updRing_ne other, rfl, rfl⟩
    rw [hring_updRing_same]; rfl

end Sys2Proof.Proofs

/-! ## A configuration swap (R93, R332, R333, R446): O45. -/

namespace Sys2Proof.Proofs
open Sys2Proof.Machine Sys2Proof.Safety

/-! ### Sectors -/

/-- With no sector missed, each is reached. -/
theorem sectorOk_of_sectorsMissed {s : State} (none : sectorsMissed s = 0) (n : SectorId) : sectorOk s n = true := by
  by_contra h
  have fold : ∀ (l : List SectorId) (m : BitVec 8) (k : Nat), m.getLsbD k = true →
      (l.foldl (fun m n => if sectorOk s n then m else m ||| (1#8 <<< n.val)) m).getLsbD k = true := by
    intro l
    induction l with
    | nil => exact fun m k hm => hm
    | cons a l ih =>
      intro m k hm
      refine ih _ k ?_
      by_cases ok : sectorOk s a = true <;> simp [ok, hm]
  obtain ⟨before, after, split⟩ := List.append_of_mem (List.mem_finRange n)
  have lost : (sectorsMissed s).getLsbD n.val = true := by
    unfold sectorsMissed
    rw [split, List.foldl_append, List.foldl_cons, if_neg h]
    exact fold _ _ _ (by simp [n.isLt])
  simp [none] at lost


theorem any_toList_eq_false {α : Type} {n : Nat} {v : Vector α n} {p : α → Bool} (h : ∀ i : Fin n, p (tget v i) = false) :
    v.toList.any p = false := by
  rw [List.any_eq_false]
  intro x mem
  obtain ⟨i, lt, rfl⟩ := List.getElem_of_mem mem
  have := h ⟨i, by simpa using lt⟩
  simp [tget] at this ⊢
  exact this

theorem rtr_updAllR (s : State) (f : RouterId → Router → Router) (r : RouterId) :
    rtr (updAllR s f) r = f r (rtr s r) := tget_tmap ..

/-! ### A command whose row has acted -/

theorem exists_mem_updFirst {α : Type} {p : α → Bool} {f : α → α} {l : List α} (h : ∃ x ∈ l, p x = true) :
    ∃ x ∈ l, p x = true ∧ f x ∈ updFirst p f l := by
  induction l with
  | nil => simp at h
  | cons a l ih =>
    by_cases pa : p a = true
    · exact ⟨a, by simp, pa, by simp [updFirst, pa]⟩
    · obtain ⟨x, mem, px⟩ := h
      obtain rfl | mem := List.mem_cons.mp mem
      · exact absurd px pa
      · obtain ⟨y, my, py, mf⟩ := ih ⟨x, mem, px⟩
        exact ⟨y, by simp [my], py, by simp [updFirst, pa, mf]⟩

/-- The row of a started command has acted. -/
theorem acted_of_started {s t : State} {c : Cmd} (mem : c ∈ s.herd.started)
    (same : t.herd.started = (ranCmd s c.ring c.index).herd.started) : acted t c := by
  obtain ⟨d, -, is, mem⟩ := exists_mem_updFirst (f := fun c : Cmd => { c with ran := true })
    ⟨c, mem, (by simp [isCmd] : isCmd c.ring c.index c = true)⟩
  obtain ⟨ring, index⟩ : d.ring = c.ring ∧ d.index = c.index := by simpa [isCmd] using is
  exact ⟨{ d with ran := true }, by rw [same]; exact mem, ring, index, rfl⟩

/-- The same, for a command named by its ring and index. -/
theorem ended_endCmd_named {s : State} {ring : CmdRing} {index : Nat} {st : Status} {d : BitVec 16} {res : BitVec 320}
    (started : ∃ c ∈ s.herd.started, c.ring = ring ∧ c.index = index) :
    ended (endCmd s ring index st d res) ring index st d res := by
  obtain ⟨c, mem, rfl, rfl⟩ := started
  exact ended_endCmd _ _ _ mem

/-! ### Arming -/

/-- A router as arming for swap `w` leaves it (R332, R446). -/
def armFor (s : State) (w : Swap) (r : RouterId) (x : Router) : Router :=
  if x.armed.isNone && routerReached s r && agentMayArm s r then { x with armed := some (w.tick, w.toB) } else x

theorem armFor_active {s : State} {w : Swap} {r : RouterId} {x : Router} : (armFor s w r x).active = x.active := by
  unfold armFor; split <;> rfl

theorem armAgents_pending {s : State} {w : Swap} (pending : s.herd.swap = some w) :
    ∃ a, armAgents s = updHerd (updAllR s (armFor s w)) (fun h => { h with swap := some { w with acked := a } }) := by
  simp only [armAgents, pending]
  exact ⟨_, rfl⟩

/-- The swap that a CFG_SWAP asks for. -/
def swapAsked (c : Cmd) : Swap :=
  { tick := dField c.desc 8 6, toB := dByte c.desc 14 == 1, ring := c.ring, index := c.index, acked := 0 }

theorem exec_cfgSwap_onTurn {s : State} {c : Cmd} (turn : onTurn s c 0x03) (set : dByte c.desc 14 ≤ 1)
    (other : (dByte c.desc 14 == 1) ≠ s.herd.active) (ahead : s.herd.epoch + 4 ≤ dField c.desc 8 6)
    (free : s.herd.swap = none) (reached : sectorsMissed s = 0) (clean : ∀ n, (round s n).dirty = false) :
    exec (.cfgSwap c.ring) s = .next (armAgents (updHerd (ranCmd s c.ring c.index) (fun h => { h with
      swap := some (swapAsked c) }))) := by
  show execCfgSwap c.ring s = _
  have dirty : s.herd.rounds.toList.any (·.dirty) = false := any_toList_eq_false clean
  have notActive : ((dByte c.desc 14 == 1) == s.herd.active) = false := beq_eq_false_iff_ne.mpr other
  simp only [execCfgSwap, startedOp_of_onTurn turn, notActive, free, reached, dirty]
  rw [if_neg (by simp; omega), if_neg (by simp), if_neg (by omega)] <;> rfl

theorem swapArmed {s : State} {c : Cmd} (turn : onTurn s c 0x03) (set : dByte c.desc 14 ≤ 1)
    (other : (dByte c.desc 14 == 1) ≠ s.herd.active) (ahead : s.herd.epoch + 4 ≤ dField c.desc 8 6)
    (free : s.herd.swap = none) (reached : sectorsMissed s = 0) (clean : ∀ n, (round s n).dirty = false) :
    ∃ t w, exec (.cfgSwap c.ring) s = .next t ∧ acted t c ∧ t.herd.swap = some w ∧ w.tick = dField c.desc 8 6 ∧
      w.toB = (dByte c.desc 14 == 1) ∧ t.herd.active = s.herd.active ∧
      (∀ r, (rtr s r).armed = none → agentMayArm s r = true → (rtr t r).armed = some (w.tick, w.toB)) ∧
      (∀ r, (rtr t r).active = (rtr s r).active) ∧ t = { s with herd := t.herd, routers := t.routers } := by
  have run := exec_cfgSwap_onTurn turn set other ahead free reached clean
  obtain ⟨a, arms⟩ := armAgents_pending (s := updHerd (ranCmd s c.ring c.index) (fun h => { h with
    swap := some (swapAsked c) })) (w := swapAsked c) rfl
  rw [arms] at run
  refine ⟨_, _, run, acted_of_started (mem_started_of_onTurn turn) rfl, rfl, rfl, rfl, rfl, fun r idle may => ?_,
    fun r => (congrArg Router.active (rtr_updAllR ..)).trans armFor_active, rfl⟩
  refine (congrArg Router.armed (rtr_updAllR ..)).trans ?_
  have cond : ((rtr s r).armed.isNone && routerReached s r && agentMayArm s r) = true := by
    simp [idle, may, routerReached, sectorOk_of_sectorsMissed reached]
  exact congrArg Router.armed (if_pos cond)

/-! ### Cancelling -/

theorem swapCancelled {s : State} {w : Swap} (runs : herdRuns s = true) (pending : s.herd.swap = some w)
    (due : w.tick = s.herd.epoch + 2) (missing : swapAcked w = false)
    (started : ∃ d ∈ s.herd.started, d.ring = w.ring ∧ d.index = w.index) :
    ∃ t, exec .cfgSwapCancel s = .next t ∧ t.herd.swap = none ∧ ended t w.ring w.index .notReady 0 0 ∧
      (∀ r, routerReached s r = true → (rtr t r).armed = none) ∧ t.herd.active = s.herd.active ∧
      (∀ r, (rtr t r).active = (rtr s r).active) ∧ t = { s with herd := t.herd, routers := t.routers } := by
  have run : exec .cfgSwapCancel s = .next (swapCancel s) := by
    show execCfgSwapCancel s = _
    simp [execCfgSwapCancel, runs, pending, due]
  have cancel : ∃ (f : RouterId → Router → Router) (g : Herd → Herd), swapCancel s =
      endCmd (updHerd (updAllR s f) g) w.ring w.index .notReady 0 ∧
      (∀ r x, routerReached s r = true → (f r x).armed = none) ∧ (∀ r x, (f r x).active = x.active) ∧
      (g s.herd).started = s.herd.started ∧ (g s.herd).swap = none ∧ (g s.herd).active = s.herd.active := by
    refine ⟨_, _, by simp only [swapCancel, pending]; exact if_pos (by simp [due, missing]), fun r x reach => ?_,
      fun r x => ?_, rfl, rfl, rfl⟩
    · simp [reach]
    · split <;> rfl
  obtain ⟨f, g, eq, unarmed, active, sameStarted, noSwap, sameActive⟩ := cancel
  rw [eq] at run
  have herd := onlyStarted_endCmd (updHerd (updAllR s f) g) w.ring w.index .notReady 0 0
  refine ⟨_, run, (congrArg Herd.swap herd).trans noSwap, ended_endCmd_named (by
      show ∃ d ∈ (g s.herd).started, _
      rwa [sameStarted]), fun r reach => ?_, (congrArg Herd.active herd).trans sameActive, fun r => ?_, rfl⟩
  · exact (congrArg Router.armed (rtr_updAllR s f r)).trans (unarmed _ _ reach)
  · exact (congrArg Router.active (rtr_updAllR s f r)).trans (active _ _)


/-! ### Applying -/

theorem storeIdle_refreshOrder {s : State} {n m : Slot} (idle : storeIdle s m) : storeIdle (refreshOrder s n) m := by
  have kept : nif (refreshOrder s n) m = if n = m then _ else nif s m := nif_updN s n m _
  refine storeIdle_congr (s := s) ?_ ?_ rfl rfl idle <;> rw [kept] <;> split <;> rfl

/-- Two NIs that have nothing to work on only take their response order anew. -/
theorem resumeStores_refreshed {s : State} {a b : Slot} (idleA : storeIdle s a) (idleB : storeIdle s b) :
    [a, b].foldl (fun s n => resumeStore (refreshOrder s n) n) s = refreshOrder (refreshOrder s a) b := by
  simp only [List.foldl_cons, List.foldl_nil]
  rw [resumeStore_idle (storeIdle_refreshOrder idleA),
    resumeStore_idle (storeIdle_refreshOrder (storeIdle_refreshOrder idleB))]

/-- A router at the tick of its swap (R93). -/
def swapped (toB : Bool) (x : Router) : Router :=
  { x with active := toB, armed := none, outs := tmap x.outs (fun _ o => { o with age := 0 }) }

theorem swapApply_due {s : State} {r : RouterId} {e : Nat} {toB : Bool} (armed : (rtr s r).armed = some (e, toB))
    (due : e ≤ epochR s r) : ∃ (u : State) (now wait : Nat),
    u = freshConfig (copiesSwapped (updR s r (swapped toB)) r) r ∧ swapApply s r =
      [slotAt r 0, slotAt r 1].foldl (fun s n => resumeStore (refreshOrder s n) n) (updR u r (recheckEsc now wait)) := by
  let u := freshConfig (copiesSwapped (updR s r (swapped toB)) r) r
  refine ⟨u, timeR u r 0, cfgR u r itEscWait 0 0, rfl, ?_⟩
  simp only [swapApply, armed, due, if_true]
  rfl

theorem swapApplied {s : State} {r : RouterId} {e : Nat} {toB : Bool} (runs : routerRuns s r = true)
    (armed : (rtr s r).armed = some (e, toB)) (due : e ≤ epochR s r) (idle0 : storeIdle s (slotAt r 0))
    (idle1 : storeIdle s (slotAt r 1)) :
    ∃ t, exec (.cfgSwapApply r) s = .next t ∧ (rtr t r).active = toB ∧ (rtr t r).armed = none ∧
      (∀ p, (outOf t r p).age = 0) ∧ (∀ q, q ≠ r → rtr t q = rtr s q) ∧ t.cfgA = s.cfgA ∧ t.cfgB = s.cfgB ∧
      t.herd = s.herd ∧ t.aon = s.aon := by
  have run : exec (.cfgSwapApply r) s = .next (swapApply s r) := by
    show execCfgSwapApply r s = _
    rw [execCfgSwapApply, if_pos runs]
  obtain ⟨u, now, wait, rfl, eq⟩ := swapApply_due armed due
  have idle (n : Slot) (h : storeIdle s n) : storeIdle (updR (freshConfig (copiesSwapped (updR s r (swapped toB)) r) r)
    r (recheckEsc now wait)) n := storeIdle_congr rfl rfl rfl rfl h
  rw [eq, resumeStores_refreshed (idle _ idle0) (idle _ idle1)] at run
  have same : rtr (updR (updR s r (swapped toB)) r (recheckEsc now wait)) r =
      recheckEsc now wait (swapped toB (rtr s r)) := by rw [rtr_updR, if_pos rfl, rtr_updR, if_pos rfl]
  refine ⟨_, run, congrArg Router.active same, congrArg Router.armed same, fun p => ?_, fun q other => ?_, rfl, rfl, rfl,
    rfl⟩
  · refine (congrArg (fun x : Router => (tget x.outs p).age) same).trans ?_
    simp [recheckEsc, swapped]
  · exact (rtr_updR_ne _ _ _ _ other.symm).trans (rtr_updR_ne _ _ _ _ other.symm)

/-- Settles O45, clause by clause: arming, the cancellation at tick T − 2, and the swap of one router. -/
theorem swapArmedCancelledApplied : Obligations.SwapArmedCancelledApplied := fun _ =>
  ⟨fun _ turn set other ahead free reached clean => swapArmed turn set other ahead free reached clean,
    fun _ runs pending due missing started => swapCancelled runs pending due missing started,
    fun _ _ _ runs armed due idle0 idle1 => swapApplied runs armed due idle0 idle1⟩

end Sys2Proof.Proofs

/-! ## Configuration sets written, copied and read (R328, R331): O44. -/

namespace Sys2Proof.Proofs
open Sys2Proof.Machine Sys2Proof.Safety

/-! ### Sparse stores: parts and overlays -/

section Sparse
variable {α : Type} [DecidableEq α] {d : Nat → α}

omit [DecidableEq α] in
theorem sget_of_not_mem {m : Sparse α} {k : Nat} (h : ∀ e ∈ m, e.1 ≠ k) : sget d m k = d k := by
  induction m with
  | nil => rfl
  | cons e m ih =>
    rw [sget, if_neg (h e (by simp)).symm]
    exact ih fun e mem => h e (by simp [mem])

omit [DecidableEq α] in
theorem sget_filter (p : Nat → Bool) (m : Sparse α) (k : Nat) :
    sget d (m.filter (fun e => p e.1)) k = if p k then sget d m k else d k := by
  induction m with
  | nil => simp [sget]
  | cons e m ih =>
    by_cases same : k = e.1
    · subst same
      cases kept : p e.1
      · simp [kept, ih]
      · simp [kept, sget]
    · obtain ⟨b, y⟩ := e
      cases kept : p b <;> simp [kept, sget, same, ih]

/-- The entries of `l` written one after the other into `a`. -/
def overlay (d : Nat → α) (l a : Sparse α) : Sparse α := l.foldl (fun m e => sput d e.1 e.2 m) a

theorem sget_overlay {l a : Sparse α} {lo : Nat} (hl : swfFrom d lo l = true) (ha : swf d a = true) (k : Nat) :
    sget d (overlay d l a) k = if k ∈ l.map Prod.fst then sget d l k else sget d a k := by
  induction l generalizing lo a with
  | nil => rfl
  | cons e l ih =>
    simp only [swfFrom, Bool.and_eq_true] at hl
    rw [overlay, List.foldl_cons, ← overlay, ih hl.2 (swf_sput d e.1 e.2 a ha)]
    by_cases same : k = e.1
    · subst same
      have below := sget_below d l (e.1 + 1) e.1 hl.2 (by omega)
      have out : e.1 ∉ l.map Prod.fst := fun mem => by
        obtain ⟨f, mf, eq⟩ := List.mem_map.mp mem
        exact swfFrom_ne hl.2 mf eq
      simp [out, sget, sget_sput d e.1 e.2 a ha]
    · obtain ⟨b, y⟩ := e
      change k ≠ b at same
      have cons : k ∈ List.map Prod.fst ((b, y) :: l) ↔ k ∈ List.map Prod.fst l := by
        rw [List.map_cons, List.mem_cons, or_iff_right same]
      rw [sget, if_neg same, sget_sput_ne d b k y a same]
      exact if_congr cons.symm rfl rfl
where
  swfFrom_ne {l : Sparse α} {lo : Nat} {f : Nat × α} (hl : swfFrom d (lo + 1) l = true) (mem : f ∈ l) : f.1 ≠ lo := by
    have above : ∀ (l : Sparse α) (b : Nat), swfFrom d b l = true → ∀ f ∈ l, b ≤ f.1 := by
      intro l
      induction l with
      | nil => simp
      | cons e l ih =>
        intro b h f mem
        simp only [swfFrom, Bool.and_eq_true, decide_eq_true_eq] at h
        obtain rfl | mem := List.mem_cons.mp mem
        · exact h.1.1
        · have := ih (e.1 + 1) h.2 f mem
          omega
    have := above l (lo + 1) hl f mem
    omega

end Sparse

/-! ### Places and items -/

theorem missedOf_reached {s : State} {p : CfgPlace} (j : Nat) (reached : placeReached s p = true) :
    missedOf s [(p, j)] = 0 := by
  have none (n : SectorId) : (!sectorOk s n && [(p, j)].any (fun p => placeSector p.1 == some n)) = false := by
    rw [placeReached] at reached
    cases sec : placeSector p with
    | none => simp [sec]
    | some m =>
      rw [sec] at reached
      by_cases same : m = n
      · subst same; simp at reached; simp [reached]
      · simp [sec, same]
  simp only [missedOf, none, Bool.false_eq_true, if_false]
  rfl

/-- An item, where there is one, takes from one byte to sixteen. -/
def shortItem (o : Option ItemInfo) : Prop := ∀ i, o = some i → 0 < i.bytes ∧ i.bytes ≤ 16

theorem shortItem_ite {p : Prop} [Decidable p] {a b : Option ItemInfo} (ha : shortItem a) (hb : shortItem b) :
    shortItem (if p then a else b) := by
  split
  · exact ha
  · exact hb

theorem itemInfo_bytes {item : Nat} {i : ItemInfo} (h : itemInfo item = some i) : 0 < i.bytes ∧ i.bytes ≤ 16 := by
  have short : shortItem (itemInfo item) := by
    unfold itemInfo
    repeat' refine shortItem_ite ?_ ?_
    all_goals rintro _ ⟨⟩ <;> decide
  exact short i h

theorem set_of_cfgMalformed {a : CfgArgs} {i : ItemInfo} {b : Bool} (good : cfgMalformed a i b = false) : a.set ≤ 1 := by
  simp only [cfgMalformed, Bool.or_eq_false_iff, decide_eq_false_iff_not] at good
  omega

/-! ### CFG_WRITE of one entry -/

theorem cfgGet_cfgPut {s : State} (wfA : swf cfgBoot s.cfgA = true) (wfB : swf cfgBoot s.cfgB = true) (set : Bool)
    (item unit port index v : Nat) : cfgGet (cfgPut s set item unit port index v) set item unit port index = v := by
  cases set
  · exact sget_sput cfgBoot _ _ _ wfA
  · exact sget_sput cfgBoot _ _ _ wfB

/-- The set written has every other entry as before, and the other set is as before. -/
theorem cfgPut_others (s : State) (set : Bool) (item unit port index v : Nat) :
    if set then (cfgPut s set item unit port index v).cfgA = s.cfgA ∧
      otherEntries s.cfgB (cfgPut s set item unit port index v).cfgB (cfgKey item unit port index)
    else (cfgPut s set item unit port index v).cfgB = s.cfgB ∧
      otherEntries s.cfgA (cfgPut s set item unit port index v).cfgA (cfgKey item unit port index) := by
  cases set <;> exact ⟨rfl, fun j other => sget_sput_ne cfgBoot _ _ _ _ other⟩

theorem cfgPut_frame (s : State) (set : Bool) (item unit port index v : Nat) :
    ∃ a b, cfgPut s set item unit port index v = { s with cfgA := a, cfgB := b } := by
  cases set <;> exact ⟨_, _, rfl⟩

theorem cfgWriteCmd_one {s : State} {c : Cmd} {block : Block} {i : ItemInfo} {p : CfgPlace} {v : Nat}
    (item : itemInfo (cfgArgs c).item = some i) (good : cfgMalformed (cfgArgs c) i true = false)
    (inline : (cfgArgs c).source = 0) (one : cfgPlaces (cfgArgs c) i = [(p, 0)]) (reached : placeReached s p = true)
    (count : (cfgArgs c).count = 1) (inactive : ((cfgArgs c).set == 1) ≠ s.herd.active) (free : s.herd.swap = none)
    (value : itemValue (cfgArgs c).item p.index (dField c.desc 32 i.bytes) = some v)
    (index : (cfgArgs c).index = p.index) (map : (cfgArgs c).item ≠ itBankMap) (gate : (cfgArgs c).item ≠ itGateList) :
    cfgWriteCmd s c block =
      endCmd (cfgPut s ((cfgArgs c).set == 1) (cfgArgs c).item p.num p.port p.index v) c.ring c.index .ok 0 := by
  have other : (((cfgArgs c).set == 1) == s.herd.active) = false := beq_eq_false_iff_ne.mpr inactive
  have fault : cfgWriteFault s c block (cfgArgs c) i = none := by
    simp [cfgWriteFault, good, inline, addrBad, firstBad, count, packedEntry, index, value, map]
  have written : cfgWriteAll s ((cfgArgs c).set == 1) (cfgArgs c).item [(p, 0)]
      (packedEntry c block ((cfgArgs c).source == 0) i.bytes) =
      cfgPut s ((cfgArgs c).set == 1) (cfgArgs c).item p.num p.port p.index v := by
    simp [cfgWriteAll, packedEntry, inline, value]
  simp only [cfgWriteCmd, other, free, item, one, fault, missedOf_reached 0 reached, Bool.and_false, Option.any_none,
    List.filter_cons, List.filter_nil, reached, if_true, written, mapsWritten, map, if_false]
  simp [gate]

/-! ### CFG_COPY -/

theorem sget_copySets {s : State} (wfA : swf cfgBoot s.cfgA = true) (wfB : swf cfgBoot s.cfgB = true) (key : Nat) :
    sget cfgBoot (copySets s).cfgA key = sget cfgBoot (if keyActive s key then s.cfgB else s.cfgA) key := by
  have wfA' : swf cfgBoot (s.cfgA.filter (fun e => !keyActive s e.1)) = true := swf_filter cfgBoot _ _ wfA
  have wfB' : swf cfgBoot (s.cfgB.filter (fun e => keyActive s e.1)) = true := swf_filter cfgBoot _ _ wfB
  have eq : (copySets s).cfgA = overlay cfgBoot (s.cfgB.filter (fun e => keyActive s e.1))
    (s.cfgA.filter (fun e => !keyActive s e.1)) := rfl
  rw [eq, sget_overlay wfB' wfA', sget_filter (fun k => !keyActive s k), sget_filter (keyActive s)]
  cases active : keyActive s key
  · have out : key ∉ (s.cfgB.filter (fun e => keyActive s e.1)).map Prod.fst := fun mem => by
      obtain ⟨e, me, rfl⟩ := List.mem_map.mp mem
      simp [active] at me
    simp [out]
  · by_cases listed : key ∈ (s.cfgB.filter (fun e => keyActive s e.1)).map Prod.fst
    · simp [listed]
    · have boot : sget cfgBoot s.cfgB key = cfgBoot key := sget_of_not_mem fun e mem same => listed
        (List.mem_map.mpr ⟨e, List.mem_filter.mpr ⟨mem, by rw [same]; exact active⟩, same⟩)
      simp [listed, boot]

theorem exec_cfgCopy_onTurn {s : State} {c : Cmd} (turn : onTurn s c 0x02) (idle : s.herd.copy = none)
    (free : s.herd.swap = none) (reached : sectorsMissed s = 0) :
    exec (.cfgCopy c.ring) s = .next (updHerd (ranCmd (copySets s) c.ring c.index) (fun h => { h with
      copy := some { ring := c.ring, index := c.index } })) := by
  show execCfgCopy c.ring s = _
  simp [execCfgCopy, startedOp_of_onTurn turn, idle, free, reached]

theorem copyTick_copying {s : State} {w : CopyWait} (copying : s.herd.copy = some w) :
    copyTick s = endCmd (updHerd s (fun h => { h with
      copy := none
      rounds := tmap h.rounds (fun n x => { x with dirty := (sectorsMissed s).getLsbD n.val }) }))
      w.ring w.index (if sectorsMissed s = 0 then .ok else .notReady) ((sectorsMissed s).setWidth 16) := by
  simp only [copyTick, copying]

/-! ### CFG_READ -/

theorem natOfBytes_bytesOf (v w : Nat) : natOfBytes (bytesOf v w) = v % 256 ^ w := by
  induction w generalizing v with
  | zero => simp [bytesOf, natOfBytes, Nat.mod_one]
  | succ w ih =>
    have shift : bytesOf v (w + 1) = v % 256 :: bytesOf (v / 256) w := by
      simp only [bytesOf, List.range_succ_eq_map, List.map_cons, List.map_map, pow_zero, Nat.div_one]
      congr 1
      refine List.map_congr_left fun k _ => ?_
      simp [Nat.div_div_eq_div_mul, pow_succ, mul_comm]
    rw [shift, natOfBytes, List.foldr_cons, ← natOfBytes, ih, pow_succ, mul_comm (256 ^ w), Nat.mod_mul]

/-- Fewer bytes than a line holds go out as one partial write. -/
theorem packLines_part (s : State) (use : MemUse) (fuel line : Nat) {bs : List Nat} (some : bs ≠ [])
    (short : bs.length < 64) : packLines s use (fuel + 1) line bs =
      [linesAcc s use opWrPartNp line [BitVec.ofNat 512 (2 ^ bs.length - 1), BitVec.ofNat 512 (natOfBytes bs)]] := by
  rw [packLines, if_neg (by simpa using some), if_pos short, List.take_of_length_le (by omega)]


theorem exec_cfgRead_one {s : State} {c : Cmd} {i : ItemInfo} {p : CfgPlace} (turn : onTurn s c 0x04)
    (item : itemInfo (cfgArgs c).item = some i) (good : cfgMalformed (cfgArgs c) i false = false)
    (aligned : addrBad (cfgArgs c).source = false) (one : cfgPlaces (cfgArgs c) i = [(p, 0)])
    (reached : placeReached s p = true) :
    exec (.cfgRead c.ring) s = .next (memWrites (ranCmdAs s c.ring c.index (.ok, 0, 0))
      [linesAcc s (.cmd c.ring c.index) opWrPartNp ((cfgArgs c).source / 64)
        [BitVec.ofNat 512 (2 ^ i.bytes - 1), BitVec.ofNat 512 (cfgGet s ((cfgArgs c).set == 1) (cfgArgs c).item
          p.num p.port p.index % 256 ^ i.bytes)]]) := by
  obtain ⟨pos, small⟩ := itemInfo_bytes item
  have bytes : cfgBytes s (cfgArgs c) i =
      bytesOf (cfgGet s ((cfgArgs c).set == 1) (cfgArgs c).item p.num p.port p.index) i.bytes := by
    simp [cfgBytes, one, reached]
  have length (v : Nat) : (bytesOf v i.bytes).length = i.bytes := by simp [bytesOf]
  show execCfgRead c.ring s = _
  simp only [execCfgRead, startedOp_of_onTurn turn, item, one, missedOf_reached 0 reached, good, aligned, bytes]
  rw [packLines_part s _ _ _ (List.ne_nil_of_length_pos (by rw [length]; exact pos)) (by rw [length]; omega), length,
    natOfBytes_bytesOf]
  rfl

theorem ending_ranCmdAs {s : State} {c : Cmd} {e : Status × BitVec 16 × BitVec 320} (mem : c ∈ s.herd.started) :
    ∃ d ∈ (ranCmdAs s c.ring c.index e).herd.started, d.ring = c.ring ∧ d.index = c.index ∧ d.ran = true ∧
      d.ending = e := by
  obtain ⟨d, -, is, mem⟩ := exists_mem_updFirst (f := fun c : Cmd => { c with ran := true, ending := e })
    ⟨c, mem, (by simp [isCmd] : isCmd c.ring c.index c = true)⟩
  obtain ⟨ring, index⟩ : d.ring = c.ring ∧ d.index = c.index := by simpa [isCmd] using is
  exact ⟨_, mem, ring, index, rfl, rfl⟩

/-- Settles O44. CFG_WRITE is one write of a sparse store; CFG_COPY overlays the active entries of set B on those of
set A; CFG_READ's entry goes out as the bytes of its value. -/
theorem configSetsWrittenAndRead : Obligations.ConfigSetsWrittenAndRead := by
  intro s c wfA wfB
  refine ⟨fun block i p v turn item good inline one reached count inactive free value index map gate => ?_,
    fun turn idle free reached => ?_, fun w copying started => ?_, fun i p turn item good aligned one reached => ?_⟩
  · have run := exec_cfgWrite_onTurn block turn
    rw [cfgWriteCmd_one item good inline one reached count inactive free value index map gate] at run
    have named := set_of_cfgMalformed good
    obtain ⟨a, b, frame⟩ := cfgPut_frame s ((cfgArgs c).set == 1) (cfgArgs c).item p.num p.port p.index v
    have written := cfgGet_cfgPut wfA wfB ((cfgArgs c).set == 1) (cfgArgs c).item p.num p.port p.index v
    have others := cfgPut_others s ((cfgArgs c).set == 1) (cfgArgs c).item p.num p.port p.index v
    rw [frame] at run written others
    simp only [beq_iff_eq] at others
    exact ⟨_, run, ended_endCmd _ _ _ (mem_started_of_onTurn turn), written, others, onlyStarted_endCmd .., rfl⟩
  · exact ⟨_, exec_cfgCopy_onTurn turn idle free reached, acted_of_started (mem_started_of_onTurn turn) rfl, rfl,
      sget_copySets wfA wfB, rfl, rfl⟩
  · rw [copyTick_copying copying]
    refine ⟨?_, fun reached => ?_, fun missed => ?_, fun n => ?_⟩
    · exact congrArg Herd.copy (onlyStarted_endCmd ..)
    · rw [reached, if_pos rfl]
      exact ended_endCmd_named started
    · rw [if_neg missed]
      exact ended_endCmd_named started
    · refine (congrArg (fun h : Herd => (tget h.rounds n).dirty) (onlyStarted_endCmd ..)).trans ?_
      simp
  · obtain ⟨d, mem, ring, index, ran, ending⟩ := ending_ranCmdAs (e := (.ok, 0, 0)) (mem_started_of_onTurn turn)
    exact ⟨_, d, exec_cfgRead_one turn item good aligned one reached, mem, ring, index, ran, ending, rfl, rfl⟩

end Sys2Proof.Proofs

/-! ## Draining the Crock, link control, ring moves and snapshots (R329, R342, R381, R474): O43. -/

namespace Sys2Proof.Proofs
open Sys2Proof.Machine Sys2Proof.Safety

/-! ### CROCK_DRAIN -/

section Drain
variable {s : State} {c : Cmd} (turn : onTurn s c 0x15) (count : dField c.desc 8 2 ≤ 4096)
  (aligned : addrBad (dField c.desc 16 8) = false)

/-- The lines of the entries that a CROCK_DRAIN asks for. -/
def drainAsked (s : State) (c : Cmd) : List (BitVec 512 × List Nat) :=
  drainLines s (if dField c.desc 8 2 = 0 then crockValids s.crock else (crockValids s.crock).take (dField c.desc 8 2))

include turn count aligned

theorem exec_crockDrain_onTurn : exec (.crockDrain c.ring) s = .next (match drainAsked s c with
    | [] => endCmd s c.ring c.index .ok 0 (drainResult s.crock 0)
    | ls => memWrites (ranCmd s c.ring c.index) (drainWrites s c.ring c.index (dField c.desc 16 8 / 64) none ls)) := by
  show execCrockDrain c.ring s = _
  simp only [execCrockDrain, startedOp_of_onTurn turn]
  rw [if_neg (by simp [aligned]; omega)]
  rfl

theorem crockDrain_empty (none : drainAsked s c = []) :
    ∃ t, exec (.crockDrain c.ring) s = .next t ∧ ended t c.ring c.index .ok 0 (drainResult s.crock 0) ∧
      onlyStarted s t ∧ t = { s with herd := t.herd } := by
  have run := exec_crockDrain_onTurn turn count aligned
  rw [none] at run
  exact ⟨_, run, ended_endCmd _ _ _ (mem_started_of_onTurn turn), onlyStarted_endCmd .., endCmd_frame ..⟩

theorem crockDrain_lines {ls : List (BitVec 512 × List Nat)} (asked : ls = drainAsked s c) (some : ls ≠ []) :
    ∃ t, exec (.crockDrain c.ring) s = .next t ∧ acted t c ∧ t.herd.memOut = s.herd.memOut ++
        drainWrites s c.ring c.index (dField c.desc 16 8 / 64) none ls ∧
      t = { s with herd := { s.herd with started := t.herd.started, memOut := t.herd.memOut } } := by
  have run := exec_crockDrain_onTurn turn count aligned
  rw [← asked] at run
  cases ls with
  | nil => exact absurd rfl some
  | cons l ls => exact ⟨_, run, acted_of_started (mem_started_of_onTurn turn) rfl, rfl, rfl⟩

end Drain

theorem crock_drainAnswered_ok (s : State) (ring : CmdRing) (index : Nat) (is : List Nat) :
    (drainAnswered s ring index is .ok).crock = crockClear s.crock is := by
  rw [drainAnswered, if_pos (by rfl)]
  dsimp only
  split <;> rfl

/-- A line of a drain that memory refuses ends the command, and every entry stays (R474). -/
theorem drainAnswered_failed {s : State} {ring : CmdRing} {index : Nat} {st : Status} (is : List Nat) (failed : st ≠ .ok) :
    ∃ n, drainAnswered s ring index is st = endCmd (updHerd s (fun h => { h with
      memOut := h.memOut.filter (fun a => !isDrain ring index a.use) })) ring index .poison 0 (drainResult s.crock n) :=
  ⟨_, by rw [drainAnswered, if_neg (by simpa using failed)]; rfl⟩

theorem drainAnswers (s : State) (c : Cmd) (is : List Nat) :
    (drainAnswered s c.ring c.index is .ok).crock = crockClear s.crock is ∧
    (∀ st, st ≠ .ok → (drainAnswered s c.ring c.index is st).crock = s.crock ∧
      (c ∈ s.herd.started → ∃ r, ended (drainAnswered s c.ring c.index is st) c.ring c.index .poison 0 r)) := by
  refine ⟨crock_drainAnswered_ok .., fun st failed => ?_⟩
  obtain ⟨n, eq⟩ := drainAnswered_failed (s := s) (ring := c.ring) (index := c.index) is failed
  rw [eq]
  exact ⟨rfl, fun mem => ⟨_, ended_endCmd _ _ _ mem⟩⟩

/-! ### LINK_CTL -/

theorem spn_foldl_updE (f : LinkEnd → SpineEnd → SpineEnd) {l : List LinkEnd} (distinct : l.Nodup) (s : State) :
    (∀ e ∈ l, spn (l.foldl (fun s e => updE s e (f e)) s) e = f e (spn s e)) ∧
    (∀ e ∉ l, spn (l.foldl (fun s e => updE s e (f e)) s) e = spn s e) := by
  induction l generalizing s with
  | nil => simp
  | cons a l ih =>
    obtain ⟨out, distinct⟩ := List.nodup_cons.mp distinct
    obtain ⟨inside, outside⟩ := ih distinct (updE s a (f a))
    simp only [List.foldl_cons]
    refine ⟨fun e mem => ?_, fun e mem => ?_⟩
    · obtain rfl | mem := List.mem_cons.mp mem
      · rw [outside _ out, spn_updE, if_pos rfl]
      · rw [inside e mem, spn_updE_ne _ _ _ _ fun same => out (by rw [same]; exact mem)]
    · obtain ⟨other, mem⟩ := not_or.mp (mt List.mem_cons.mpr mem)
      rw [outside e mem, spn_updE_ne _ _ _ _ fun same => other same.symm]

theorem foldl_updE_frame (f : LinkEnd → SpineEnd → SpineEnd) (l : List LinkEnd) (s : State) :
    ∃ sp, l.foldl (fun s e => updE s e (f e)) s = { s with spine := sp } := by
  induction l generalizing s with
  | nil => exact ⟨_, rfl⟩
  | cons a l ih => exact ih (updE s a (f a))

theorem bothEnds_nodup (l : LinkId) : (bothEnds l).Nodup := by revert l; decide

/-- What a LINK_CTL whose mask leaves LINK_EN alone makes of one end (R277). -/
def linkItems (d : BitVec 512) (e : LinkEnd) (x : SpineEnd) : SpineEnd :=
  { x with
    compress := if (dByte d 9).testBit 1 then (dByte d 11).testBit (e.val % 2) else x.compress
    lockLoss := if (dByte d 9).testBit 2 then dField d 12 2 else x.lockLoss
    laneErrMax := if (dByte d 9).testBit 3 then dByte d 14 else x.laneErrMax
    returnWait := if (dByte d 9).testBit 4 then dByte d 15 else x.returnWait }

theorem linkCtl_items {s : State} {l : LinkId} {d : BitVec 512} (noEn : (dByte d 9).testBit 0 = false)
    (noRetrain : (dByte d 9).testBit 5 = false) :
    linkCtl s l d = (bothEnds l).foldl (fun s e => updE s e (linkItems d e)) s := by
  simp only [linkCtl, noEn, noRetrain, writeLinkItems, Bool.false_eq_true, if_false]
  rfl

theorem linkControlled {s : State} {c : Cmd} {l : LinkId} (turn : onTurn s c 0x18) (good : linkCtlBad c.desc = false)
    (link : dByte c.desc 8 = l.val) (reached : (bothEnds l).all (endReached s) = true)
    (noEn : (dByte c.desc 9).testBit 0 = false) (noRetrain : (dByte c.desc 9).testBit 5 = false) :
    ∃ t res, exec (.linkCtl c.ring) s = .next t ∧ ended t c.ring c.index .ok 0 res ∧
      (∀ e ∈ bothEnds l, spn t e = linkItems c.desc e (spn s e)) ∧
      (∀ e, e ∉ bothEnds l → spn t e = spn s e) ∧ onlyStarted s t ∧
      t = { s with herd := t.herd, spine := t.spine } := by
  have run : ∃ res, exec (.linkCtl c.ring) s = .next (endCmd (linkCtl s l c.desc) c.ring c.index .ok 0 res) := by
    have named : (Fin.ofNat 6 (dByte c.desc 8) : LinkId) = l := by rw [link]; exact Fin.ofNat_val_eq_self l
    have judged : ¬(5 < dByte c.desc 8 ∨ True ∧ false = true) := by have := l.isLt; simp; omega
    show ∃ res, execLinkCtl c.ring s = _
    simp only [execLinkCtl, startedOp_of_onTurn turn, named, reached, good, if_true, if_neg judged]
    exact ⟨_, rfl⟩
  obtain ⟨res, run⟩ := run
  rw [linkCtl_items noEn noRetrain] at run
  obtain ⟨inside, outside⟩ := spn_foldl_updE (linkItems c.desc) (bothEnds_nodup l) s
  obtain ⟨sp, frame⟩ := foldl_updE_frame (linkItems c.desc) (bothEnds l) s
  rw [frame] at run inside outside
  exact ⟨_, res, run, ended_endCmd _ _ _ (mem_started_of_onTurn turn), inside, outside, onlyStarted_endCmd .., rfl⟩

/-! ### RING_MOVE -/

theorem exec_ringMove_onTurn {s : State} {c : Cmd} {block : Block} (turn : onTurn s c 0x28) (free : s.herd.swap = none)
    (reached : sectorsMissed s = 0) (aligned : addrBad (dField c.desc 16 8) = false) (good : blockGood block 2 = true)
    (valid : ∀ r, moveBad s block r = false) :
    exec (.ringMove c.ring block) s = .next (updHerd (ranCmd s c.ring c.index) (fun h => { h with
      moving := some (tabOf (fun i => if i.val < 14 then moveWord block (Fin.ofNat 14 i.val) else 0))
      accept := false })) := by
  have none : (List.finRange 14).find? (moveBad s block) = none := List.find?_eq_none.mpr fun r _ => by simp [valid r]
  show execRingMove c.ring block s = _
  simp [execRingMove, startedOp_of_onTurn turn, free, reached, aligned, good, none]

/-! ### SNAPSHOT -/

/-- The sequence that a SNAPSHOT starts (R381). -/
def snapSeq (s : State) (c : Cmd) (armed : Option (Nat × BitVec 8)) : SnapSeq :=
  { ring := c.ring, index := c.index, next := max (dField c.desc 8 6) (s.herd.epoch + 4)
    first := max (dField c.desc 8 6) (s.herd.epoch + 4), repeats := dField c.desc 14 2, interval := dField c.desc 16 2
    cmdId := dField c.desc 0 4, done := 0, abandoned := 0, user := decide (4 ≤ c.ring.val), stop := false
    armed := armed }

/-- A sequence whose first tick is four epochs ahead is armed at once, at every sector that is reached. -/
theorem armUnits_started {s : State} {c : Cmd} (repeats : dField c.desc 14 2 ≠ 0) :
    ∃ armed, armUnits (updDip s (fun d => { d with seq := some (snapSeq s c none) })) =
        updDip s (fun d => { d with seq := some (snapSeq s c armed) }) ∧
      ((snapSeq s c armed).first = s.herd.epoch + 4 →
        armed = some ((snapSeq s c armed).first, ~~~ (sectorsMissed s))) := by
  by_cases near : dField c.desc 8 6 ≤ s.herd.epoch + 4
  · refine ⟨some (s.herd.epoch + 4, ~~~ (sectorsMissed s)), ?_, fun first => by rw [first]⟩
    have first : (snapSeq s c none).first = s.herd.epoch + 4 := max_eq_right near
    simp only [armUnits, updDip_dip, updDip_herd]
    refine if_pos ⟨first.le, ?_, ?_⟩ <;> rw [first, Nat.sub_self]
    · exact Nat.zero_mod _
    · rw [Nat.zero_div]
      exact Nat.pos_of_ne_zero repeats
  · refine ⟨none, ?_, fun first => absurd first ?_⟩
    · simp only [armUnits, updDip_dip, updDip_herd]
      exact if_neg fun due => absurd due.1 (by simp [snapSeq]; omega)
    · simp [snapSeq]; omega

theorem exec_snapshot_onTurn {s : State} {c : Cmd} (turn : onTurn s c 0x10) (free : s.dip.seq = none)
    (repeats : dField c.desc 14 2 ≠ 0) (interval : 8 ≤ dField c.desc 16 2) :
    exec (.snapshot c.ring) s = .next (ranCmd (armUnits (updDip s (fun d => { d with
      seq := some (snapSeq s c none) }))) c.ring c.index) := by
  have first : (if dField c.desc 8 6 < s.herd.epoch + 4 then s.herd.epoch + 4 else dField c.desc 8 6) =
      max (dField c.desc 8 6) (s.herd.epoch + 4) := by split <;> omega
  show execSnapshot c.ring s = _
  simp only [execSnapshot, startedOp_of_onTurn turn, free, first]
  rw [if_neg (by simp [repeats]; omega)]
  rfl

/-- Settles O43, command by command. -/
theorem otherCommandsAct : Obligations.OtherCommandsAct := by
  intro s c
  refine ⟨fun ls turn count aligned asked => ⟨fun none => ?_, fun some => crockDrain_lines turn count aligned asked some⟩,
    drainAnswers s c, fun l turn good link reached noEn noRetrain => linkControlled turn good link reached noEn noRetrain,
    fun block turn free reached aligned good valid => ?_, fun turn free repeats interval => ?_⟩
  · exact crockDrain_empty turn count aligned (asked.symm.trans none)
  · refine ⟨_, _, exec_ringMove_onTurn turn free reached aligned good valid,
      acted_of_started (mem_started_of_onTurn turn) rfl, rfl, fun r => ?_, rfl, rfl, rfl⟩
    have lt : r.val < 16 := by omega
    simp [Nat.mod_eq_of_lt lt]
  · obtain ⟨armed, eq, four⟩ := armUnits_started (s := s) repeats
    have run := exec_snapshot_onTurn turn free repeats interval
    rw [eq] at run
    exact ⟨_, _, run, acted_of_started (mem_started_of_onTurn turn) rfl, rfl, rfl, rfl, rfl, rfl, rfl, rfl, rfl, four,
      rfl, rfl⟩

end Sys2Proof.Proofs

/-! ## A group that leaves ACTIVE, at an NI (R184, R528): O26. -/

namespace Sys2Proof.Proofs
open Sys2Proof.Machine Sys2Proof.Safety

/-! ### An NI changes, and reports -/

/-- NI `n` becomes `f` of itself, and hands events to the Herdsman. -/
def niBecomes (s : State) (n : Slot) (f : NI → NI) (evs : List Event) : State :=
  updHerd (updN s n f) (fun h => { h with reports := h.reports ++ evs })

theorem tupd_tupd {α : Type} {n : Nat} (v : Vector α n) (i : Fin n) (f g : α → α) :
    tupd (tupd v i f) i g = tupd v i (fun x => g (f x)) := by
  simp [tupd]

theorem updN_updN (s : State) (n : Slot) (f g : NI → NI) : updN (updN s n f) n g = updN s n (fun x => g (f x)) := by
  rw [updN, updN, updN, tupd_tupd]

section NiBecomes
variable (s : State) (n : Slot) (f g : NI → NI) (evs : List Event)

theorem updN_eq_niBecomes : updN s n f = niBecomes s n f [] := by
  have same : (updN s n f).herd = { (updN s n f).herd with reports := (updN s n f).herd.reports ++ [] } := by
    rw [List.append_nil]
  exact congrArg (fun h => { updN s n f with herd := h }) same

theorem report_niBecomes (ev : Event) : report (niBecomes s n f evs) ev = niBecomes s n f (evs ++ [ev]) := by
  simp only [report, niBecomes, updHerd, List.append_assoc]

theorem updN_niBecomes : updN (niBecomes s n f evs) n g = niBecomes s n (fun x => g (f x)) evs := by
  simp only [niBecomes, updHerd, updN, tupd_tupd]

@[simp] theorem nif_niBecomes : nif (niBecomes s n f evs) n = f (nif s n) := nif_updN_same s n f

theorem niFrame_niBecomes : niFrame n s (niBecomes s n f evs) :=
  ⟨fun _ other => nif_updN_ne _ _ _ _ other.symm, rfl, rfl, ⟨rfl, rfl, rfl, rfl, rfl, rfl, rfl, rfl, rfl⟩, rfl, rfl, rfl⟩

end NiBecomes

/-! ### What answering a close leaves alone -/

/-- What an NI holds of its groups, and what waits at it. -/
def groupPart (x : NI) := (x.groups, x.stage, x.store, x.reqFifo, x.readWait)

theorem dropDiscarded_updN (s : State) (n : Slot) :
    ∃ f, dropDiscarded s n = updN s n f ∧ ∀ x, groupPart (f x) = groupPart x := by
  by_cases none : (discardedNow (nif s n)).isEmpty = true
  · have same : tupd s.nis n (fun x => x) = s.nis := by simp [tupd]
    refine ⟨fun x => x, ?_, fun _ => rfl⟩
    rw [dropDiscarded, if_pos none, updN, same]
  · rw [dropDiscarded, if_neg none, refreshOrder, updN_updN]
    exact ⟨_, rfl, fun _ => rfl⟩

/-- A close that waits is refused, with an event (R188, R528). -/
def refuseClose (s : State) (n : Slot) (g : GroupId) (ev : EventCode) (close : Option CloseWait) : State :=
  match close with
  | some c => repCurd (dropDiscarded (updN s n (fun x => closeAnswer x c.req .poison 0xFFFF)) n) n ev g n.val c.lep
  | none => s

theorem refuseClose_niBecomes (s : State) (n : Slot) (g : GroupId) (close : Option CloseWait) (ev : EventCode) :
    ∃ f evs, refuseClose s n g ev close = niBecomes s n f evs ∧ ∀ x, groupPart (f x) = groupPart x := by
  cases close with
  | none =>
    have same : updN s n (fun x => x) = s := by rw [updN, show tupd s.nis n (fun x => x) = s.nis by simp [tupd]]
    exact ⟨fun x => x, [], same.symm.trans (updN_eq_niBecomes ..), fun _ => rfl⟩
  | some c =>
    obtain ⟨f, eq, part⟩ := dropDiscarded_updN (updN s n (fun x => closeAnswer x c.req .poison 0xFFFF)) n
    rw [refuseClose, eq, updN_updN, updN_eq_niBecomes, repCurd, repNi, report_niBecomes]
    exact ⟨_, _, rfl, fun x => part _⟩

/-! ### The change of state -/

/-- The state that the Herdsman relays for group `g` to NI `n`. -/
def relayedState (s : State) (n : Slot) (g : GroupId) : GroupState :=
  if (tget s.herd.groups g).members.getLsbD n.val || (tget s.herd.groups g).targets.getLsbD n.val then
    (tget s.herd.groups g).state else .disabled

/-- What an NI keeps of a group that failed. -/
def failedGroup (q : NiGroup) : NiGroup := { q with state := .failed, close := none, pass := none, releasing := none }

/-- An NI without a group: its items and its stage entries are gone. -/
def forgetGroup (g : GroupId) (x : NI) : NI :=
  { x with groups := tupd x.groups g (fun _ => NiGroup.reset), stage := x.stage.filter (fun e => e.group != g) }

theorem serveWaiting_none {s : State} {n : Slot} (none : (nif s n).readWait = []) : serveWaiting s n = s := by
  rw [serveWaiting, none]; rfl

/-- The ages of staged atomics of the group run again (R184). -/
def unholdAges (g : GroupId) (e : Nat) (x : NI) : NI :=
  { x with tags := x.tags.map (fun t =>
      if ageHeld x t && t.canon.any (fun c => c.1 == g) then { t with epoch := e } else t) }

/-- What an NI becomes whose group is relayed in state `st`. -/
def leaveActive (g : GroupId) (st : GroupState) (x : NI) : NI :=
  if st == .failed then { x with groups := tupd x.groups g failedGroup } else forgetGroup g x

/-- The branch of an NI whose group is ACTIVE there and relayed otherwise. -/
theorem takeGroupState_left {s : State} {n : Slot} {g : GroupId}
    (leaves : ((grpOf (nif s n) g).state == .active && relayedState s n g != .active) = true) :
    takeGroupState s n g = processStore (serveWaiting
      (if relayedState s n g == .failed then
        updG (updN (refuseClose s n g (if relayedState s n g == .failed then .curdFailed else .curdCloseOrder)
          (grpOf (nif s n) g).close) n (unholdAges g (epochN s n))) n g failedGroup
      else updN (updN (refuseClose s n g (if relayedState s n g == .failed then .curdFailed else .curdCloseOrder)
          (grpOf (nif s n) g).close) n (unholdAges g (epochN s n))) n (forgetGroup g)) n) n :=
  if_pos leaves

/-- An NI that leaves ACTIVE takes the change up before it works on what waits. -/
theorem takeGroupState_active {s : State} {n : Slot} {g : GroupId} (active : (grpOf (nif s n) g).state = .active)
    (left : relayedState s n g ≠ .active) : ∃ (f : NI → NI) (evs : List Event), (∀ x, groupPart (f x) = groupPart x) ∧
      takeGroupState s n g = processStore (serveWaiting (niBecomes s n (fun x =>
        leaveActive g (relayedState s n g) (f x)) evs) n) n := by
  obtain ⟨f, evs, closed, part⟩ := refuseClose_niBecomes s n g (grpOf (nif s n) g).close
    (if relayedState s n g == .failed then .curdFailed else .curdCloseOrder)
  refine ⟨fun x => unholdAges g (epochN s n) (f x), evs, part, ?_⟩
  rw [takeGroupState_left (by simp [active, left]), closed, updN_niBecomes]
  by_cases failed : (relayedState s n g == .failed) = true
  · rw [if_pos failed, updG, updN_niBecomes]
    simp only [leaveActive, failed, if_true]
  · rw [if_neg failed, updN_niBecomes]
    simp only [leaveActive, failed]; rfl


/-! ### At an NI with nothing waiting -/

theorem waits_leaveActive (g : GroupId) (st : GroupState) (x : NI) : (leaveActive g st x).store = x.store ∧
    (leaveActive g st x).reqFifo = x.reqFifo ∧ (leaveActive g st x).readWait = x.readWait := by
  unfold leaveActive; split <;> exact ⟨rfl, rfl, rfl⟩

theorem grpOf_leaveActive_failed (g : GroupId) (x : NI) :
    grpOf (leaveActive g .failed x) g = failedGroup (grpOf x g) := tget_tupd ..

theorem leaveActive_disabled {g : GroupId} {st : GroupState} (st' : st ≠ .failed) (x : NI) :
    leaveActive g st x = forgetGroup g x := if_neg (by simpa using st')

theorem grpOf_forgetGroup (g : GroupId) (x : NI) : grpOf (forgetGroup g x) g = NiGroup.reset := tget_tupd ..

/-- NI `n` has nothing to work on, and no read waits there. -/
def quietNi (s : State) (n : Slot) : Prop := storeIdle s n ∧ (nif s n).readWait = []

theorem quietNi_niBecomes {s : State} {n : Slot} {f : NI → NI} {evs : List Event}
    (kept : (f (nif s n)).store = (nif s n).store ∧ (f (nif s n)).reqFifo = (nif s n).reqFifo ∧
      (f (nif s n)).readWait = (nif s n).readWait) {m : Slot} (quiet : quietNi s m) :
    quietNi (niBecomes s n f evs) m := by
  obtain ⟨idle, none⟩ := quiet
  obtain ⟨store, fifo, wait⟩ := kept
  by_cases same : n = m
  · subst same
    exact ⟨storeIdle_congr (s := s) (by rw [nif_niBecomes, fifo]) (by rw [nif_niBecomes, store]) rfl rfl idle,
      by rw [nif_niBecomes, wait, none]⟩
  · have kept : nif (niBecomes s n f evs) m = nif s m := nif_updN_ne _ _ _ _ same
    exact ⟨storeIdle_congr (s := s) (by rw [kept]) (by rw [kept]) rfl rfl idle, by rw [kept, none]⟩

/-- With nothing waiting, the change of state is all that happens. -/
theorem takeGroupState_quiet {s : State} {n : Slot} {g : GroupId} (active : (grpOf (nif s n) g).state = .active)
    (left : relayedState s n g ≠ .active) (quiet : quietNi s n) :
    ∃ (f : NI → NI) (evs : List Event), (∀ x, groupPart (f x) = groupPart x) ∧
      takeGroupState s n g = niBecomes s n (fun x => leaveActive g (relayedState s n g) (f x)) evs ∧
      ∀ m, quietNi s m → quietNi (takeGroupState s n g) m := by
  obtain ⟨f, evs, part, eq⟩ := takeGroupState_active active left
  have kept : (leaveActive g (relayedState s n g) (f (nif s n))).store = (nif s n).store ∧
      (leaveActive g (relayedState s n g) (f (nif s n))).reqFifo = (nif s n).reqFifo ∧
      (leaveActive g (relayedState s n g) (f (nif s n))).readWait = (nif s n).readWait := by
    obtain ⟨store, fifo, wait⟩ := waits_leaveActive g (relayedState s n g) (f (nif s n))
    have same := part (nif s n)
    simp only [groupPart, Prod.mk.injEq] at same
    exact ⟨store.trans same.2.2.1, fifo.trans same.2.2.2.1, wait.trans same.2.2.2.2⟩
  have still : quietNi (niBecomes s n (fun x => leaveActive g (relayedState s n g) (f x)) evs) n :=
    quietNi_niBecomes kept quiet
  rw [serveWaiting_none still.2, processStore_idle still.1] at eq
  exact ⟨f, evs, part, eq, fun m mq => by rw [eq]; exact quietNi_niBecomes kept mq⟩

theorem exec_groupStateChange {s : State} {n : Slot} {g : GroupId} (runs : niRuns s n = true)
    (reached : niReached s n = true) : exec (.groupStateChange n g) s = .next (takeGroupState s n g) := by
  show execGroupStateChange n g s = _
  simp [execGroupStateChange, runs, reached]

/-- Settles O26 from `takeGroupState_quiet`. -/
theorem groupLeavesActive : Obligations.GroupLeavesActive := by
  intro s n g runs reached idle none active
  have run := exec_groupStateChange (g := g) runs reached
  refine ⟨fun gone => ?_, fun failed named => ?_⟩
  · have st : relayedState s n g = .disabled := by
      unfold relayedState
      obtain dis | out := gone
      · rw [dis, ite_self]
      · exact if_neg (by simpa using out)
    obtain ⟨f, evs, part, eq, -⟩ := takeGroupState_quiet active (by rw [st]; decide) ⟨idle, none⟩
    simp only [st, leaveActive_disabled (st := .disabled) (by decide)] at eq
    have same := part (nif s n)
    simp only [groupPart, Prod.mk.injEq] at same
    rw [eq] at run
    refine ⟨_, run, ?_, ?_, fun h other => ?_, niFrame_niBecomes ..⟩ <;> rw [nif_niBecomes]
    · exact grpOf_forgetGroup ..
    · intro e mem
      simpa using (List.mem_filter.mp mem).2
    · exact (tget_tupd_ne _ _ _ _ other.symm).trans (congrArg (tget · h) same.1)
  · have st : relayedState s n g = .failed := by
      rw [relayedState, failed, if_pos (by simpa using named)]
    obtain ⟨f, evs, part, eq, -⟩ := takeGroupState_quiet active (by rw [st]; decide) ⟨idle, none⟩
    have same := part (nif s n)
    simp only [groupPart, Prod.mk.injEq] at same
    rw [eq, st] at run
    refine ⟨_, run, ?_, ?_, ?_, ?_, niFrame_niBecomes ..⟩ <;> rw [nif_niBecomes]
    · rw [grpOf_leaveActive_failed]; rfl
    · rw [grpOf_leaveActive_failed]; rfl
    · rw [grpOf_leaveActive_failed]; rfl
    · exact same.2.1

end Sys2Proof.Proofs

/-! ## Curd groups enabled, changed and disabled (R180): O47. -/

namespace Sys2Proof.Proofs
open Sys2Proof.Machine Sys2Proof.Safety

/-! ### The command and its group -/

section Named
variable {s : State} {c : Cmd} {g : GroupId} (named : dByte c.desc 8 = g.val) (turn : onTurn s c 0x20)

include turn in
theorem setupCmd_of_onTurn {action : Nat} (act : dByte c.desc 9 = action) : setupCmd s c.ring action = some c := by
  obtain ⟨runs, die, code, front⟩ := turn
  simp [setupCmd, startedCmd, runs, die, front, code, act]

include named in
theorem group_named : (Fin.ofNat 32 (dByte c.desc 8) : GroupId) = g ∧ ¬32 ≤ dByte c.desc 8 := by
  rw [named]
  exact ⟨Fin.ofNat_val_eq_self g, by omega⟩

/-! ### Enabling -/

include turn in
/-- An enable of a group, or a change of it, is judged by its block. -/
theorem exec_enable_change (block : Block) :
    (dByte c.desc 9 = 0 → exec (.enable c.ring block) s = .next (curdEnable s c block)) ∧
    (dByte c.desc 9 = 1 → exec (.change c.ring block) s = .next (curdEnable s c block)) := by
  refine ⟨fun act => ?_, fun act => ?_⟩
  · show execEnable c.ring block s = _
    rw [execEnable, setupCmd_of_onTurn turn act]
  · show execChange c.ring block s = _
    rw [execChange, setupCmd_of_onTurn turn act]

include named in
theorem curdEnable_held (block : Block) (held : (tget s.herd.groups g).state ≠ .disabled) :
    curdEnable s c block = endCmd s c.ring c.index .notReady 0 := by
  obtain ⟨same, lt⟩ := group_named named
  have held' : (tget s.herd.groups g).state != .disabled := by simpa using held
  rw [curdEnable, if_neg lt]
  simp only [same]
  rw [if_pos held']

/-- The words of the regions that a block names. -/
def regionWords (block : Block) (it : CurdItems) : List Word := (List.range it.nreg).map (regionWord block)

theorem freeRegions_le (s : State) : freeRegions s ≤ 64 := by
  have := List.length_filter_le (fun w : Word => !w.getLsbD 63) s.herd.regions.toList
  simpa [freeRegions] using this

include named in
theorem curdEnable_valid {block : Block} {it : CurdItems} (items : it = curdItems (blockLine block 0))
    (disabled : (tget s.herd.groups g).state = .disabled) (aligned : addrBad (dField c.desc 16 8) = false)
    (good : blockGood block (1 + (it.nreg + 7) / 8) = true) (sound : curdBlockBad it block g.val = none)
    (apart : curdOverlaps s it ((regionWords block it).filterMap regionOf) = false) (room : it.nreg ≤ freeRegions s)
    (reached : (maskSlots (it.members ||| it.targets)).all (niReached s) = true) :
    curdEnable s c block = endCmd (enableGroup s g it (regionWords block it)) c.ring c.index .ok 0 := by
  obtain ⟨same, lt⟩ := group_named named
  have few : min 64 it.nreg = it.nreg := min_eq_right (room.trans (freeRegions_le s))
  rw [curdEnable, if_neg lt]
  have apart' : curdOverlaps s it (((List.range it.nreg).map (regionWord block)).filterMap regionOf) = false := apart
  have sound' : curdBlockBad it block (dByte c.desc 8) = none := by rw [named, sound]
  have loads : ¬(decide (freeRegions s < it.nreg) || !true) = true := by simpa using room
  simp only [same, ← items, few, disabled, aligned, good, apart', sound', reached, if_neg loads]
  rfl

theorem groupEnabled_enableGroup {it : CurdItems} {ws : List Word} (mem : c ∈ s.herd.started) :
    groupEnabled s (endCmd (enableGroup s g it ws) c.ring c.index .ok 0) c g it := by
  have herd := onlyStarted_endCmd (enableGroup s g it ws) c.ring c.index .ok 0 0
  have group : tget (endCmd (enableGroup s g it ws) c.ring c.index .ok 0).herd.groups g =
      { CoGroup.reset with
        state := .active, members := it.members, targets := it.targets, start := it.start, vatSlot := it.vatSlot
        vatBase := it.vatBase, vatSlice := it.vatSlice, notify := it.notify, c := it.start, ks := tabAll 192 it.start } :=
    (congrArg (fun h : Herd => tget h.groups g) herd).trans (tget_tupd ..)
  have others (d : GroupId) (other : d ≠ g) : tget (endCmd (enableGroup s g it ws) c.ring c.index .ok 0).herd.groups d =
      tget s.herd.groups d :=
    (congrArg (fun h : Herd => tget h.groups d) herd).trans (tget_tupd_ne _ _ _ _ other.symm)
  have ni (n : Slot) : nif (endCmd (enableGroup s g it ws) c.ring c.index .ok 0) n =
      if it.members.getLsbD n.val || it.targets.getLsbD n.val then
        { nif s n with
          groups := tupd (nif s n).groups g (fun _ => niGroupOf it n)
          stage := (nif s n).stage.filter (fun e => e.group != g) }
      else nif s n := tget_tmap ..
  refine ⟨ended_endCmd _ _ _ mem, ?_, ?_, ?_, ?_, ?_, others, fun n named => ?_, fun n member target => ?_, rfl⟩
  · rw [group]
  · rw [group]
  · rw [group]
  · rw [group]
  · rw [group]
  · have loaded : grpOf (nif (endCmd (enableGroup s g it ws) c.ring c.index .ok 0) n) g = niGroupOf it n := by
      rw [ni, if_pos (by simpa using named)]
      exact tget_tupd ..
    rw [loaded]
    exact ⟨rfl, rfl, rfl, rfl⟩
  · rw [ni]
    exact if_neg (by rw [member, target]; decide)

/-! ### Disabling -/

include named turn in
theorem exec_disable (act : dByte c.desc 9 = 2) :
    exec (.disable c.ring) s = .next (match (tget s.herd.groups g).state with
      | .disabled => endCmd s c.ring c.index .ok 0
      | .active =>
        if groupIdle s g then endCmd (disableGroup s g) c.ring c.index .ok 0
        else endCmd s c.ring c.index .notReady 0
      | .failed => endCmd (disableGroup s g) c.ring c.index .ok 0 (BitVec.ofNat 320 (groupLeft s g % 2 ^ 32))) := by
  obtain ⟨same, lt⟩ := group_named named
  show execDisable c.ring s = _
  rw [execDisable, setupCmd_of_onTurn turn act]
  simp only [if_neg lt, same] <;> rfl

end Named

/-- `u` is `s` after some NIs have taken up that group `g` is relayed DISABLED; those of `done` are among them. -/
def tookDisabled (s : State) (g : GroupId) (done : List Slot) (u : State) : Prop :=
  (∃ nis evs, u = { s with nis := nis, herd := { s.herd with reports := s.herd.reports ++ evs } }) ∧
  (∀ n, quietNi u n) ∧
  ∀ n ∈ done, niRuns s n = true → niReached s n = true → (grpOf (nif u n) g).state ≠ .active

theorem relayedState_disabled {s : State} {g : GroupId} (reset : tget s.herd.groups g = CoGroup.reset) (n : Slot) :
    relayedState s n g = .disabled := by
  simp [relayedState, reset, CoGroup.reset]

/-- One NI takes up that a group is disabled, whatever it held of it. -/
theorem takeGroupState_disabled {s : State} {g : GroupId} (reset : tget s.herd.groups g = CoGroup.reset) {n : Slot}
    (quiet : quietNi s n) : ∃ (f : NI → NI) (evs : List Event), takeGroupState s n g = niBecomes s n f evs ∧
      (grpOf (f (nif s n)) g).state ≠ .active ∧ ∀ m, quietNi s m → quietNi (takeGroupState s n g) m := by
  have st := relayedState_disabled reset n
  cases was : (grpOf (nif s n) g).state with
  | active =>
    obtain ⟨f, evs, -, eq, quiet⟩ := takeGroupState_quiet was (by rw [st]; decide) quiet
    refine ⟨_, evs, eq, ?_, quiet⟩
    rw [st, leaveActive_disabled (by decide), grpOf_forgetGroup]; decide
  | failed =>
    have eq : takeGroupState s n g = updN s n (forgetGroup g) :=
      (if_neg (by simp [was])).trans (if_pos (by rw [was]; simpa [relayedState] using st))
    rw [updN_eq_niBecomes] at eq
    refine ⟨_, [], eq, by rw [grpOf_forgetGroup]; decide, fun m mq => ?_⟩
    rw [eq]
    exact quietNi_niBecomes ⟨rfl, rfl, rfl⟩ mq
  | disabled =>
    have eq : takeGroupState s n g = s := (if_neg (by simp [was])).trans (if_neg (by simp [was]))
    have same : updN s n (fun x => x) = s := by rw [updN, show tupd s.nis n (fun x => x) = s.nis by simp [tupd]]
    refine ⟨fun x => x, [], eq.trans (same.symm.trans (updN_eq_niBecomes ..)), by rw [was]; decide, fun m mq => ?_⟩
    rw [eq]; exact mq

theorem tookDisabled_step {s u : State} {g : GroupId} (reset : tget s.herd.groups g = CoGroup.reset) {done : List Slot}
    (took : tookDisabled s g done u) (n : Slot) : tookDisabled s g (done ++ [n])
      (if niRuns u n && niReached u n then takeGroupState u n g else u) := by
  obtain ⟨⟨nis, evs, frame⟩, quiet, left⟩ := took
  have resetU : tget u.herd.groups g = CoGroup.reset := by rw [frame]; exact reset
  have clocked : niRuns u n = niRuns s n := by rw [frame]; rfl
  have near : niReached u n = niReached s n := by rw [frame]; rfl
  split
  case isFalse off =>
    refine ⟨⟨nis, evs, frame⟩, quiet, fun m mem runs reached => ?_⟩
    obtain mem | mem := List.mem_append.mp mem
    · exact left m mem runs reached
    · rw [List.mem_singleton.mp mem] at runs reached
      exact absurd (Bool.and_eq_true_iff.mpr ⟨clocked.trans runs, near.trans reached⟩) off
  case isTrue =>
    obtain ⟨f, evs', eq, state, quiet'⟩ := takeGroupState_disabled resetU (quiet n)
    rw [eq] at quiet' ⊢
    refine ⟨⟨tupd nis n f, evs ++ evs', by rw [frame, ← List.append_assoc]; rfl⟩, fun m => quiet' m (quiet m),
      fun m mem runs reached => ?_⟩
    by_cases same : n = m
    · subst same
      rw [nif_niBecomes]; exact state
    · obtain mem | mem := List.mem_append.mp mem
      · have kept : nif (niBecomes u n f evs') m = nif u m := nif_updN_ne _ _ _ _ same
        rw [kept]
        exact left m mem runs reached
      · exact absurd (List.mem_singleton.mp mem).symm same

theorem tookDisabled_foldl {s : State} {g : GroupId} (reset : tget s.herd.groups g = CoGroup.reset) (l done : List Slot)
    (u : State) (took : tookDisabled s g done u) : tookDisabled s g (done ++ l)
      (l.foldl (fun u n => if niRuns u n && niReached u n then takeGroupState u n g else u) u) := by
  induction l generalizing done u with
  | nil => simpa using took
  | cons n l ih =>
    rw [List.foldl_cons, List.append_cons]
    exact ih _ _ (tookDisabled_step reset took n)

/-- The Herdsman has cleared the items and regions of a group (R180). -/
def itemsCleared (s : State) (g : GroupId) : State :=
  updHerd (updCo s g (fun _ => CoGroup.reset)) (fun h => { h with regions := tmap h.regions (fun _ w =>
    if w.getLsbD 63 && field w 58 5 == g.val then regionReset else w) })

theorem disableGroup_took {s : State} (g : GroupId) (quiet : ∀ n, quietNi s n) :
    tookDisabled (itemsCleared s g) g (List.finRange 192) (disableGroup s g) := by
  have reset : tget (itemsCleared s g).herd.groups g = CoGroup.reset := tget_tupd ..
  have start : tookDisabled (itemsCleared s g) g [] (itemsCleared s g) :=
    ⟨⟨s.nis, [], by rw [List.append_nil]; rfl⟩, quiet, by simp⟩
  have took := tookDisabled_foldl reset (List.finRange 192) [] _ start
  rw [List.nil_append] at took
  exact took

theorem disabled_ends {s : State} {c : Cmd} {g : GroupId} (mem : c ∈ s.herd.started)
    (quiet : ∀ n, quietNi s n) (res : BitVec 320) :
    ended (endCmd (disableGroup s g) c.ring c.index .ok 0 res) c.ring c.index .ok 0 res ∧
    tget (endCmd (disableGroup s g) c.ring c.index .ok 0 res).herd.groups g = CoGroup.reset ∧
    (∀ d, d ≠ g → tget (endCmd (disableGroup s g) c.ring c.index .ok 0 res).herd.groups d = tget s.herd.groups d) ∧
    (∀ j : Fin 64, (tget s.herd.regions j).getLsbD 63 = true → field (tget s.herd.regions j) 58 5 = g.val →
      tget (endCmd (disableGroup s g) c.ring c.index .ok 0 res).herd.regions j = regionReset) ∧
    (∀ n : Slot, niRuns s n = true → niReached s n = true →
      (grpOf (nif (endCmd (disableGroup s g) c.ring c.index .ok 0 res) n) g).state ≠ .active) ∧
    endCmd (disableGroup s g) c.ring c.index .ok 0 res = { s with
      nis := (endCmd (disableGroup s g) c.ring c.index .ok 0 res).nis
      herd := (endCmd (disableGroup s g) c.ring c.index .ok 0 res).herd } := by
  obtain ⟨⟨nis, evs, eq⟩, -, left⟩ := disableGroup_took g quiet
  rw [eq] at left ⊢
  have herd := onlyStarted_endCmd { itemsCleared s g with
    nis := nis, herd := { (itemsCleared s g).herd with reports := (itemsCleared s g).herd.reports ++ evs } }
    c.ring c.index .ok 0 res
  refine ⟨ended_endCmd _ _ _ mem, ?_, fun d other => ?_, fun j valid owner => ?_,
    fun n runs reached => left n (List.mem_finRange n) runs reached, rfl⟩
  · exact (congrArg (fun h : Herd => tget h.groups g) herd).trans (tget_tupd ..)
  · exact (congrArg (fun h : Herd => tget h.groups d) herd).trans (tget_tupd_ne _ _ _ _ other.symm)
  · exact (congrArg (fun h : Herd => tget h.regions j) herd).trans
      ((tget_tmap ..).trans (if_pos (Bool.and_eq_true_iff.mpr ⟨valid, beq_iff_eq.mpr owner⟩)))

/-- Settles O47. -/
theorem groupsSetUp : Obligations.GroupsSetUp := by
  intro s c g named turn
  have mem := mem_started_of_onTurn turn
  have endsHeld (t : State) (h : t = endCmd s c.ring c.index .notReady 0) :
      ended t c.ring c.index .notReady 0 0 ∧ onlyStarted s t ∧ t = { s with herd := t.herd } := by
    subst h; exact ⟨ended_endCmd _ _ _ mem, onlyStarted_endCmd .., endCmd_frame ..⟩
  refine ⟨fun block it items disabled aligned good sound apart room reached => ?_, fun block held => ?_, fun act => ?_⟩
  · obtain ⟨enable, change⟩ := exec_enable_change turn block
    rw [curdEnable_valid named items disabled aligned good sound apart room reached] at enable change
    exact ⟨fun act => ⟨_, enable act, groupEnabled_enableGroup mem⟩, fun act => ⟨_, change act, groupEnabled_enableGroup mem⟩⟩
  · obtain ⟨enable, change⟩ := exec_enable_change turn block
    rw [curdEnable_held named block held] at enable change
    exact ⟨fun act => ⟨_, enable act, endsHeld _ rfl⟩, fun act => ⟨_, change act, endsHeld _ rfl⟩⟩
  · have run := exec_disable named turn act
    refine ⟨fun disabled => ?_, fun active busy => ?_, fun active idle => ?_, fun failed => ?_, fun done quiet => ?_⟩
    · rw [disabled] at run
      exact ⟨_, run, ended_endCmd _ _ _ mem, onlyStarted_endCmd .., endCmd_frame ..⟩
    · simp only [active, busy] at run
      exact ⟨_, run, endsHeld _ rfl⟩
    · simpa only [active, idle, if_true] using run
    · simpa only [failed] using run
    · obtain ⟨active, idle⟩ | failed := done
      · simp only [active, idle, if_true] at run
        exact ⟨_, _, run, disabled_ends mem quiet _⟩
      · simp only [failed] at run
        generalize BitVec.ofNat 320 (groupLeft s g % 2 ^ 32) = res at run
        exact ⟨_, _, run, disabled_ends mem quiet _⟩

end Sys2Proof.Proofs

/-! ## The register page of the Can and its one-time store (R344, R363, R365, R366, R369, R370, R498): O51. -/

namespace Sys2Proof.Proofs
open Sys2Proof.Machine Sys2Proof.Safety

/-! ### The report log and events -/

section CanLog
variable {s : State} {code arg detail : Nat}

/-- A record of the log changes nothing but the log and the count of records dropped. -/
theorem canLog_frame : ∃ log dropped, canLog s code arg detail =
    { s with can := { s.can with log := log, logDropped := dropped } } := by
  by_cases full : 60 ≤ s.can.log.length
  · exact ⟨_, _, congrArg (fun c => { s with can := c }) (if_pos full)⟩
  · exact ⟨_, _, congrArg (fun c => { s with can := c }) (if_neg full)⟩

/-- A record of the log. -/
def logRecord (s : State) (code arg detail : Nat) : BitVec 128 :=
  BitVec.ofNat 128 (code + arg % 65536 * 2 ^ 16 + detail % 2 ^ 32 * 2 ^ 32 + s.aon.aclk.toNat % 2 ^ 64 * 2 ^ 64)

theorem canLog_room (room : s.can.log.length < 60) : canLog s code arg detail =
    updCan s (fun c => { c with log := c.log ++ [logRecord s code arg detail] }) :=
  congrArg (fun c => { s with can := c }) (if_neg (by omega))

theorem logRecord_code (small : code < 2 ^ 16) : field (logRecord s code arg detail) 0 16 = code := by
  have split (a d c : Nat) : code + a * 2 ^ 16 + d * 2 ^ 32 + c * 2 ^ 64 = code + 2 ^ 16 * (a + d * 2 ^ 16 + c * 2 ^ 48) := by
    ring
  rw [logRecord, split, field, BitVec.extractLsb'_toNat, BitVec.toNat_ofNat, Nat.shiftRight_zero,
    Nat.mod_mod_of_dvd _ (Nat.pow_dvd_pow 2 (by decide)), Nat.add_mul_mod_self_left, Nat.mod_eq_of_lt small]

end CanLog

theorem foldl_report (evs : List Event) (s : State) :
    evs.foldl report s = { s with herd := { s.herd with reports := s.herd.reports ++ evs } } := by
  induction evs generalizing s with
  | nil => simp
  | cons ev evs ih => rw [List.foldl_cons, ih]; simp [report, updHerd]

/-- While HCLK runs an event of the Can reaches the Herdsman, with those held before it. -/
theorem canEvent_runs {s : State} (runs : herdRuns s = true) (code : EventCode) (detail record : Nat) :
    ∃ before ev, canEvent s code detail record = { s with
        can := { s.can with events := [], eventsLost := 0 }
        herd := { s.herd with reports := s.herd.reports ++ before ++ [ev] } } ∧
      ev.code = code ∧ ev.kind = .die ∧ ev.num = 0 := by
  have some : (decide (s.can.events.length < 16) || herdRuns s) = true := by rw [runs, Bool.or_true]
  rw [canEvent, if_pos some]
  generalize new : mkEvent code .die 0 0 s.herd.epoch (BitVec.ofNat 32 detail) (BitVec.ofNat 128 record) = ev
  have parts : ev.code = code ∧ ev.kind = .die ∧ ev.num = 0 := by subst new; exact ⟨rfl, rfl, rfl⟩
  have runs' : herdRuns (updCan s (fun c => { c with events := c.events ++ [ev] })) = true := runs
  cases held : s.can.events with
  | nil =>
    refine ⟨[], { ev with dropped := s.can.eventsLost }, ?_, parts⟩
    simp only [flushCan, runs', if_true, updCan_can, held, List.nil_append, foldl_report]
    rw [List.append_nil]
    rfl
  | cons first rest =>
    refine ⟨{ first with dropped := s.can.eventsLost } :: rest, ev, ?_, parts⟩
    simp only [flushCan, runs', if_true, updCan_can, held, List.cons_append, foldl_report]
    rw [List.append_assoc]
    rfl

/-- A write of a sealed field is logged and reported, and nothing of the Can but its log and its events changes. -/
theorem sealedWrite_runs {s : State} (runs : herdRuns s = true) (off : Nat) (v : Word) :
    ∃ log dropped before ev, sealedWrite s off v = { s with
        can := { s.can with log := log, logDropped := dropped, events := [], eventsLost := 0 }
        herd := { s.herd with reports := s.herd.reports ++ before ++ [ev] } } ∧
      ev.code = .meterSealedWrite ∧ ev.kind = .die ∧ ev.num = 0 := by
  obtain ⟨log, dropped, eq⟩ := canLog_frame (s := s) (code := 0x000B) (arg := off) (detail := field v 0 32)
  have runs' : herdRuns { s with can := { s.can with log := log, logDropped := dropped } } = true := runs
  obtain ⟨before, ev, eq', parts⟩ := canEvent_runs runs' .meterSealedWrite (off % 65536) 0
  exact ⟨log, dropped, before, ev, by rw [sealedWrite, eq, eq'], parts⟩

/-- An attempt on a sealed field is reported, and leaves alone what `keep` tells of the Can. -/
theorem sealedWrite_reported {s : State} (runs : herdRuns s = true) (off : Nat) (v : Word) :
    (sealedWrite s off v).can = { s.can with
      log := (sealedWrite s off v).can.log, logDropped := (sealedWrite s off v).can.logDropped
      events := (sealedWrite s off v).can.events, eventsLost := (sealedWrite s off v).can.eventsLost } ∧
    reported s (sealedWrite s off v) .meterSealedWrite .die 0 ∧ onlyReports s (sealedWrite s off v) ∧
    sealedWrite s off v = { s with can := (sealedWrite s off v).can, herd := (sealedWrite s off v).herd } := by
  obtain ⟨log, dropped, before, ev, eq, code, kind, num⟩ := sealedWrite_runs runs off v
  rw [eq]
  exact ⟨rfl, ⟨before, [], ev, by rw [List.append_nil], code, kind, num⟩, rfl, rfl⟩

/-- A close is asked for where none is, or for a reason other than the host's. -/
theorem askClose_asks {s : State} {reason : Nat} (open' : s.can.asked = none ∨ reason ≠ 3) :
    ∃ e, askClose s reason = updCan s (fun c => { c with asked := some (reason, e) }) := by
  simp only [askClose, updCan]
  split
  case h_1 asked => exact open'.elim (fun none => by simp [none] at asked) (fun other => absurd rfl other)
  case h_2 => exact ⟨_, rfl⟩

/-! ### Sealing -/

section Seal
variable {s : State} {v : Word} (runs : herdRuns s = true) (can : canRuns s = true) (go : v.getLsbD 0 = true)
include runs can

theorem exec_mtrSeal : exec (.mtrSeal v) s = .next (writeSeal s v) := by
  show execMtrSeal v s = _
  rw [execMtrSeal, mtrReachable, runs, can, Bool.and_true, if_pos rfl]

theorem exec_mtrUnseal (pin : Bool) : exec (.mtrUnseal v pin) s =
    .next (writeUnseal (updCan s (fun c => { c with sealOpen := pin })) v) := by
  show execMtrUnseal v pin s = _
  have reach : mtrReachable (updCan s (fun c => { c with sealOpen := pin })) = true := by
    show (herdRuns s && canRuns s) = true
    rw [runs, can]; rfl
  simp only [execMtrUnseal, reach, if_true]

include go

theorem sealed (key : s.can.keyOk = true) (unsealed : s.can.sealed = false) :
    ∃ t e, exec (.mtrSeal v) s = .next t ∧ t.can.sealed = true ∧ t.can.sealRefused = false ∧
      t.can.asked = some (1, e) ∧ t = { s with can := t.can } := by
  have run := exec_mtrSeal (v := v) runs can
  obtain ⟨log, dropped, eq⟩ := canLog_frame (s := updCan s (fun c => { c with sealed := true, sealRefused := false }))
    (code := 0x000C) (arg := 0xFFFF) (detail := s.can.sealEvents.toNat)
  have wrote : writeSeal s v = askClose (canLog (updCan s (fun c => { c with sealed := true, sealRefused := false }))
      0x000C 0xFFFF s.can.sealEvents.toNat) 1 := by
    simp [writeSeal, go, key, unsealed]
  obtain ⟨e, asks⟩ := askClose_asks (s := { updCan s (fun c => { c with sealed := true, sealRefused := false }) with
    can := { (updCan s (fun c => { c with sealed := true, sealRefused := false })).can with
      log := log, logDropped := dropped } }) (reason := 1) (.inr (by decide))
  rw [wrote, eq, asks] at run
  exact ⟨_, e, run, rfl, rfl, rfl, rfl⟩

theorem seal_refused (key : s.can.keyOk = false) :
    exec (.mtrSeal v) s = .next (updCan s (fun c => { c with sealRefused := true })) := by
  rw [exec_mtrSeal runs can]
  simp [writeSeal, go, key]

theorem unseal_asked (free : s.can.ots = none) : exec (.mtrUnseal v true) s =
    .next (updCan s (fun c => { c with sealOpen := true, ots := some 16, unsealPending := true })) := by
  rw [exec_mtrUnseal runs can]
  simp [writeUnseal, go, free, updCan]

theorem unseal_refused : ∃ t, exec (.mtrUnseal v false) s = .next t ∧ t.can.sealed = s.can.sealed ∧
    t.can.ots = s.can.ots ∧ reported s t .meterSealedWrite .die 0 ∧ onlyReports s t ∧
    t = { s with can := t.can, herd := t.herd } := by
  have run := exec_mtrUnseal (v := v) runs can false
  have wrote : writeUnseal (updCan s (fun c => { c with sealOpen := false })) v =
      sealedWrite (updCan s (fun c => { c with sealOpen := false })) 0x010 v := by simp [writeUnseal, go]
  obtain ⟨log, dropped, before, ev, eq, code, kind, num⟩ :=
    sealedWrite_runs (s := updCan s (fun c => { c with sealOpen := false })) runs 0x010 v
  rw [wrote, eq] at run
  exact ⟨_, run, rfl, rfl, ⟨before, [], ev, by rw [List.append_nil]; rfl, code, kind, num⟩, rfl, rfl⟩

end Seal

section Unsealing
variable {s : State} (can : canRuns s = true) (pending : s.can.ots = some 16)
include can pending

theorem exec_unsealConfirm (ans : OtsAnswer) : exec (.unsealConfirm ans) s = .next (unsealAnswer s ans) := by
  show execUnsealConfirm ans s = _
  simp [execUnsealConfirm, can, pending]

theorem unsealed (w : Word) : ∃ t, exec (.unsealConfirm (.data w)) s = .next t ∧ t.can.sealed = false ∧
    t.can.unsealPending = false ∧ t.can.sealEvents = w.setWidth 32 ∧ t = { s with can := t.can } := by
  have run := exec_unsealConfirm can pending (.data w)
  rw [unsealAnswer] at run
  obtain ⟨log, dropped, eq⟩ := canLog_frame (s := updCan s (fun c => { c with
      sealed := false, unsealPending := false, otsFail := false, ots := some 5, sealEvents := w.setWidth 32,
      asked := some (2, (List.finRange 32).foldl (fun m l => max m ((tget c.lanes l).epoch + 1)) 0) }))
    (code := 0x000D) (arg := 0xFFFF) (detail := field w 0 32)
  simp only [eq] at run
  exact ⟨_, run, rfl, rfl, rfl, rfl⟩

theorem unseal_failed : ∃ t, exec (.unsealConfirm .err) s = .next t ∧ t.can.sealed = s.can.sealed ∧
    t.can.unsealPending = false ∧ t.can.otsFail = true ∧ t.can.sealEvents = s.can.sealEvents ∧
    t = { s with can := t.can } := by
  have run := exec_unsealConfirm can pending .err
  obtain ⟨log, dropped, eq⟩ := canLog_frame (s := updCan s (fun c => { c with
    unsealPending := false, otsFail := true, ots := none })) (code := 0x0010) (arg := 0xFFFF) (detail := 0)
  simp only [unsealAnswer, eq] at run
  exact ⟨_, run, rfl, rfl, rfl, rfl, rfl⟩

end Unsealing

/-! ### The other registers -/

section Page
variable {s : State} (runs : herdRuns s = true) (can : canRuns s = true)
include runs can

theorem sealedField_written {off : Nat} (v : Word) (field : off = 0x028 ∨ off = 0x030 ∨ off = 0x038)
    (sealed : s.can.sealed = true) : exec (.sealedWrite off v) s = .next (sealedWrite s off v) := by
  show execSealedWrite off v s = _
  obtain rfl | rfl | rfl := field <;> simp [execSealedWrite, mtrReachable, runs, can, sealed]

theorem tmap_written (v : Word) (unsealed : s.can.sealed = false) : exec (.mtrTmapData v) s =
    .next (updCan s (fun c => { c with
      tmapNext := sput tmapReset c.tmapAddr.toNat (v.setWidth 16 &&& 0x8FFF#16) c.tmapNext
      tmapAddr := c.tmapAddr + 1 })) := by
  show execMtrTmapData v s = _
  simp [execMtrTmapData, mtrReachable, runs, can, writeTmap, unsealed]

theorem report_asked {v : Word} (none : s.can.asked = none) (now : v.getLsbD 8 = true) :
    ∃ e, exec (.mtrRptNow v) s = .next (updCan s (fun c => { c with
      rptCtl := v &&& 0xFF00FF#64, asked := some (3, e) })) := by
  obtain ⟨e, asks⟩ := askClose_asks (s := updCan s (fun c => { c with rptCtl := v &&& 0xFF00FF#64 })) (reason := 3)
    (.inl none)
  refine ⟨e, ?_⟩
  show execMtrRptNow v s = _
  rw [execMtrRptNow, mtrReachable, runs, can, Bool.and_true, if_pos rfl, writeRptCtl, if_pos now, asks] <;> rfl

theorem debug_logged (off : Nat) (room : s.can.log.length < 60) :
    ∃ t r, exec (.mtrDebugAccess off) s = .next t ∧ t.can.log = s.can.log ++ [r] ∧ field r 0 16 = 0x0011 ∧
      t = { s with can := { s.can with log := t.can.log } } := by
  have run : exec (.mtrDebugAccess off) s = .next (debugAccess s off) := by
    show execMtrDebugAccess off s = _
    rw [execMtrDebugAccess, mtrReachable, runs, can, Bool.and_true, if_pos rfl]
  rw [debugAccess, canLog_room room] at run
  exact ⟨_, _, run, rfl, logRecord_code (by decide), rfl⟩

end Page

theorem canReset (s : State) : ∃ t, exec .mtrRst s = .next t ∧ t.can = { Can.reset with sealOpen := s.can.sealOpen } ∧
    t = { s with can := t.can, aon := { s.aon with clkReq := t.aon.clkReq } } := ⟨_, rfl, rfl, rfl⟩

/-! ### The one-time store -/

section Store
variable {s : State} (can : canRuns s = true)
include can

theorem exec_otsMAnswer (ans : OtsAnswer) : exec (.otsMAnswer ans) s = .next (otsAnswer s ans) := by
  show execOtsMAnswer ans s = _
  rw [execOtsMAnswer, if_pos can]

theorem exec_otsTimeout_can : exec (.otsTimeout .can) s = .next (otsAnswer s .timeout) := by
  show execOtsTimeout .can s = _
  rw [execOtsTimeout]
  simp only [can, if_true]

/-- A word of the key is read, and the next word is asked for. -/
theorem key_read {k : Fin 4} (w : Word) (asked : s.can.ots = some k.val) :
    ∃ t, exec (.otsMAnswer (.data w)) s = .next t ∧ tget t.can.key k = w ∧ t.can.ots = some (k.val + 1) ∧
      (∀ j, j ≠ k → tget t.can.key j = tget s.can.key j) ∧ t = { s with can := t.can } := by
  have run := exec_otsMAnswer can (.data w)
  have eq : otsAnswer s (.data w) = updCan s (fun c => { c with
      otsFail := false, keyFail := c.keyFail || false, ots := some (k.val + 1), key := c.key.set k.val w }) := by
    have lt := k.isLt
    simp only [otsAnswer, asked, show k.val ≠ 16 by omega, show k.val ≠ 4 by omega, show k.val < 5 by omega, lt]
    rfl
  rw [eq] at run
  refine ⟨_, run, tget_tupd s.can.key k (fun _ => w), rfl, fun j other => ?_, rfl⟩
  exact tget_tupd_ne s.can.key k j (fun _ => w) other.symm

theorem key_failed {k : Fin 4} (asked : s.can.ots = some k.val) :
    ∃ t, exec (.otsTimeout .can) s = .next t ∧ t.can.keyFail = true ∧ t.can.otsFail = true ∧
      t.can.ots = some (k.val + 1) ∧ t = { s with can := t.can } := by
  have run := exec_otsTimeout_can can
  have lt := k.isLt
  simp only [otsAnswer, asked, show k.val ≠ 16 by omega, show k.val ≠ 4 by omega, show k.val < 5 by omega, lt] at run
  exact ⟨_, run, Bool.or_true _, rfl, rfl, rfl⟩

theorem session_read (w : Word) (asked : s.can.ots = some 4) :
    ∃ t, exec (.otsMAnswer (.data w)) s = .next t ∧ t.can.session = w ∧ t.can.keyOk = !s.can.keyFail ∧
      t.can.key = s.can.key ∧ t = { s with can := t.can } := by
  have run := exec_otsMAnswer can (.data w)
  simp only [otsAnswer, asked] at run
  exact ⟨_, run, rfl, congrArg (fun b => !b) (Bool.or_false _), rfl, rfl⟩

end Store

/-- Settles O51, register by register. -/
theorem canRegistersWritten : Obligations.CanRegistersWritten := by
  intro s v runs can
  refine ⟨fun go key unsealed => sealed runs can go key unsealed, fun go key => seal_refused runs can go key,
    fun go free => unseal_asked runs can go free, fun go => unseal_refused runs can go,
    fun pending => ⟨unsealed can pending, unseal_failed can pending⟩, fun off field sealed => ?_,
    fun unsealed wf => ?_, fun none now => ?_, fun off room => debug_logged runs can off room, canReset s,
    fun k w asked => ⟨key_read can w asked, key_failed can asked⟩, fun w asked => session_read can w asked⟩
  · obtain ⟨kept, rep, only, frame⟩ := sealedWrite_reported runs off v
    exact ⟨_, sealedField_written runs can v field sealed, (congrArg Can.cfgNext kept).trans rfl, (congrArg Can.tmapNext kept).trans rfl,
      (congrArg Can.tmapAddr kept).trans rfl, rep, only, frame⟩
  · exact ⟨_, tmap_written runs can v unsealed, sget_sput _ _ _ _ wf, fun i other => sget_sput_ne _ _ _ _ _ other, rfl,
      rfl, rfl⟩
  · obtain ⟨e, run⟩ := report_asked runs can none now
    exact ⟨_, e, run, rfl, rfl, rfl⟩

end Sys2Proof.Proofs

/-! ## Ring commands read, started, completed and published (R321, R323, R324, R336, R338, R339): O41. -/

namespace Sys2Proof.Proofs
open Sys2Proof.Machine Sys2Proof.Safety

/-! ### Reading and starting -/

section Works
variable {s : State} {ring : CmdRing} (works : herdWorks s = true)
include works

/-- The commands that one read of a ring brings (R323). -/
def fetchedCmds (s : State) (ring : CmdRing) (entries : Block) : List Cmd :=
  (entries.take (fetchCount s ring)).zipIdx.map (fun p =>
    fetchedCmd ring (((hring s (Fin.ofNat 14 ring.val)).cons.toNat + p.2) % 2 ^ 32) s.herd.epoch p.1)

theorem commandFetch_taken {entries : Block} (accept : s.herd.accept = true) (turn : fetchTurn s = some ring)
    (enough : fetchCount s ring ≤ entries.length) : exec (.commandFetch ring entries) s =
      .next (updHerd (updRing s (Fin.ofNat 14 ring.val) (fun x => { x with
        cons := x.cons + BitVec.ofNat 32 (fetchCount s ring) })) (fun h => { h with
          fetched := h.fetched ++ fetchedCmds s ring entries, turn := ring.val })) := by
  show execCommandFetch ring entries s = _
  rw [execCommandFetch, if_pos (by simp [works, accept, turn, enough])]
  rfl

theorem indexRecheck_ready {c : Cmd} {rest : List Cmd} {l : MemLine} {k : Nat} (first : s.herd.fetched = c :: rest)
    (own : c.ring = ring) (chk : c.chk = .mismatch k) (stale : c.readAt ≠ s.herd.epoch) (good : l.state = .good)
    (carries : dField l.data 6 2 = c.index % 65536) : exec (.commandIndexRecheck ring l) s =
      .next (updHerd s (fun h => { h with
        fetched := { c with desc := l.data, chk := .ready, readAt := s.herd.epoch } :: rest })) := by
  have found : (c.ring == ring && c.chk != .ready && c.readAt != s.herd.epoch) = true := by simp [own, chk, stale]
  have ready : rechecked c l = { c with desc := l.data, chk := .ready } := by
    simp only [rechecked, good]
    exact if_pos carries
  show execCommandIndexRecheck ring l s = _
  simp only [execCommandIndexRecheck, works, if_true, updHerd, first, updFirst, found, ready]

theorem commandStart_next {c : Cmd} {rest : List Cmd} (mode : s.aon.modeReq = none) (first : s.herd.fetched = c :: rest)
    (own : c.ring = ring) (chk : c.chk = .ready) (noResult : c.result = none) (free : cmdWait c = false)
    (room : ringFull (hring s (cplRing s ring)) = false) : ∃ a, exec (.commandStart ring) s = .next { s with
      aon := a
      herd := { s.herd with
        fetched := s.herd.fetched.filter (fun d => !(d.ring == ring && d.index == c.index))
        started := s.herd.started ++ [{ c with result := startFault s c }] } } := by
  have found : s.herd.fetched.find? (fun c => c.ring == ring) = some c := by simp [first, own]
  have result : c.result.or (startFault s c) = startFault s c := by rw [noResult]; rfl
  show ∃ a, execCommandStart ring s = _
  simp only [execCommandStart, works, mode, found, chk, free, room, noResult, Option.or, Option.any_none, Bool.not_false,
    Bool.and_true, if_true, bne_self_eq_false, Bool.false_and, Bool.or_self, Bool.false_eq_true, if_false,
    Option.isSome_none]
  split
  · split
    · exact ⟨_, rfl⟩
    · exact ⟨_, rfl⟩
  · exact ⟨_, rfl⟩

end Works

/-! ### Completing -/

theorem commandComplete_ended {s : State} {ring : CmdRing} {c : Cmd} {r : Status × BitVec 16 × BitVec 320}
    (runs : herdRuns s = true) (reach : herdReachable s = true)
    (found : s.herd.started.find? (fun c => c.ring == ring && c.result.isSome) = some c) (result : c.result = some r) :
    exec (.commandComplete ring) s = .next (if cmdQuiet c && r.1 == .ok then
        updHerd s (fun h => { h with started := h.started.filter (fun d => !isCmd ring c.index d) })
      else updRing (updHerd s (fun h => { h with started := h.started.filter (fun d => !isCmd ring c.index d) }))
        (cplRing s ring) (fun x => { x with pending := x.pending ++ [completionEntry s c r] })) := by
  show execCommandComplete ring s = _
  simp only [execCommandComplete, runs, if_true, found, result, reach, Bool.not_true, Bool.false_and, if_false,
    Bool.false_eq_true]

theorem commandCompleted {s : State} {ring : CmdRing} {c : Cmd} {r : Status × BitVec 16 × BitVec 320}
    (runs : herdRuns s = true) (reach : herdReachable s = true)
    (found : s.herd.started.find? (fun c => c.ring == ring && c.result.isSome) = some c) (result : c.result = some r) :
    ∃ t, exec (.commandComplete ring) s = .next t ∧
      t.herd.started = s.herd.started.filter (fun d => !isCmd ring c.index d) ∧
      (cmdQuiet c = true → r.1 = .ok → t.herd.rings = s.herd.rings) ∧
      (cmdQuiet c = false →
        (hring t (cplRing s ring)).pending = (hring s (cplRing s ring)).pending ++ [completionEntry s c r] ∧
        ∀ q, q ≠ cplRing s ring → hring t q = hring s q) ∧ t = { s with herd := t.herd } := by
  have run := commandComplete_ended runs reach found result
  by_cases quiet : (cmdQuiet c && r.1 == .ok) = true
  · rw [if_pos quiet] at run
    refine ⟨_, run, rfl, fun _ _ => rfl, fun loud => ?_, rfl⟩
    simp [loud] at quiet
  · rw [if_neg quiet] at run
    refine ⟨_, run, rfl, fun q ok => absurd (by simp [q, ok]) quiet, fun _ => ⟨?_, fun q other => ?_⟩, rfl⟩
    · exact congrArg HRing.pending (hring_updRing_same _ _ _)
    · exact hring_updRing_ne other

/-! ### Publishing -/

/-- A ring that halts has nothing under way, keeps its producer index and is reported (R338). -/
theorem haltRing_halts (s : State) (ring : RingId) : (hring (haltRing s ring) ring).halted = true ∧
    (hring (haltRing s ring) ring).batch = 0 ∧ (hring (haltRing s ring) ring).prod = (hring s ring).prod ∧
    reported s (haltRing s ring) .ringHalt .die 0 := by
  have same : hring (haltRing s ring) ring = { (hring s ring).idle with halted := true } := hring_updRing_same ..
  rw [same]
  exact ⟨rfl, rfl, rfl, [], [], _, by rw [List.append_nil, List.append_nil]; rfl, rfl, rfl, rfl⟩

section Publish
variable {s : State} {ring : RingId} (may : mayPublish s = true)
include may

/-- A batch as it is sent (R336). -/
def batchSent (s : State) (ring : RingId) (n : Nat) (x : HRing) : HRing :=
  { x with
    pending := batchEntries s ring n ++ x.pending.drop n, batch := n, acks := List.replicate n none, indexAck := none
    retry := false, indexSent := false, intr := intrOf s ring, dropped := if decide (12 ≤ ring.val) then 0 else x.dropped }

theorem publishBatch_due {n k : Nat} (kind : 8 ≤ ring.val) (en : ringEn (hring s ring) = true)
    (going : (hring s ring).halted = false) (idle : (hring s ring).batch = 0)
    (count : n = min (hring s ring).pending.length (ringSize (hring s ring) - ringHeld (hring s ring))) (some : 0 < n)
    (due : 16 ≤ (hring s ring).pending.length ∨ k = 512) : exec (.publishBatch ring k) s =
      .next (updHerd (updRing (memWrites s ((batchEntries s ring n).zipIdx.map (fun p => entryWrite s ring p.1 p.2))) ring
        (batchSent s ring n)) (fun h => { h with heldBack := if decide (12 ≤ ring.val) then 0 else h.heldBack })) := by
  have due' : (decide (16 ≤ (hring s ring).pending.length) || k == 512) = true := by simpa using due
  show execPublishBatch ring k s = _
  simp only [execPublishBatch, ← count]
  rw [if_pos (by simp only [may, kind, en, going, idle, some, due']; decide)]
  rfl

theorem publishBatch_sent {n k : Nat} (kind : 8 ≤ ring.val) (en : ringEn (hring s ring) = true)
    (going : (hring s ring).halted = false) (idle : (hring s ring).batch = 0)
    (count : n = min (hring s ring).pending.length (ringSize (hring s ring) - ringHeld (hring s ring))) (some : 0 < n)
    (due : 16 ≤ (hring s ring).pending.length ∨ k = 512) :
    ∃ t, exec (.publishBatch ring k) s = .next t ∧ (hring t ring).batch = n ∧
      (hring t ring).pending = batchEntries s ring n ++ (hring s ring).pending.drop n ∧
      (hring t ring).acks = List.replicate n none ∧ (hring t ring).prod = (hring s ring).prod ∧
      t.herd.memOut = s.herd.memOut ++ (batchEntries s ring n).zipIdx.map (fun p => entryWrite s ring p.1 p.2) ∧
      (∀ q, q ≠ ring → hring t q = hring s q) ∧ t = { s with herd := t.herd } := by
  have same := hring_updRing_same (memWrites s ((batchEntries s ring n).zipIdx.map (fun p => entryWrite s ring p.1 p.2)))
    ring (batchSent s ring n)
  exact ⟨_, publishBatch_due may kind en going idle count some due, (congrArg HRing.batch same).trans rfl,
    (congrArg HRing.pending same).trans rfl, (congrArg HRing.acks same).trans rfl, (congrArg HRing.prod same).trans rfl, rfl,
    fun q other => hring_updRing_ne other, rfl⟩

section Index
variable (sent : 0 < (hring s ring).batch) (open' : (hring s ring).indexSent = false)
include sent open'

theorem publishIndex_answered (answered : (hring s ring).acks.all (·.isSome) = true) : exec (.publishIndex ring) s =
    .next (if (hring s ring).acks.all (· == some .ok) then
        updRing (memWrite s (indexWrite s ring)) ring (fun x => { x with indexSent := true, retry := false })
      else if (hring s ring).retry then haltRing s ring
      else updRing (memWrites s ((failedEntries (hring s ring)).map (fun p => entryWrite s ring p.1 p.2))) ring
        (fun x => { x with retry := true, acks := x.acks.map (fun a => if a = some .ok then a else none) })) := by
  show execPublishIndex ring s = _
  rw [execPublishIndex, if_pos (by simp only [may, open', answered, sent]; decide)]

theorem publishIndex_sent (good : (hring s ring).acks.all (· == some .ok) = true) :
    ∃ t, exec (.publishIndex ring) s = .next t ∧ (hring t ring).indexSent = true ∧
      t.herd.memOut = s.herd.memOut ++ [indexWrite s ring] ∧ (hring t ring).batch = (hring s ring).batch ∧
      (∀ q, q ≠ ring → hring t q = hring s q) ∧ t = { s with herd := t.herd } := by
  have answered : (hring s ring).acks.all (·.isSome) = true := by
    rw [List.all_eq_true] at good ⊢
    intro a mem
    rw [beq_iff_eq.mp (good a mem)]; rfl
  have run := publishIndex_answered may sent open' answered
  rw [if_pos good] at run
  have same := hring_updRing_same (memWrite s (indexWrite s ring)) ring (fun x => { x with
    indexSent := true, retry := false })
  exact ⟨_, run, (congrArg HRing.indexSent same).trans rfl, rfl, (congrArg HRing.batch same).trans rfl, fun q other => hring_updRing_ne other, rfl⟩

theorem publishIndex_again (answered : (hring s ring).acks.all (·.isSome) = true)
    (failed : (hring s ring).acks.all (· == some .ok) = false) (first : (hring s ring).retry = false) :
    ∃ t, exec (.publishIndex ring) s = .next t ∧ (hring t ring).retry = true ∧
      t.herd.memOut = s.herd.memOut ++ (failedEntries (hring s ring)).map (fun p => entryWrite s ring p.1 p.2) ∧
      (∀ q, q ≠ ring → hring t q = hring s q) ∧ t = { s with herd := t.herd } := by
  have run := publishIndex_answered may sent open' answered
  rw [if_neg (by simp [failed]), if_neg (by simp [first])] at run
  exact ⟨_, run, congrArg HRing.retry (hring_updRing_same ..), rfl, fun q other => hring_updRing_ne other, rfl⟩

end Index

section Interrupt
variable (sent : (hring s ring).indexSent = true)
include sent

theorem ringInterrupt_answered {st : Status} (answered : (hring s ring).indexAck = some st) :
    exec (.ringInterrupt ring) s = .next (if st = .ok then
        (if (hring s ring).intr.1.getLsbD 63 then
          memWrite (updRing s ring (fun x => { x.idle with
            prod := x.prod + BitVec.ofNat 32 x.batch, pending := x.pending.drop x.batch })) (intrWrite (hring s ring).intr)
        else updRing s ring (fun x => { x.idle with
          prod := x.prod + BitVec.ofNat 32 x.batch, pending := x.pending.drop x.batch }))
      else if (hring s ring).retry then haltRing s ring
      else updRing (memWrite s (indexWrite s ring)) ring (fun x => { x with retry := true, indexAck := none })) := by
  show execRingInterrupt ring s = _
  rw [execRingInterrupt, if_pos (by simp [may, sent, answered])]
  simp only [answered, Option.some.injEq]

theorem ringInterrupt_published (good : (hring s ring).indexAck = some .ok) :
    ∃ t, exec (.ringInterrupt ring) s = .next t ∧
      (hring t ring).prod = (hring s ring).prod + BitVec.ofNat 32 (hring s ring).batch ∧
      (hring t ring).pending = (hring s ring).pending.drop (hring s ring).batch ∧ (hring t ring).batch = 0 ∧
      t.herd.memOut = s.herd.memOut ++
        (if (hring s ring).intr.1.getLsbD 63 then [intrWrite (hring s ring).intr] else []) ∧
      (∀ q, q ≠ ring → hring t q = hring s q) ∧ t = { s with herd := t.herd } := by
  have run := ringInterrupt_answered may sent good
  rw [if_pos rfl] at run
  have same := hring_updRing_same s ring (fun x => { x.idle with
    prod := x.prod + BitVec.ofNat 32 x.batch, pending := x.pending.drop x.batch })
  by_cases intr : (hring s ring).intr.1.getLsbD 63 = true
  · rw [if_pos intr] at run ⊢
    exact ⟨_, run, (congrArg HRing.prod same).trans rfl, (congrArg HRing.pending same).trans rfl, (congrArg HRing.batch same).trans rfl, rfl,
      fun q other => hring_updRing_ne other, rfl⟩
  · rw [if_neg intr] at run ⊢
    exact ⟨_, run, (congrArg HRing.prod same).trans rfl, (congrArg HRing.pending same).trans rfl, (congrArg HRing.batch same).trans rfl,
      (List.append_nil _).symm, fun q other => hring_updRing_ne other, rfl⟩

theorem ringInterrupt_again {st : Status} (failed : st ≠ .ok) (answered : (hring s ring).indexAck = some st)
    (first : (hring s ring).retry = false) :
    ∃ t, exec (.ringInterrupt ring) s = .next t ∧ (hring t ring).retry = true ∧ (hring t ring).indexAck = none ∧
      t.herd.memOut = s.herd.memOut ++ [indexWrite s ring] ∧ (hring t ring).prod = (hring s ring).prod ∧
      t = { s with herd := t.herd } := by
  have run := ringInterrupt_answered may sent answered
  rw [if_neg failed, if_neg (by simp [first])] at run
  have same := hring_updRing_same (memWrite s (indexWrite s ring)) ring (fun x => { x with
    retry := true, indexAck := none })
  exact ⟨_, run, (congrArg HRing.retry same).trans rfl, (congrArg HRing.indexAck same).trans rfl, rfl, (congrArg HRing.prod same).trans rfl, rfl⟩

end Interrupt
end Publish

/-- Settles O41, row by row. -/
theorem commandsReadStartedPublished : Obligations.CommandsReadStartedPublished := by
  refine ⟨fun s ring works => ⟨fun entries accept turn enough => ?_, fun c rest l k first own chk stale good carries => ?_,
    fun c rest mode first own chk noResult free room => ?_⟩, fun s runs reach => ⟨fun ring c r found result =>
    commandCompleted runs reach found result, fun ring fresh => ?_⟩⟩
  · refine ⟨_, commandFetch_taken works accept turn enough, rfl, ?_, fun q other => ?_, rfl, rfl⟩
    · exact congrArg HRing.cons (hring_updRing_same s (Fin.ofNat 14 ring.val) _)
    · refine hring_updRing_ne (s := s) fun same => other ?_
      rw [same]
      exact Nat.mod_eq_of_lt (by omega)
  · exact ⟨_, indexRecheck_ready works first own chk stale good carries, rfl, rfl⟩
  · obtain ⟨a, run⟩ := commandStart_next works mode first own chk noResult free room
    exact ⟨_, run, rfl, by rw [first], rfl, rfl⟩
  · have may : mayPublish s = true := by simp [mayPublish, runs, reach, fresh]
    refine ⟨fun n k kind en going idle count some due => publishBatch_sent may kind en going idle count some due,
      fun sent open' => ⟨fun good => publishIndex_sent may sent open' good, fun answered failed => ⟨fun first =>
      publishIndex_again may sent open' answered failed first, fun second => ?_⟩⟩, fun sent => ⟨fun good =>
      ringInterrupt_published may sent good, fun st failed answered => ⟨fun first =>
      ringInterrupt_again may sent failed answered first, fun second => ?_⟩⟩⟩
    · have run := publishIndex_answered may sent open' answered
      rw [if_neg (by simp [failed]), if_pos second] at run
      obtain ⟨halted, batch, prod, rep⟩ := haltRing_halts s ring
      exact ⟨_, run, halted, batch, prod, rep⟩
    · have run := ringInterrupt_answered may sent answered
      rw [if_neg failed, if_pos second] at run
      obtain ⟨halted, batch, prod, rep⟩ := haltRing_halts s ring
      exact ⟨_, run, halted, prod, rep⟩

end Sys2Proof.Proofs

/-! ## Cluster gating, FREEZE and THAW (R400, R401, R425, R426, R429, R430): O55. -/

namespace Sys2Proof.Proofs
open Sys2Proof.Machine Sys2Proof.Safety

/-! ### Gating -/

/-- The bit of one cluster is set, and no other moves. -/
theorem gatedBit (g : BitVec 24) (c d : ClusterId) :
    (g ||| (1#24 <<< c.val)).getLsbD d.val = (decide (d = c) || g.getLsbD d.val) := by
  have hc := c.isLt
  have hd := d.isLt
  rw [BitVec.getLsbD_or, BitVec.getLsbD_shiftLeft]
  by_cases same : d = c
  · simp [same]
  · have other : d.val ≠ c.val := fun h => same (Fin.ext h)
    by_cases below : d.val < c.val
    · simp [same, below]
    · have : d.val - c.val ≠ 0 := by omega
      simp [same, this]

theorem ungatedBit (g : BitVec 24) (c d : ClusterId) :
    (g &&& ~~~ (1#24 <<< c.val)).getLsbD d.val = (!decide (d = c) && g.getLsbD d.val) := by
  have bit := gatedBit 0#24 c d
  simp only [BitVec.zero_or, BitVec.getLsbD_zero, Bool.or_false] at bit
  rw [BitVec.getLsbD_and, BitVec.getLsbD_not, bit, Bool.and_comm]
  simp [d.isLt]

section Gate
variable {s : State} {c : ClusterId}

theorem clusterGate_gates (k : Nat) (runs : clusterRuns s c = true) (mode : s.aon.mode = .drowse)
    (allowed : s.aon.drowseWhey.getLsbD c.val = true) (needed : gateExempt c = false)
    (quiet : clusterQuiescent s c = true) : ∃ t, exec (.clusterGate c k) s = .next t ∧ clusterRuns t c = false ∧
      (∀ d : ClusterId, d ≠ c → t.aon.gated.getLsbD d.val = s.aon.gated.getLsbD d.val) ∧
      t = { s with aon := { s.aon with gated := t.aon.gated } } := by
  have run : exec (.clusterGate c k) s =
      .next (updAon s (fun a => { a with gated := a.gated ||| (1#24 <<< c.val) })) := by
    show execClusterGate c k s = _
    rw [execClusterGate, if_pos (by simp [runs, mode, allowed, needed, quiet])]
  refine ⟨_, run, ?_, fun d other => ?_, rfl⟩
  · have gated := gatedBit s.aon.gated c c
    simp only [clusterRuns, updAon, gated]
    simp
  · exact (gatedBit ..).trans (by simp [other])

/-! ### Ungating -/

/-- A router at the governor level in force (R401). -/
def governed (level : Nat) (x : Router) : Router := { x with govLevel := level, govNext := none }

/-- Routers set to the Herdsman's governor level. -/
def governAll (s : State) (l : List RouterId) : State :=
  l.foldl (fun s r => updR s r (fun x => { x with govLevel := s.herd.govLevel, govNext := none })) s

theorem governAll_frame (s : State) (l : List RouterId) : ∃ rs, governAll s l = { s with routers := rs } := by
  induction l generalizing s with
  | nil => exact ⟨_, rfl⟩
  | cons a l ih => exact ih (updR s a (governed s.herd.govLevel))

theorem rtr_governAll (s : State) (l : List RouterId) (r : RouterId) :
    rtr (governAll s l) r = if r ∈ l then governed s.herd.govLevel (rtr s r) else rtr s r := by
  induction l generalizing s with
  | nil => rfl
  | cons a l ih =>
    refine (ih (updR s a (governed s.herd.govLevel))).trans ?_
    rw [rtr_updR]
    by_cases same : a = r
    · simp [same, governed, updR]
    · simp [same, Ne.symm same, updR]

theorem mem_clusterRouters (r : RouterId) (c : ClusterId) : r ∈ clusterRouters c ↔ clusterOf r = c := by
  revert r c; decide

theorem clusterUngate_runs (gated : s.aon.gated.getLsbD c.val = true) : exec (.clusterUngate c) s = .next
    (governAll (updAon s (fun a => { a with gated := a.gated &&& ~~~ (1#24 <<< c.val) })) (clusterRouters c)) := by
  show execClusterUngate c s = _
  rw [execClusterUngate, ungate, if_pos gated]
  rfl

theorem clusterUngate_ungates (gated : s.aon.gated.getLsbD c.val = true) :
    ∃ t, exec (.clusterUngate c) s = .next t ∧ t.aon.gated.getLsbD c.val = false ∧
      (∀ d : ClusterId, d ≠ c → t.aon.gated.getLsbD d.val = s.aon.gated.getLsbD d.val) ∧
      (∀ r, clusterOf r = c → (rtr t r).govLevel = s.herd.govLevel) ∧
      (∀ r, clusterOf r ≠ c → rtr t r = rtr s r) ∧
      t = { s with routers := t.routers, aon := { s.aon with gated := t.aon.gated } } := by
  let u := updAon s (fun a => { a with gated := a.gated &&& ~~~ (1#24 <<< c.val) })
  have routers := rtr_governAll u (clusterRouters c)
  obtain ⟨rs, frame⟩ := governAll_frame u (clusterRouters c)
  rw [frame] at routers
  refine ⟨_, (clusterUngate_runs gated).trans (congrArg Host.Outcome.next frame), ?_, fun d other => ?_, fun r own => ?_,
    fun r other => ?_, rfl⟩
  · exact (ungatedBit ..).trans (by simp)
  · exact (ungatedBit ..).trans (by simp [other])
  · rw [routers, if_pos ((mem_clusterRouters r c).mpr own)]; rfl
  · rw [routers, if_neg (mt (mem_clusterRouters r c).mp other)]; rfl

end Gate

/-! ### FREEZE and THAW -/

theorem freeze_stops {s : State} (mode : s.aon.mode = .serve ∨ s.aon.mode = .drowse ∨ s.aon.mode = .train ∨
    s.aon.mode = .recover) : exec .freeze s = .next (stopTree (updAon s (fun a => { a with freezePin := true }))) := by
  show execFreeze s = _
  rcases mode with m | m | m | m <;> simp [execFreeze, freezeNow, updAon, m]

/-- What a released stop tree leaves, before the links retrain and the island goes on (R429, R430). -/
def released (s : State) (d : Nat) : State :=
  updRecov (updAon s (fun a => { a with
    mode := a.freezeFrom, freezeThaw := a.aclk
    stepFrom := if a.retStep == some 5 then a.aclk.toNat else a.stepFrom + d
    pwrDue := a.pwrDue.map (fun p => (p.1, p.2 + d))
    modeReq := a.modeReq.map (fun m => { m with drainFrom := m.drainFrom + d }) }))
    (fun v => { v with clusters := tmap v.clusters (fun _ o => o.map (fun x => { x with clkAsked := x.clkAsked + d })) })

/-- An end whose retrain has started. -/
def retraining (x : SpineEnd) : SpineEnd :=
  if x.state == .up then { x with state := .retrain, attempts := 0, lanesIn := [], retrainAt := none } else x

/-- With nothing under way in the island there is nothing to carry on. -/
theorem aonNext_idle {s : State} (exit : s.aon.exitStep = none) (req : s.aon.modeReq = none)
    (root : s.aon.rootSel = false) : aonNext s = s := by
  simp [aonNext, exit, req, root]

/-- What the Can has logged of the frozen time (R430). -/
def freezeLogged (s : State) (d stop : Nat) : State :=
  canLogAt (canLogAt (released s d) 1 0xFFFF s.herd.epoch stop) 2 0xFFFF s.herd.epoch (acl s)

theorem freezeLogged_frame (s : State) (d stop : Nat) :
    ∃ can, freezeLogged s d stop = { released s d with can := can } := ⟨_, rfl⟩

/-- What the island does once the links retrain (R427, R429). -/
def carriedOn (s : State) : State :=
  let s := if s.aon.mode == .retain && s.aon.retSource == srcFreeze && s.aon.retStep == some 2 then returnClocks s else s
  let s := aonNext s
  if s.aon.armedLatch then s
  else match s.aon.latch with
    | some (src, slot) => takeWake (updAon s (fun a => { a with latch := none })) src slot false
    | none => s

theorem carriedOn_idle {s : State} (exit : s.aon.exitStep = none) (ret : s.aon.retStep = none)
    (req : s.aon.modeReq = none) (root : s.aon.rootSel = false) (wake : s.aon.latch = none) : carriedOn s = s := by
  have stays : (if s.aon.mode == .retain && s.aon.retSource == srcFreeze && s.aon.retStep == some 2 then returnClocks s
      else s) = s := if_neg (by simp [ret])
  rw [carriedOn]
  simp only [stays, aonNext_idle exit req root, wake, ite_self]

/-- What the release leaves before the links retrain: the mode of before, and nothing under way that was not. -/
structure Released (s l : State) : Prop where
  frame : l = { s with can := l.can, aon := l.aon, recov := l.recov }
  mode : l.aon.mode = s.aon.freezeFrom
  thawed : l.aon.freezeThaw = s.aon.aclk
  pin : l.aon.freezePin = false
  exit : l.aon.exitStep = s.aon.exitStep
  ret : l.aon.retStep = s.aon.retStep
  req : s.aon.modeReq = none → l.aon.modeReq = none
  root : l.aon.rootSel = s.aon.rootSel
  wake : l.aon.latch = s.aon.latch

theorem freezeLogged_released (s : State) (d stop : Nat) :
    Released s (freezeLogged (updAon s (fun a => { a with freezePin := false })) d stop) := by
  obtain ⟨can, frame⟩ := freezeLogged_frame (updAon s (fun a => { a with freezePin := false })) d stop
  rw [frame]
  exact ⟨rfl, rfl, rfl, rfl, rfl, rfl, congrArg (Option.map _), rfl, rfl⟩

theorem thaw_runs {s : State} (mode : s.aon.mode = .freeze) (hold : s.aon.freezeHold = false) :
    ∃ l, Released s l ∧
      exec .thaw s = .next (carriedOn ((List.finRange 12).foldl (fun s e => updE s e retraining) l)) := by
  let u := updAon s (fun a => { a with freezePin := false })
  refine ⟨_, freezeLogged_released s (acl u - u.aon.frozenAt) u.aon.freezeStop.toNat, ?_⟩
  have asked : (u.aon.mode != .freeze || freezeAsked u) = false := by simp [u, updAon, freezeAsked, mode, hold]
  show execThaw s = _
  rw [execThaw, thawNow, if_neg (ne_true_of_eq_false asked)]
  rfl

/-- Settles O55: gating sets one bit, and ungating clears it and sets the cluster's routers to the governor's level; a
freeze changes the island alone, and a thaw the links that were up. -/
theorem gatingAndFreeze : Obligations.GatingAndFreeze := by
  refine fun s => ⟨fun c k runs mode allowed needed quiet => clusterGate_gates k runs mode allowed needed quiet,
    fun c gated => clusterUngate_ungates gated, fun mode => ⟨_, freeze_stops mode, rfl, rfl, rfl, rfl, rfl, rfl⟩,
    fun mode origin hold exit ret req root latched wake => ?_⟩
  obtain ⟨l, rel, run⟩ := thaw_runs mode hold
  obtain ⟨inside, -⟩ := spn_foldl_updE (fun _ => retraining) (List.nodup_finRange 12) l
  obtain ⟨sp, frame⟩ := foldl_updE_frame (fun _ => retraining) (List.finRange 12) l
  rw [frame] at run inside
  rw [carriedOn_idle (s := { l with spine := sp }) (rel.exit.trans exit) (rel.ret.trans ret) (rel.req req) 
    (rel.root.trans root) (rel.wake.trans wake)] at run
  have ends : ∀ e, spn ({ l with spine := sp } : State) e = retraining (spn s e) :=
    fun e => (inside e (List.mem_finRange e)).trans (congrArg (fun p => retraining (tget p e))
      (congrArg State.spine rel.frame :))
  refine ⟨_, run, rel.mode.trans origin, rel.thawed, rel.pin, fun e up => ?_, fun e other => ?_,
    (congrArg State.nis rel.frame :), (congrArg State.routers rel.frame :),
    (congrArg (fun t : State => t.herd.fetched) rel.frame :), (congrArg State.cfgA rel.frame :),
    (congrArg State.cfgB rel.frame :)⟩
  · rw [ends, retraining, if_pos (by simp [up])]
  · rw [ends, retraining, if_neg (by simp [other])]

end Sys2Proof.Proofs

/-! ## Commands that change the mode, and the phases of an entry (R396–R398, R403–R405): O53. -/

namespace Sys2Proof.Proofs
open Sys2Proof.Machine Sys2Proof.Safety

theorem nif_updAllN (s : State) (f : Slot → NI → NI) (n : Slot) : nif (updAllN s f) n = f n (nif s n) :=
  tget_tmap ..

/-- No command in progress is what `modeFault` looks at first (R396). -/
theorem modeReq_of_modeFault {s : State} {sleep : Bool} (free : modeFault s sleep = none) : s.aon.modeReq = none := by
  by_contra busy
  have busy' : modeBusy s = true := by
    obtain ⟨m, req⟩ := Option.ne_none_iff_exists'.mp busy
    simp [modeBusy, req]
  rw [modeFault, if_pos busy'] at free
  exact Option.some_ne_none _ free

section Request
variable {s : State} {c : Cmd} (turn : onTurn s c 0x1C)
include turn

theorem modeReqOf_of_onTurn {m : Mode} (code : dByte c.desc 8 = modeCode m) : modeReqOf s c.ring m = some c := by
  obtain ⟨runs, die, op, front⟩ := turn
  simp [modeReqOf, startedCmd, runs, die, front, op, code]

/-! ### SERVE (R396, R397) -/

theorem modeReqServe_trained (code : dByte c.desc 8 = 2) (alone : mayJoin s = false) (free : modeFault s false = none)
    (mode : s.aon.mode = .train) (fit : serveFault s (c.desc.getLsbD 72) = none) :
    exec (.modeReqServe c.ring) s =
      .next (endCmd (noteMode (setPorts (enterMode s .serve)) .serve .ok 0) c.ring c.index .ok 0) := by
  have req : (setPorts (enterMode s .serve)).aon.modeReq.isNone = true := by
    rw [show (setPorts (enterMode s .serve)).aon.modeReq = s.aon.modeReq from rfl, modeReq_of_modeFault free]
    rfl
  show execModeReqServe c.ring s = _
  simp only [execModeReqServe, modeReqOf_of_onTurn turn (m := .serve) code, alone, free, mode, fit,
    Bool.false_eq_true, if_false, endNow, req, if_true]

theorem serve_enters (code : dByte c.desc 8 = 2) (alone : mayJoin s = false) (free : modeFault s false = none)
    (mode : s.aon.mode = .train) (fit : serveFault s (c.desc.getLsbD 72) = none) :
    ∃ t, exec (.modeReqServe c.ring) s = .next t ∧ t.aon.mode = .serve ∧ ended t c.ring c.index .ok 0 0 ∧
      (∀ n, (nif t n).reqReady = true) ∧ onlyStarted s t ∧ t.aon.lastTarget = .serve ∧
      t = { s with nis := t.nis, herd := t.herd, aon := t.aon } :=
  ⟨_, modeReqServe_trained turn code alone free mode fit, rfl,
    ended_endCmd _ _ _ (s := noteMode (setPorts (enterMode s .serve)) .serve .ok 0) (mem_started_of_onTurn turn :),
    fun n => congrArg NI.reqReady (nif_updAllN (enterMode s .serve) _ n), onlyStarted_endCmd .., rfl, rfl⟩

theorem serve_joins (code : dByte c.desc 8 = 2) (join : mayJoin s = true) :
    ∃ t, exec (.modeReqServe c.ring) s = .next t ∧ acted t c ∧
      t.aon = { s.aon with joined := s.aon.joined ++ [(c.ring, c.index)] } ∧ onlyStarted s t ∧
      t = { s with herd := t.herd, aon := t.aon } := by
  have run : exec (.modeReqServe c.ring) s = .next (updAon (ranCmd s c.ring c.index) (fun a => { a with
      joined := a.joined ++ [(c.ring, c.index)] })) := by
    show execModeReqServe c.ring s = _
    simp only [execModeReqServe, modeReqOf_of_onTurn turn (m := .serve) code, join, if_true]
  exact ⟨_, run, acted_of_started (mem_started_of_onTurn turn) rfl, rfl, rfl, rfl⟩

/-! ### DROWSE and RETAIN (R398, R403) -/

theorem drowse_begins (code : dByte c.desc 8 = 3) (free : modeFault s true = none) (mode : s.aon.mode = .serve) :
    ∃ t m, exec (.modeReqDrowse c.ring) s = .next t ∧ acted t c ∧ t.aon.modeReq = some m ∧ m.target = .drowse ∧
      m.phase = 2 ∧ m.drainFrom = acl s ∧ t.aon.mode = .serve ∧ (∀ n, (nif t n).holdPosted = true) ∧
      onlyStarted s t ∧ t = { s with nis := t.nis, herd := t.herd, aon := t.aon } := by
  have run : exec (.modeReqDrowse c.ring) s = .next (holdNis (armLatch (beginMode s c .drowse 2)) false) := by
    show execModeReqDrowse c.ring s = _
    simp only [execModeReqDrowse, modeReqOf_of_onTurn turn (m := .drowse) code, free, mode]
  exact ⟨_, _, run, acted_of_started (mem_started_of_onTurn turn) rfl, rfl, rfl, rfl, rfl, mode, fun n =>
    congrArg NI.holdPosted (nif_updAllN ..), rfl, rfl⟩

/-- The entry to RETAIN of a command that is accepted, in its phase 1 (R403). -/
def retainBegun (s : State) (c : Cmd) : State :=
  updCan (armLatch (beginMode s c .retain 1)) (fun x => { x with paused := true })

theorem modeReqRetain_begun (code : dByte c.desc 8 = 4) (free : modeFault s true = none)
    (mode : s.aon.mode = .serve ∨ s.aon.mode = .drowse) :
    exec (.modeReqRetain c.ring) s = .next (retainAccept (retainBegun s c)) := by
  show execModeReqRetain c.ring s = _
  rcases mode with mode | mode <;>
    simp only [execModeReqRetain, modeReqOf_of_onTurn turn (m := .retain) code, free, mode] <;> rfl

omit turn in
theorem retainBegun_frame (s : State) (c : Cmd) : ∃ m a, retainBegun s c =
      { s with herd := (ranCmd s c.ring c.index).herd, can := { s.can with paused := true }, aon := a } ∧
    (retainBegun s c).aon.modeReq = some m ∧ m.target = .retain ∧ m.phase = 1 ∧ a.mode = s.aon.mode :=
  ⟨_, (retainBegun s c).aon, rfl, rfl, rfl, rfl, rfl⟩

omit turn in
theorem retainAccept_due {m : ModeReq} (req : s.aon.modeReq = some m) (target : m.target = .retain) (phase : m.phase = 1)
    (mode : s.aon.mode = .serve ∨ s.aon.mode = .drowse) (gather : s.dip.gather = none) :
    retainAccept s = updAon (holdNis s true) (fun a => { a with
      modeReq := some { m with phase := 2, drainFrom := a.aclk.toNat, limit := max 32 a.drain.toNat } }) := by
  have runs : herdRuns s = true := by
    rcases mode with mode | mode <;> simp [herdRuns, clocksRun, mode, req, phase]
  rw [retainAccept, req]
  exact if_pos (by simp [target, phase, runs, gather])

theorem retain_begins (code : dByte c.desc 8 = 4) (free : modeFault s true = none)
    (mode : s.aon.mode = .serve ∨ s.aon.mode = .drowse) (gather : s.dip.gather = none) :
    ∃ t m, exec (.modeReqRetain c.ring) s = .next t ∧ acted t c ∧ t.aon.modeReq = some m ∧ m.target = .retain ∧
      m.phase = 2 ∧ t.aon.mode = s.aon.mode ∧ (∀ n, n ≠ herdSlot → (nif t n).holdAll = true) ∧
      t.can = { s.can with paused := true } ∧ onlyStarted s t ∧
      t = { s with nis := t.nis, herd := t.herd, can := t.can, aon := t.aon } := by
  have run := modeReqRetain_begun turn code free mode
  obtain ⟨m, a, begun, req, target, phase, same⟩ := retainBegun_frame s c
  rw [retainAccept_due req target phase (by rwa [begun, same]) (by rwa [begun])] at run
  rw [begun] at run
  have herd (u : State) (f : Aon → Aon) : (updAon (holdNis u true) f).herd = u.herd := by
    rw [updAon_herd, holdNis, updAllN_herd]
  refine ⟨_, _, run, acted_of_started (mem_started_of_onTurn turn) (congrArg Herd.started (herd ..)), rfl, target, rfl,
    same, fun n other => ?_, rfl, ?_, rfl⟩
  · rw [nif, updAon_nis, ← nif, holdNis, nif_updAllN, if_pos rfl]
    simp [other]
  · rw [onlyStarted, herd]
    rfl

end Request

/-! ### The phases of an entry (R403, R404, R405) -/

/-- An NI that holds no request any longer. -/
def letGo (x : NI) : NI := { x with holdPosted := false, holdAll := false }

def unheld (s : State) : State := updAllN s (fun _ => letGo)

theorem nif_unheld (s : State) (n : Slot) : nif (unheld s) n = letGo (nif s n) := nif_updAllN ..

section Phase
variable {s : State} {m : ModeReq} (runs : herdRuns s = true) (req : s.aon.modeReq = some m)
include req

theorem retainAccept_late (phase : m.phase ≠ 1) : retainAccept s = s := by
  rw [retainAccept, req]
  exact if_neg (by simp [phase])

omit req in
/-- NIs with nothing to work on take nothing up when they are let go. -/
theorem releaseHolds_idle (idle : ∀ n, storeIdle s n) : releaseHolds s = unheld s :=
  resumeAll_idle (s := unheld s) fun n => storeIdle_congr (s := s) ((congrArg NI.reqFifo (nif_unheld s n)).trans rfl)
    ((congrArg NI.store (nif_unheld s n)).trans rfl) rfl rfl (idle n)

include runs

theorem postedDrainDone_retain (phase : m.phase = 2) (done : postedDone s = true) (target : m.target = .retain) :
    exec .postedDrainDone s = .next (updAon s (fun a => { a with modeReq := some { m with phase := 3 } })) := by
  show execPostedDrainDone s = _
  simp only [execPostedDrainDone, retainAccept_late req (by omega), req]
  rw [if_pos (by simp [runs, phase, done]), if_neg (by simp [target])]

theorem postedDrainDone_drowse (phase : m.phase = 2) (done : postedDone s = true) (target : m.target = .drowse) :
    exec .postedDrainDone s = .next (aonNext (updAon (releaseHolds s) (fun a => awaitAck { a with
      modeReq := some { m with phase := 3 }, rootSel := true } .drowse stepLimit))) := by
  show execPostedDrainDone s = _
  simp only [execPostedDrainDone, retainAccept_late req (by omega), req]
  rw [if_pos (by simp [runs, phase, done]), if_pos (by simp [target])]

omit runs req in
/-- The island waits for the root clock. -/
theorem aonNext_awaitsRoot {m : ModeReq} (mode : s.aon.mode = .serve) (exit : s.aon.exitStep = none)
    (req : s.aon.modeReq = some m) (target : m.target = .drowse) (phase : m.phase = 3) (root : rootDone s = false) :
    aonNext s = s := by
  simp [aonNext, mode, exit, req, target, phase, root]

theorem drowse_awaitsRoot (phase : m.phase = 2) (done : postedDone s = true) (target : m.target = .drowse)
    (mode : s.aon.mode = .serve) (ack : s.aon.rootAck = false) (exit : s.aon.exitStep = none)
    (idle : ∀ n, storeIdle s n) : ∃ t, exec .postedDrainDone s = .next t ∧ t.aon.rootSel = true ∧
      t.aon.modeReq = some { m with phase := 3 } ∧ (∀ n, (nif t n).holdPosted = false) ∧
      t = { s with nis := t.nis, aon := t.aon } := by
  have run := postedDrainDone_drowse runs req phase done target
  let u := updAon (unheld s) (fun a => awaitAck { a with modeReq := some { m with phase := 3 }, rootSel := true } .drowse
    stepLimit)
  have waits : rootDone u = false := by simp [u, rootDone, updAon, awaitAck, unheld, updAllN, ack]
  rw [releaseHolds_idle idle, aonNext_awaitsRoot (s := u) mode exit rfl target rfl waits] at run
  exact ⟨_, run, rfl, rfl, fun n => congrArg NI.holdPosted (nif_unheld s n), rfl⟩

/-- The island when an entry is given up (R405, R519). -/
def givenUp (m : ModeReq) (detail : BitVec 16) (a : Aon) : Aon :=
  { a with latch := none, armedLatch := false, modeReq := none, lastTarget := m.target, lastDetail := detail }

def unpaused (s : State) : State := updCan s (fun c => { c with paused := false })

/-- An entry that is given up, but for its holds and its event (R405). -/
def dropped (s : State) (m : ModeReq) (detail : BitVec 16) (res : BitVec 320) : State :=
  endCmd (updAon (unpaused s) (givenUp m detail)) m.ring m.index .notReady detail res

omit runs req in
theorem dropEntry_eq (s : State) (m : ModeReq) (detail : BitVec 16) (res : Nat) :
    dropEntry s m detail res = releaseHolds (dropped s m detail (BitVec.ofNat 320 res)) := (rfl)

omit req runs in
theorem endCmd_started (s : State) (ring : CmdRing) (index : Nat) (st : Status) (d : BitVec 16) (res : BitVec 320) :
    ∃ l, endCmd s ring index st d res = { s with herd := { s.herd with started := l } } :=
  ⟨_, (endCmd_frame s ring index st d res).trans (congrArg (fun h => { s with herd := h }) (onlyStarted_endCmd ..))⟩

omit req runs in
theorem dropped_frame (s : State) (m : ModeReq) (detail : BitVec 16) (res : BitVec 320) : ∃ l,
    dropped s m detail res = { unpaused s with
      aon := givenUp m detail s.aon, herd := { s.herd with started := l } } :=
  endCmd_started (updAon (unpaused s) (givenUp m detail)) ..

omit req runs in
theorem dropped_ended (detail : BitVec 16) (res : BitVec 320)
    (started : ∃ d ∈ s.herd.started, d.ring = m.ring ∧ d.index = m.index) :
    ended (dropped s m detail res) m.ring m.index .notReady detail res := ended_endCmd_named started

theorem drainTimeout_refuses (phase : m.phase = 2) (late : m.drainFrom + m.limit ≤ acl s)
    (idle : ∀ n, storeIdle s n) : ∃ res detail, exec .drainTimeout s =
      .next (repDie (unheld (dropped s m 0x0001 res)) .modeRefused detail) := by
  let f := refusedBy s m
  let res : BitVec 320 := BitVec.ofNat 320 (f.1 + f.2 * 2 ^ 16)
  refine ⟨res, f.1 * 2 ^ 16 + f.2, ?_⟩
  have still (n : Slot) : storeIdle (dropped s m 0x0001 res) n := by
    obtain ⟨l, frame⟩ := dropped_frame s m 0x0001 res
    rw [frame]
    exact storeIdle_congr (s := s) rfl rfl rfl rfl (idle n)
  rw [← releaseHolds_idle still, ← dropEntry_eq]
  show execDrainTimeout s = _
  simp only [execDrainTimeout, req]
  rw [if_pos (by simp [runs, phase, late]), if_pos phase]
  rfl

theorem drainTimeout_ends (phase : m.phase = 2) (late : m.drainFrom + m.limit ≤ acl s) (idle : ∀ n, storeIdle s n)
    (started : ∃ d ∈ s.herd.started, d.ring = m.ring ∧ d.index = m.index) :
    ∃ t res, exec .drainTimeout s = .next t ∧ t.aon.modeReq = none ∧ ended t m.ring m.index .notReady 0x0001 res ∧
      t.aon.mode = s.aon.mode ∧ (∀ n, (nif t n).holdPosted = false ∧ (nif t n).holdAll = false) ∧
      reported s t .modeRefused .die 0 ∧ t = { s with nis := t.nis, herd := t.herd, can := t.can, aon := t.aon } := by
  obtain ⟨res, detail, run⟩ := drainTimeout_refuses runs req phase late idle
  have finished := dropped_ended (s := s) 0x0001 res started
  obtain ⟨l, frame⟩ := dropped_frame s m 0x0001 res
  rw [frame] at run finished
  refine ⟨_, res, run, rfl, finished, rfl, fun n => ?_, ⟨[], [], mkEvent .modeRefused .die 0 0 s.herd.epoch
    (BitVec.ofNat 32 detail) (BitVec.ofNat 128 0), ?_, rfl, rfl, rfl⟩, rfl⟩
  · have unheld := nif_unheld s n
    exact ⟨congrArg NI.holdPosted unheld, congrArg NI.holdAll unheld⟩
  · rw [List.append_nil, List.append_nil]
    rfl

theorem quietReached_stops (phase : m.phase = 3) (target : m.target = .retain) (fabric : fabricQuiet s = true)
    (herd : herdQuiet s = true) :
    ∃ t, exec .quietReached s = .next t ∧ t.aon.modeReq = some { m with phase := 4, s := s.herd.epoch + 1 } ∧
      t.aon.clkReq = 0 ∧ t.aon.mode = s.aon.mode ∧
      t.churn = { s.churn with canaries := some (canaryWords (s.herd.epoch + 1)) } ∧
      t = { s with aon := t.aon, churn := t.churn } := by
  have run : exec .quietReached s = .next (updAon (sendCodes (writeCanaries s (s.herd.epoch + 1)) .retain) (fun a =>
      { a with modeReq := some { m with phase := 4, s := s.herd.epoch + 1 }, clkReq := 0 })) := by
    show execQuietReached s = _
    simp only [execQuietReached, req]
    rw [if_pos (by simp [runs, phase, target, fabric, herd])]
  refine ⟨_, run, rfl, rfl, ?_, rfl, rfl⟩
  show (driveCodes s.aon _).mode = _
  rw [driveCodes]
  split <;> rfl

end Phase

/-- DROWSE begins when its codes are acknowledged (R398). -/
theorem pwrcAck_drowses {s : State} {m : ModeReq} (req : s.aon.modeReq = some m) (phase : m.phase = 4)
    (target : m.target = .drowse) (mode : s.aon.mode = .serve) (exit : s.aon.exitStep = none)
    (asked : s.aon.pwrReq = true) (want : s.aon.want = none) :
    exec (.pwrcAck true) s = .next (enterDrowse (updAon s (fun a => { a with pwrReq := false, pwrAck := true })) m) := by
  let u := updAon s (fun a => { a with pwrReq := false, pwrAck := true })
  have done : codesDone u = true := by simp [u, codesDone, updAon, want]
  have mode' : u.aon.mode = .serve := mode
  have exit' : u.aon.exitStep = none := exit
  have req' : u.aon.modeReq = some m := req
  show execPwrcAck true s = _
  rw [execPwrcAck, if_pos rfl, if_pos asked]
  refine congrArg Host.Outcome.next (?_ : aonNext u = _)
  simp only [aonNext, mode', exit', req', target, phase, done]
  rfl

/-- Nothing was latched during the entry. -/
theorem replayLatch_none {s : State} (none : s.aon.latch = none) :
    replayLatch s = updAon s (fun a => { a with latch := .none, armedLatch := false }) := by
  simp only [replayLatch, none]

/-- The island when DROWSE begins (R398). -/
def drowsing (a : Aon) : Aon :=
  { a with mode := .drowse, pwrDue := none, pwrLate := false, modeReq := none, armedLatch := false,
           lastTarget := .drowse, lastDetail := 0, latch := none }

theorem updAon_updAon (s : State) (f g : Aon → Aon) : updAon (updAon s f) g = updAon s (fun a => g (f a)) := rfl

theorem endCmd_updAon (s : State) (f : Aon → Aon) (ring : CmdRing) (index : Nat) (st : Status) (d : BitVec 16)
    (res : BitVec 320) : endCmd (updAon s f) ring index st d res = updAon (endCmd s ring index st d res) f := rfl

theorem enterDrowse_frame {s : State} {m : ModeReq} (target : m.target = .drowse) (none : s.aon.latch = none) :
    ∃ log dropped res, enterDrowse s m = updAon (endCmd
      { s with can := { s.can with log := log, logDropped := dropped } } m.ring m.index .ok 0 res) drowsing := by
  let drowse (a : Aon) : Aon := { a with pwrDue := .none, pwrLate := false, mode := .drowse }
  obtain ⟨log, dropped, logged⟩ := canLog_frame (s := updAon s drowse) (code := 5) (arg := 0xFFFF)
    (detail := s.herd.epoch)
  refine ⟨log, dropped, BitVec.ofNat 320 (s.herd.epoch % 2 ^ 48), ?_⟩
  show replayLatch (endMode (canLog (updAon s drowse) 5 0xFFFF s.herd.epoch) m .ok 0
    (BitVec.ofNat 320 (s.herd.epoch % 2 ^ 48))) = _
  generalize BitVec.ofNat 320 (s.herd.epoch % 2 ^ 48) = res
  have ends : endMode (canLog (updAon s drowse) 5 0xFFFF s.herd.epoch) m .ok 0 res = updAon (endCmd
      { s with can := { s.can with log := log, logDropped := dropped } } m.ring m.index .ok 0 res) (fun a =>
        { drowse a with modeReq := .none, armedLatch := false, lastTarget := .drowse, lastDetail := 0 }) := by
    rw [logged, endMode, target, ← endCmd_updAon]
    rfl
  rw [ends, replayLatch_none (by exact none), updAon_updAon]
  rfl

/-- Settles O53, command by command and phase by phase. -/
theorem modeEntries : Obligations.ModeEntries := by
  refine fun s runs => ⟨fun c turn code alone free mode fit => serve_enters turn code alone free mode fit,
    fun c turn code join => serve_joins turn code join, fun c turn code free mode => drowse_begins turn code free mode,
    fun c turn code free mode gather => retain_begins turn code free mode gather,
    fun m req phase done target => postedDrainDone_retain runs req phase done target,
    fun m req phase done target mode ack exit idle => drowse_awaitsRoot runs req phase done target mode ack exit idle,
    fun m req phase late idle started => drainTimeout_ends runs req phase late idle started,
    fun m req phase target fabric herd => quietReached_stops runs req phase target fabric herd,
    fun m req phase target mode exit asked want latch started => ?_⟩
  obtain ⟨log, dropped, res, enters⟩ := enterDrowse_frame (s := updAon s (fun a => { a with
    pwrReq := false, pwrAck := true })) target latch
  have run := pwrcAck_drowses req phase target mode exit asked want
  rw [enters] at run
  refine ⟨_, res, run, rfl, rfl, rfl, rfl, ended_endCmd_named started, onlyStarted_endCmd .., rfl⟩

end Sys2Proof.Proofs

/-! ## What counting leaves of the state (R279, R376, R377): a layer for the Dipper. -/

namespace Sys2Proof.Proofs
open Sys2Proof.Machine Sys2Proof.Safety

/-- `t` is `s` but for the values of the counters that `touch` names, their OVF bits, notices of wraps, and the links. -/
def Counted (touch : Nat → Prop) (s t : State) : Prop :=
  ∃ v o n r sp, t = { s with
      dip := { s.dip with value := v, ovf := o, noted := n }, spine := sp, herd := { s.herd with reports := r } } ∧
    (swf (fun _ => (0 : BitVec 48)) s.dip.value = true → swf (fun _ => (0 : BitVec 48)) v = true) ∧
    ∀ j, ¬touch j → sget (fun _ => (0 : BitVec 48)) v j = sget (fun _ => 0) s.dip.value j

section Counting
variable {touch : Nat → Prop}

theorem Counted.refl (s : State) : Counted touch s s := ⟨_, _, _, _, _, rfl, id, fun _ _ => rfl⟩

theorem Counted.trans {s t u : State} (first : Counted touch s t) (second : Counted touch t u) : Counted touch s u := by
  obtain ⟨v, o, n, r, sp, rfl, wf, kept⟩ := first
  obtain ⟨v', o', n', r', sp', rfl, wf', kept'⟩ := second
  exact ⟨v', o', n', r', sp', rfl, fun h => wf' (wf h), fun j out => (kept' j out).trans (kept j out)⟩

theorem counted_wrapNotice (s : State) (g : Nat) : Counted touch s (wrapNotice s g) := by
  unfold wrapNotice
  dsimp only
  split
  · exact ⟨_, _, _, _, _, rfl, id, fun _ _ => rfl⟩
  · exact Counted.refl s

/-- New values, and the notice of a wrap if there is one. -/
theorem counted_written {s : State} {v : Sparse (BitVec 48)} {o : Sparse Bool} (g : Nat) (wraps : Prop) [Decidable wraps]
    (wf : swf (fun _ => (0 : BitVec 48)) s.dip.value = true → swf (fun _ => (0 : BitVec 48)) v = true)
    (kept : ∀ j, ¬touch j → sget (fun _ => (0 : BitVec 48)) v j = sget (fun _ => 0) s.dip.value j) :
    Counted touch s (if wraps then wrapNotice (updDip s (fun d => { d with value := v, ovf := o })) g
      else updDip s (fun d => { d with value := v, ovf := o })) := by
  have new : Counted touch s (updDip s (fun d => { d with value := v, ovf := o })) := ⟨v, o, _, _, _, rfl, wf, kept⟩
  split
  · exact new.trans (counted_wrapNotice ..)
  · exact new

/-- Counting touches the counter, and of a pair that counts as one the other half. -/
theorem counted_bump {g : Nat} (own : touch g) (pair : g % 2 = 0 → touch (g + 1)) (s : State) (amt : Nat) :
    Counted touch s (bump s g amt) := by
  have one (x : BitVec 48) (v : Sparse (BitVec 48)) (j : Nat) (out : ¬touch j) :
      sget (fun _ => (0 : BitVec 48)) (sput (fun _ => 0) g x v) j = sget (fun _ => 0) v j :=
    sget_sput_ne _ _ _ _ _ fun same => out (by rw [same]; exact own)
  unfold bump
  split
  · exact Counted.refl s
  split
  · split
    · exact Counted.refl s
    · next even =>
      refine counted_written g _ (fun h => swf_sput _ _ _ _ (swf_sput _ _ _ _ h)) fun j out => ?_
      rw [sget_sput_ne _ _ _ _ _ fun same => out (by rw [same]; exact pair (by omega)), one _ _ j out]
  · exact counted_written g _ (fun h => swf_sput _ _ _ _ h) fun j out => one _ _ j out

/-- The fixed counter of a pool that is OFF counts alone or not at all: it is the odd half of its pair (R279). -/
theorem counted_accruePool (e : LinkEnd) (own : touch (ctrSpine e + 7)) (s : State) (now : Nat) :
    Counted touch s (accruePool s e now) := by
  unfold accruePool
  dsimp only
  split
  · exact (counted_bump own (fun even => by simp only [ctrSpine] at even; omega) s _).trans
      ⟨_, _, _, _, _, rfl, id, fun _ _ => rfl⟩
  · exact Counted.refl s

theorem counted_accrueUnit (u : CtrUnit) (own : ∀ e, u = .spine e → touch (ctrSpine e + 7)) (s : State) :
    Counted touch s (accrueUnit s u) := by
  cases u with
  | spine e => exact counted_accruePool e (own e rfl) s _
  | router r => exact Counted.refl s
  | ni n => exact Counted.refl s

theorem counted_accrueAt (r : RouterId) (own : ∀ e, hubAt e = r → touch (ctrSpine e + 7)) (s : State) :
    Counted touch s (accrueAt s r) := by
  unfold accrueAt
  have mem : ∀ e ∈ (List.finRange 12).filter (fun e => hubAt e == r), touch (ctrSpine e + 7) :=
    fun e mem => own e (by simpa using (List.mem_filter.mp mem).2)
  generalize (List.finRange 12).filter (fun e => hubAt e == r) = l at mem
  induction l generalizing s with
  | nil => exact Counted.refl s
  | cons e l ih =>
    exact (counted_accruePool e (mem e (by simp)) s _).trans (ih _ fun d hd => mem d (by simp [hd]))

/-- A router without link ends has no pool to count. -/
theorem accrueAt_none {r : RouterId} (none : ∀ e, hubAt e ≠ r) (s : State) : accrueAt s r = s := by
  have empty : (List.finRange 12).filter (fun e => hubAt e == r) = [] :=
    List.filter_eq_nil_iff.mpr fun e _ => by simpa using none e
  rw [accrueAt, empty, List.foldl_nil]

end Counting

/-! ### Counting looks neither at the routers nor at the shadows -/

/-- A state but for its routers and what the latch writes. -/
def sansLatch (s : State) : State :=
  { s with
    routers := State.reset.routers
    dip := { s.dip with shadow := [], shadowOvf := [], shadowSel := [], latched := tabAll 96 0 } }

theorem sansLatch_ite (p : Prop) [Decidable p] (s t : State) :
    sansLatch (if p then s else t) = if p then sansLatch s else sansLatch t := by split <;> rfl

theorem sansLatch_wrapNotice (s : State) (g : Nat) : sansLatch (wrapNotice s g) = wrapNotice (sansLatch s) g := by
  unfold wrapNotice
  exact sansLatch_ite ..

theorem sansLatch_bump (s : State) (g amt : Nat) : sansLatch (bump s g amt) = bump (sansLatch s) g amt := by
  unfold bump
  rw [sansLatch_ite, sansLatch_ite, sansLatch_ite]
  dsimp only
  rw [sansLatch_ite, sansLatch_ite, sansLatch_wrapNotice, sansLatch_wrapNotice]
  rfl

theorem sansLatch_accruePool (s : State) (e : LinkEnd) (now : Nat) :
    sansLatch (accruePool s e now) = accruePool (sansLatch s) e now := by
  unfold accruePool
  dsimp only
  rw [sansLatch_ite]
  refine ite_congr rfl (fun _ => ?_) fun _ => rfl
  exact congrArg (fun u => updE u e (fun x => { x with poolSince := now })) (sansLatch_bump ..)

theorem sansLatch_accrueAt (s : State) (r : RouterId) : sansLatch (accrueAt s r) = accrueAt (sansLatch s) r := by
  unfold accrueAt
  generalize (List.finRange 12).filter (fun e => hubAt e == r) = l
  induction l generalizing s with
  | nil => rfl
  | cons e l ih =>
    rw [List.foldl_cons, List.foldl_cons, ih, sansLatch_accruePool]
    rfl

/-- What counting makes of the values is settled by the state but for routers and shadows. -/
theorem accrueAt_value_congr {s u : State} (r : RouterId) (same : sansLatch u = sansLatch s) :
    (accrueAt u r).dip.value = (accrueAt s r).dip.value := by
  have value (w : State) : (accrueAt w r).dip.value = (accrueAt (sansLatch w) r).dip.value :=
    (congrArg (fun x : State => x.dip.value) (sansLatch_accrueAt w r) :)
  rw [value u, value s, same]

end Sys2Proof.Proofs

/-! ## Counter selections, latches and gathers (R378–R392): O52. -/

namespace Sys2Proof.Proofs
open Sys2Proof.Machine Sys2Proof.Safety

/-! ### Selections (R378) -/

section Selections
variable {s : State}

theorem dipSelData_sent {v : Word} {u : CtrUnit} (runs : herdRuns s = true) (busy : s.dip.busy = false)
    (unit : unitOf s.dip.selAddr.toNat = some u) (reach : selReaches s u = true) :
    exec (.dipSelData v) s = .next (updDip s (fun d => { d with
      sel := sput selReset d.selAddr.toNat (selWritten d.selAddr.toNat v) d.sel
      waiting := d.waiting ++ [(d.selAddr.toNat, selWritten d.selAddr.toNat v, tget s.epochs (clusterOf (unitRouter u)))]
      busy := true })) := by
  have counter : ¬3216 ≤ s.dip.selAddr.toNat := by
    intro past
    rw [unitOf, if_neg (by omega), if_neg (by omega), if_neg (by omega)] at unit
    cases unit
  show execDipSelData v s = _
  rw [execDipSelData, if_pos runs, writeSel, if_neg counter, if_neg (by simp [busy]), sendSel, unit]
  exact congrArg Host.Outcome.next (if_pos reach)

theorem dipSelData_busy {v : Word} (runs : herdRuns s = true) (busy : s.dip.busy = true)
    (counter : s.dip.selAddr.toNat < 3216) :
    exec (.dipSelData v) s = .next (updDip s (fun d => { d with dropped := true })) := by
  show execDipSelData v s = _
  rw [execDipSelData, if_pos runs, writeSel, if_neg (by omega), if_pos busy]

/-- With no sequence there is nothing to latch. -/
theorem latchCluster_none (seq : s.dip.seq = none) (c : ClusterId) : latchCluster s c = s := by
  unfold latchCluster
  generalize clusterRouters c = l
  have due (r : RouterId) : latchDue s r = none := by rw [latchDue, seq]
  induction l with
  | nil => rfl
  | cons r l ih =>
    rw [List.foldl_cons]
    simp only [due]
    exact ih

theorem selectionApply_one {u : CtrUnit} {g e : Nat} {w : BitVec 32}
    (runs : clusterRuns s (clusterOf (unitRouter u)) = true) (waits : s.dip.waiting = [(g, w, e)])
    (unit : unitOf g = some u) (ticked : e < tget s.epochs (clusterOf (unitRouter u))) (seq : s.dip.seq = none) :
    exec (.selectionApply u) s = .next (updDip (accrueUnit s u) (fun d =>
      { applySel d g w with waiting := [], busy := false })) := by
  obtain ⟨v, o, n, r, sp, frame, -⟩ := counted_accrueUnit (touch := fun _ => True) u (fun _ _ => trivial) s
  have mine : (unitOf g == some u && decide (e < tget s.epochs (clusterOf (unitRouter u)))) = true := by
    simp [unit, ticked]
  show execSelectionApply u s = _
  rw [execSelectionApply, if_pos runs, applySels]
  simp only [waits, List.any_cons, List.any_nil, mine, Bool.or_false, if_true, latchCluster_none seq]
  rw [frame]
  simp only [updDip, waits, List.filter_cons, mine, if_true, List.filter_nil, List.foldl_cons, List.foldl_nil, Bool.not_true,
    Bool.false_eq_true, if_false, List.isEmpty_nil]

theorem applySel_dip (d : Dipper) (g : Nat) (w : BitVec 32) :
    applySel d g w = { d with
      inForce := sput selReset g w d.inForce, value := (applySel d g w).value, ovf := (applySel d g w).ovf } := by
  unfold applySel
  dsimp only
  split <;> rfl

theorem sget_applySel {d : Dipper} {g : Nat} {w : BitVec 32} (wf : swf (fun _ => (0 : BitVec 48)) d.value = true) :
    sget (fun _ => (0 : BitVec 48)) (applySel d g w).value g = 0 ∧
    ∀ j, j ≠ g → j ≠ g + 1 → sget (fun _ => (0 : BitVec 48)) (applySel d g w).value j = sget (fun _ => 0) d.value j := by
  unfold applySel
  dsimp only
  split
  · refine ⟨?_, fun j other next => ?_⟩
    · exact (sget_sput_ne _ _ _ _ _ (by omega)).trans (sget_sput _ _ _ _ wf)
    · exact (sget_sput_ne _ _ _ _ _ next).trans (sget_sput_ne _ _ _ _ _ other)
  · exact ⟨sget_sput _ _ _ _ wf, fun j other _ => sget_sput_ne _ _ _ _ _ other⟩

theorem selection_applied {u : CtrUnit} {g e : Nat} {w : BitVec 32}
    (runs : clusterRuns s (clusterOf (unitRouter u)) = true) (waits : s.dip.waiting = [(g, w, e)])
    (unit : unitOf g = some u) (ticked : e < tget s.epochs (clusterOf (unitRouter u))) (seq : s.dip.seq = none)
    (wf : swf selReset s.dip.inForce = true) (wfv : swf (fun _ => (0 : BitVec 48)) s.dip.value = true) :
    ∃ t, exec (.selectionApply u) s = .next t ∧ sget selReset t.dip.inForce g = w ∧
      sget (fun _ => 0) t.dip.value g = 0 ∧
      (∀ j, j ≠ g → j ≠ g + 1 → sget (fun _ => 0) t.dip.value j =
        sget (fun _ => 0) (accrueUnit s u).dip.value j) ∧
      t.dip.waiting = [] ∧ t.dip.busy = false ∧ t.spine = (accrueUnit s u).spine ∧ onlyReports s t ∧
      t = { s with dip := t.dip, spine := t.spine, herd := t.herd } := by
  have run := selectionApply_one runs waits unit ticked seq
  obtain ⟨v, o, n, r, sp, frame, wfv', -⟩ := counted_accrueUnit (touch := fun _ => True) u (fun _ _ => trivial) s
  rw [frame] at run ⊢
  obtain ⟨zero, others⟩ := sget_applySel (d := { s.dip with value := v, ovf := o, noted := n }) (g := g) (w := w) (wfv' wfv)
  refine ⟨_, run, ?_, zero, others, rfl, rfl, rfl, rfl, rfl⟩
  show sget selReset (applySel _ g w).inForce g = w
  rw [applySel_dip]
  exact sget_sput _ _ _ _ wf

end Selections

/-! ### The counters of a router (R371, R380) -/

/-- The counters of the units at a router. -/
def countersAt (r : RouterId) : List Nat := (routerUnits r).flatMap unitCounters

theorem routerOf_slotAt (r : RouterId) : routerOf (slotAt r 0) = r ∧ routerOf (slotAt r 1) = r := by
  revert r; decide +kernel

theorem unitOf_of_mem {u : CtrUnit} {g : Nat} (mem : g ∈ unitCounters u) : unitOf g = some u := by
  cases u with
  | router r =>
    obtain ⟨i, lt, rfl⟩ : ∃ i < 16, ctrRouter r + i = g := by simpa [unitCounters] using mem
    have := r.isLt
    rw [unitOf, if_pos (by simp only [ctrRouter]; omega),
      show (ctrRouter r + i) / 16 = r.val by simp only [ctrRouter]; omega, Fin.ofNat_val_eq_self]
  | ni n =>
    obtain ⟨i, lt, rfl⟩ : ∃ i < 8, ctrNi n + i = g := by simpa [unitCounters] using mem
    have := n.isLt
    rw [unitOf, if_neg (by simp only [ctrNi]; omega), if_pos (by simp only [ctrNi]; omega),
      show (ctrNi n + i - 1536) / 8 = n.val by simp only [ctrNi]; omega, Fin.ofNat_val_eq_self]
  | spine e =>
    obtain ⟨i, lt, rfl⟩ : ∃ i < 12, ctrSpine e + i = g := by simpa [unitCounters] using mem
    have := e.isLt
    rw [unitOf, if_neg (by simp only [ctrSpine]; omega), if_neg (by simp only [ctrSpine]; omega),
      if_pos (by simp only [ctrSpine]; omega), show (ctrSpine e + i - 3072) / 12 = e.val by simp only [ctrSpine]; omega,
      Fin.ofNat_val_eq_self]

theorem unitRouter_of_mem {r : RouterId} {u : CtrUnit} (mem : u ∈ routerUnits r) : unitRouter u = r := by
  obtain ⟨first, second⟩ := routerOf_slotAt r
  simp only [routerUnits, List.mem_append, List.mem_cons, List.not_mem_nil, or_false, List.mem_map, List.mem_filter] at mem
  rcases mem with (rfl | rfl | rfl) | ⟨e, ⟨-, hub⟩, rfl⟩
  · rfl
  · exact first
  · exact second
  · exact beq_iff_eq.mp hub

/-- A counter is that of one router. -/
theorem not_mem_countersAt {r q : RouterId} {g : Nat} (mem : g ∈ countersAt r) (other : q ≠ r) : g ∉ countersAt q := by
  intro mem'
  obtain ⟨u, hu, hg⟩ := List.mem_flatMap.mp mem
  obtain ⟨u', hu', hg'⟩ := List.mem_flatMap.mp mem'
  have same : u = u' := Option.some.inj ((unitOf_of_mem hg).symm.trans (unitOf_of_mem hg'))
  exact other ((unitRouter_of_mem (same ▸ hu')).symm.trans (unitRouter_of_mem hu))

/-- A router that is no hub has no counters of links. -/
theorem countersAt_lt {r : RouterId} {g : Nat} (none : ∀ e, hubAt e ≠ r) (mem : g ∈ countersAt r) : g < 3072 := by
  obtain ⟨u, hu, hg⟩ := List.mem_flatMap.mp mem
  have unit := unitRouter_of_mem hu
  cases u with
  | router q =>
    obtain ⟨i, lt, rfl⟩ : ∃ i < 16, ctrRouter q + i = g := by simpa [unitCounters] using hg
    have := q.isLt
    simp only [ctrRouter]
    omega
  | ni n =>
    obtain ⟨i, lt, rfl⟩ : ∃ i < 8, ctrNi n + i = g := by simpa [unitCounters] using hg
    have := n.isLt
    simp only [ctrNi]
    omega
  | spine e => exact absurd unit (none e)

/-- A cluster holds at most one hub (R20, R26). -/
theorem hub_unique {e d : LinkEnd} (same : clusterOf (hubAt e) = clusterOf (hubAt d)) : hubAt e = hubAt d := by
  revert e d; decide +kernel

theorem clusterRouters_nodup (c : ClusterId) : (clusterRouters c).Nodup := by
  revert c; decide +kernel

/-! ### The latch (R380) -/

/-- A counter copies itself, its OVF and its selection. -/
def copyCtr (d : Dipper) (g : Nat) : Dipper :=
  { d with
    shadow := sput (fun _ => 0) g (sget (fun _ => 0) d.value g) d.shadow
    shadowOvf := sput (fun _ => false) g (sget (fun _ => false) d.ovf g) d.shadowOvf
    shadowSel := sput selReset g (sget selReset d.inForce g) d.shadowSel }

theorem copyCtrs_frame (l : List Nat) (d : Dipper) : ∃ sh so ss,
    l.foldl copyCtr d = { d with shadow := sh, shadowOvf := so, shadowSel := ss } ∧
    (swf (fun _ => (0 : BitVec 48)) d.shadow = true → swf (fun _ => (0 : BitVec 48)) sh = true ∧
      ∀ g ∈ l, sget (fun _ => (0 : BitVec 48)) sh g = sget (fun _ => 0) d.value g) ∧
    ∀ g ∉ l, sget (fun _ => (0 : BitVec 48)) sh g = sget (fun _ => 0) d.shadow g := by
  induction l generalizing d with
  | nil => exact ⟨_, _, _, rfl, fun wf => ⟨wf, by simp⟩, fun _ _ => rfl⟩
  | cons a l ih =>
    obtain ⟨sh, so, ss, frame, inside, outside⟩ := ih (copyCtr d a)
    refine ⟨sh, so, ss, frame, fun wf => ?_, fun g out => ?_⟩
    · obtain ⟨wf', read⟩ := inside (swf_sput _ _ _ _ wf)
      refine ⟨wf', fun g mem => ?_⟩
      by_cases later : g ∈ l
      · exact read g later
      · obtain rfl : g = a := (List.mem_cons.mp mem).resolve_right later
        exact (outside g later).trans (sget_sput _ _ _ _ wf)
    · obtain ⟨other, out⟩ := not_or.mp (mt List.mem_cons.mpr out)
      exact (outside g out).trans (sget_sput_ne _ _ _ _ _ other)

/-- The bandwidth window of a router closes (R387). -/
def closeWindow (x : Router) : Router :=
  { x with bwShadowIn := x.bwIn, bwShadowOut := x.bwOut, bwIn := tabAll 10 0, bwOut := tabAll 10 0 }

def latchStep (s : State) (r : RouterId) : State :=
  match latchDue s r with
  | some t => latchRouter s t r
  | none => s

theorem latchCluster_eq (s : State) (c : ClusterId) : latchCluster s c = (clusterRouters c).foldl latchStep s := rfl

theorem latchRouter_eq (s : State) (t : Nat) (r : RouterId) : latchRouter s t r =
    updR (updDip (accrueAt s r) (fun d => (countersAt r).foldl copyCtr { d with latched := tupd d.latched r (fun _ => t + 1) }))
      r closeWindow := rfl

/-- What latching changes at all, and what it leaves of router `r`. -/
structure Beside (r : RouterId) (s u : State) : Prop where
  frame : ∃ v o n sh so ss la rs ev sp, u = { s with
    dip := { s.dip with value := v, ovf := o, noted := n, shadow := sh, shadowOvf := so, shadowSel := ss, latched := la }
    routers := rs, spine := sp, herd := { s.herd with reports := ev } }
  latched : tget u.dip.latched r = tget s.dip.latched r
  router : rtr u r = rtr s r
  wf : swf (fun _ => (0 : BitVec 48)) s.dip.shadow = true → swf (fun _ => (0 : BitVec 48)) u.dip.shadow = true
  shadow : ∀ g ∈ countersAt r, sget (fun _ => (0 : BitVec 48)) u.dip.shadow g = sget (fun _ => 0) s.dip.shadow g
  value : ∀ j < 3072, sget (fun _ => (0 : BitVec 48)) u.dip.value j = sget (fun _ => 0) s.dip.value j

section Latch
variable {r : RouterId}

theorem Beside.refl (s : State) : Beside r s s :=
  ⟨⟨_, _, _, _, _, _, _, _, _, _, rfl⟩, rfl, rfl, id, fun _ _ => rfl, fun _ _ => rfl⟩

theorem Beside.trans {s t u : State} (first : Beside r s t) (second : Beside r t u) : Beside r s u := by
  refine ⟨?_, second.latched.trans first.latched, second.router.trans first.router, fun h => second.wf (first.wf h),
    fun g mem => (second.shadow g mem).trans (first.shadow g mem),
    fun j lt => (second.value j lt).trans (first.value j lt)⟩
  obtain ⟨v, o, n, sh, so, ss, la, rs, ev, sp, rfl⟩ := first.frame
  obtain ⟨v', o', n', sh', so', ss', la', rs', ev', sp', rfl⟩ := second.frame
  exact ⟨_, _, _, _, _, _, _, _, _, _, rfl⟩

/-- What the latch of one router makes of the state. -/
theorem latchRouter_frame (s : State) (t : Nat) (q : RouterId) : ∃ v o n sh so ss ev sp, latchRouter s t q = { s with
      dip := { s.dip with
        value := v, ovf := o, noted := n, shadow := sh, shadowOvf := so, shadowSel := ss
        latched := tupd s.dip.latched q (fun _ => t + 1) }
      routers := tupd s.routers q closeWindow, spine := sp, herd := { s.herd with reports := ev } } ∧
    (∀ j < 3072, sget (fun _ => (0 : BitVec 48)) v j = sget (fun _ => 0) s.dip.value j) ∧
    (swf (fun _ => (0 : BitVec 48)) s.dip.shadow = true → swf (fun _ => (0 : BitVec 48)) sh = true ∧
      ∀ g ∈ countersAt q, sget (fun _ => (0 : BitVec 48)) sh g = sget (fun _ => 0) (accrueAt s q).dip.value g) ∧
    ∀ g ∉ countersAt q, sget (fun _ => (0 : BitVec 48)) sh g = sget (fun _ => 0) s.dip.shadow g := by
  obtain ⟨v, o, n, ev, sp, frame, -, kept⟩ := counted_accrueAt (touch := fun j => 3072 ≤ j) q
    (fun e _ => by simp only [ctrSpine]; omega) s
  obtain ⟨sh, so, ss, copies, inside, outside⟩ := copyCtrs_frame (countersAt q)
    { s.dip with value := v, ovf := o, noted := n, latched := tupd s.dip.latched q (fun _ => t + 1) }
  rw [latchRouter_eq, frame]
  refine ⟨v, o, n, sh, so, ss, ev, sp, ?_, fun j lt => kept j (by omega), inside, outside⟩
  simp only [updDip, updR, copies]

theorem beside_latchStep {q : RouterId} (other : q ≠ r) (s : State) : Beside r s (latchStep s q) := by
  unfold latchStep
  split
  · obtain ⟨v, o, n, sh, so, ss, ev, sp, frame, value, inside, outside⟩ := latchRouter_frame s _ q
    rw [frame]
    exact ⟨⟨_, _, _, _, _, _, _, _, _, _, rfl⟩, tget_tupd_ne _ _ _ _ other, tget_tupd_ne _ _ _ _ other,
      fun wf => (inside wf).1, fun g mem => outside g (not_mem_countersAt mem other), value⟩
  · exact Beside.refl s

theorem beside_latchSteps {l : List RouterId} (out : r ∉ l) (s : State) : Beside r s (l.foldl latchStep s) := by
  induction l generalizing s with
  | nil => exact Beside.refl s
  | cons q l ih =>
    obtain ⟨other, out⟩ := not_or.mp (mt List.mem_cons.mpr out)
    exact (beside_latchStep (Ne.symm other) s).trans (ih out _)

/-- The latch of a router that is no hub counts nothing. -/
theorem sansLatch_latchSteps {l : List RouterId} (noHub : ∀ q ∈ l, ∀ e, hubAt e ≠ q) (s : State) :
    sansLatch (l.foldl latchStep s) = sansLatch s := by
  induction l generalizing s with
  | nil => rfl
  | cons q l ih =>
    refine (ih (fun p mem => noHub p (by simp [mem])) _).trans ?_
    unfold latchStep
    split
    · next t _ =>
      rw [latchRouter_eq, accrueAt_none (noHub q (by simp))]
      obtain ⟨sh, so, ss, copies, -⟩ := copyCtrs_frame (countersAt q) { s.dip with
        latched := tupd s.dip.latched q (fun _ => t + 1) }
      simp only [updDip, copies]
      rfl
    · rfl

/-- What the other routers of its cluster have latched before does not change what a router's counters hold. -/
theorem accrueAt_value_beside {c : ClusterId} {before : List RouterId} (own : clusterOf r = c)
    (others : ∀ q ∈ before, clusterOf q = c ∧ q ≠ r) {s : State} {g : Nat} (mem : g ∈ countersAt r)
    (beside : Beside r s (before.foldl latchStep s)) :
    sget (fun _ => (0 : BitVec 48)) (accrueAt (before.foldl latchStep s) r).dip.value g =
      sget (fun _ => 0) (accrueAt s r).dip.value g := by
  by_cases hub : ∃ e, hubAt e = r
  · obtain ⟨e, hub⟩ := hub
    rw [accrueAt_value_congr r (sansLatch_latchSteps (fun q hq d hd => ?_) s)]
    obtain ⟨same, other⟩ := others q hq
    refine other (hd.symm.trans ((hub_unique ?_).trans hub))
    rw [hd, hub, same, own]
  · have none (e : LinkEnd) : hubAt e ≠ r := fun h => hub ⟨e, h⟩
    rw [accrueAt_none none, accrueAt_none none]
    exact beside.value g (countersAt_lt none mem)

theorem snapshot_latched {s : State} {c : ClusterId} {q : SnapSeq} {g : Nat} (runs : clusterRuns s c = true)
    (seq : s.dip.seq = some q) (own : clusterOf r = c) (armed : armedFor q r (epochR s r) = true)
    (fresh : tget s.dip.latched r ≠ epochR s r + 1) (mem : g ∈ countersAt r)
    (wf : swf (fun _ => (0 : BitVec 48)) s.dip.shadow = true) :
    ∃ t, exec (.snapshotLatch c) s = .next t ∧
      sget (fun _ => 0) t.dip.shadow g = sget (fun _ => 0) (accrueAt s r).dip.value g ∧
      tget t.dip.latched r = epochR s r + 1 ∧
      (∀ j, j < 3072 → sget (fun _ => 0) t.dip.value j = sget (fun _ => 0) s.dip.value j) ∧
      (rtr t r).bwShadowIn = (rtr s r).bwIn ∧ (rtr t r).bwIn = tabAll 10 0 ∧ onlyReports s t ∧
      t = { s with dip := t.dip, routers := t.routers, spine := t.spine, herd := t.herd } := by
  obtain ⟨before, after, split⟩ := List.append_of_mem ((mem_clusterRouters r c).mpr own)
  have nodup := clusterRouters_nodup c
  rw [split, List.nodup_append] at nodup
  obtain ⟨-, nodup, disjoint⟩ := nodup
  have outBefore : r ∉ before := fun h => disjoint r h r (by simp) rfl
  have outAfter : r ∉ after := (List.nodup_cons.mp nodup).1
  have others (p : RouterId) (hp : p ∈ before) : clusterOf p = c ∧ p ≠ r :=
    ⟨(mem_clusterRouters p c).mp (by rw [split]; exact List.mem_append_left _ hp), fun h => outBefore (h ▸ hp)⟩
  have first := beside_latchSteps outBefore s
  have counts := accrueAt_value_beside own others mem first
  have run : exec (.snapshotLatch c) s = .next (after.foldl latchStep (latchStep (before.foldl latchStep s) r)) := by
    show execSnapshotLatch c s = _
    rw [execSnapshotLatch, if_pos runs, latchCluster_eq, split, List.foldl_append, List.foldl_cons]
  generalize before.foldl latchStep s = u at first counts run
  have due : latchDue u r = some (epochR s r) := by
    have latched := first.latched
    obtain ⟨v, o, n, sh, so, ss, la, rs, ev, sp, rfl⟩ := first.frame
    replace latched : tget la r = tget s.dip.latched r := latched
    rw [latchDue]
    simp only [seq]
    exact if_pos (by rw [latched]; simp only [Bool.and_eq_true, bne_iff_ne]; exact ⟨armed, fresh⟩)
  obtain ⟨v, o, n, sh, so, ss, ev, sp, own', value, inside, -⟩ := latchRouter_frame u (epochR s r) r
  rw [show latchStep u r = latchRouter u (epochR s r) r by rw [latchStep, due], own'] at run
  have last := beside_latchSteps outAfter { u with
    dip := { u.dip with
      value := v, ovf := o, noted := n, shadow := sh, shadowOvf := so, shadowSel := ss
      latched := tupd u.dip.latched r (fun _ => epochR s r + 1) }
    routers := tupd u.routers r closeWindow, spine := sp, herd := { u.herd with reports := ev } }
  have window : rtr (after.foldl latchStep _) r = closeWindow (rtr s r) :=
    last.router.trans ((tget_tupd ..).trans (congrArg closeWindow first.router))
  refine ⟨_, run, ?_, ?_, fun j lt => ?_, ?_, ?_, ?_, ?_⟩
  · exact (last.shadow g mem).trans (((inside (first.wf wf)).2 g mem).trans counts)
  · exact last.latched.trans (tget_tupd ..)
  · exact (last.value j lt).trans ((value j lt).trans (first.value j lt))
  · rw [window]; rfl
  · rw [window]; rfl
  · obtain ⟨v', o', n', sh', so', ss', la', rs', ev', sp', last⟩ := last.frame
    obtain ⟨v'', o'', n'', sh'', so'', ss'', la'', rs'', ev'', sp'', first⟩ := first.frame
    rw [last, first]
    rfl
  · obtain ⟨v', o', n', sh', so', ss', la', rs', ev', sp', last⟩ := last.frame
    obtain ⟨v'', o'', n'', sh'', so'', ss'', la'', rs'', ev'', sp'', first⟩ := first.frame
    rw [last, first]

end Latch

/-! ### Gathers (R384, R385, R386) -/

section Gather
variable {s : State} {q : SnapSeq} {e : Nat} (runs : herdRuns s = true) (seq : s.dip.seq = some q)
include runs seq

theorem gather_begins (free : s.dip.gather = none) (due : q.next ≤ s.herd.epoch) :
    exec .dipperGather s = .next (updDip (memWrites s
      ((if q.user then [] else writeHalf s q q.next s.dip.qPriv s.dip.privBase false 0) ++
        writeHalf s q q.next s.dip.qUser s.dip.userBase true s.dip.userCtl)) (fun d => { d with
      gather := some (q.next, false), gatherAcks := 0, gatherFail := false, gBase := (d.privBase, d.userBase, d.userCtl)
      qPriv := if q.user then d.qPriv else d.qPriv + 1, qUser := d.qUser + 1, restarted := [] })) := by
  show execDipperGather s = _
  simp only [execDipperGather, seq, free]
  exact congrArg Host.Outcome.next (if_pos (by simp [runs, due]))

section Publish
variable {closing : Bool} (gather : s.dip.gather = some (e, closing)) (due : e + 6 ≤ s.herd.epoch)
  (early : s.herd.epoch < e + 8) (good : s.dip.gatherFail = false) (acks : s.dip.gatherAcks = gatherHalves q)
include gather due early good acks

theorem publish_runs : exec .dipperPublish s = .next (if closing then
      gatherOver (updDip s (fun d => { d with
        privSeq := if q.user then d.privSeq else BitVec.ofNat 32 (d.qPriv - 1)
        userSeq := BitVec.ofNat 16 (d.qUser - 1) })) false
    else updDip (memWrites s
      ((if q.user then [] else [closeHalf s q e (s.dip.qPriv - 1) s.dip.gBase.1 false 0]) ++
        [closeHalf s q e (s.dip.qUser - 1) s.dip.gBase.2.1 true s.dip.gBase.2.2]))
      (fun d => { d with gather := some (e, true), gatherAcks := 0 })) := by
  show execDipperPublish s = _
  simp only [execDipperPublish, seq, gather]
  exact congrArg Host.Outcome.next (if_pos (by simp [runs, due, early, good, acks]))

end Publish

omit seq in
theorem abandon_runs {b : Bool} (gather : s.dip.gather = some (e, b)) (fails : s.dip.gatherFail = true ∨ e + 8 ≤ s.herd.epoch) :
    exec .gatherAbandon s = .next (gatherOver s true) := by
  have fails' : (s.dip.gatherFail || decide (e + 8 ≤ s.herd.epoch)) = true := by simpa using fails
  show execGatherAbandon s = _
  simp only [execGatherAbandon, gather]
  exact congrArg Host.Outcome.next (if_pos (by simp [runs, fails']))

omit runs in
/-- After a gather that is not its last a sequence goes on (R381). -/
theorem gatherOver_more (abandoned : Bool) (going : q.stop = false) (more : q.done + 1 < q.repeats) :
    gatherOver s abandoned = updDip (dropGather s) (fun d => { d with
      gather := none
      seq := some { q with
        done := q.done + 1, abandoned := q.abandoned + abandoned.toNat, next := q.next + q.interval } }) := by
  have seq' : (dropGather s).dip.seq = some q := seq
  simp only [gatherOver, seq', going]
  rw [if_neg Bool.false_ne_true, if_neg (by omega)]

omit runs in
theorem gatherOver_last (going : q.stop = false) (last : q.repeats ≤ q.done + 1) :
    gatherOver s false = endCmd (updDip (dropGather s) (fun d => { d with gather := none, seq := none })) q.ring q.index
      (if q.abandoned = 0 then .ok else .poison) (BitVec.ofNat 16 (min 65535 q.abandoned)) (BitVec.ofNat 320 q.first) := by
  have seq' : (dropGather s).dip.seq = some q := seq
  simp only [gatherOver, seq', going]
  rw [if_neg Bool.false_ne_true, if_pos last]
  rfl

end Gather

/-- Settles O52, clause by clause: a selection's counter starts again, a latch copies the counters of its routers and
touches no other shadow, and a gather writes, closes and ends. -/
theorem dipperWorks : Obligations.DipperWorks := by
  refine fun s => ⟨fun v u runs busy unit reach wf => ?_, fun v runs busy counter => dipSelData_busy runs busy counter,
    fun u g e w runs waits unit ticked seq wf wfv => selection_applied runs waits unit ticked seq wf wfv,
    fun c q r g runs seq own armed fresh mem wf => snapshot_latched runs seq own armed fresh mem wf,
    fun q runs seq free due => ⟨_, gather_begins runs seq free due, rfl, rfl, rfl, rfl, rfl, rfl, rfl, rfl⟩,
    fun q e runs seq gather due early good acks =>
      ⟨_, publish_runs runs seq gather due early good acks, rfl, rfl, rfl⟩,
    fun q e runs seq gather due early good acks going => ?_,
    fun q b e runs seq gather fails going more =>
      ⟨_, (abandon_runs runs gather fails).trans (congrArg _ (gatherOver_more seq true going more)), rfl, rfl, rfl⟩,
    fun v runs => ⟨congrArg _ (if_pos runs), congrArg _ (if_pos runs), congrArg _ (if_pos runs),
      congrArg _ (if_pos runs)⟩⟩
  · exact ⟨_, _, dipSelData_sent runs busy unit reach, sget_sput _ _ _ _ wf, fun g other => sget_sput_ne _ _ _ _ _ other,
      rfl, rfl, rfl, rfl⟩
  · have run := publish_runs runs seq gather due early good acks
    rw [if_pos rfl] at run
    by_cases more : q.done + 1 < q.repeats
    · rw [gatherOver_more (by exact seq) false going more] at run
      exact ⟨_, run, rfl, rfl, fun priv => if_neg (by simp [priv]), fun _ => ⟨rfl, rfl⟩, fun last => absurd more (by omega),
        rfl⟩
    · rw [gatherOver_last (by exact seq) going (by omega)] at run
      refine ⟨_, run, rfl, rfl, fun priv => if_neg (by simp [priv]), fun h => absurd h more, fun _ => ⟨rfl,
        onlyStarted_endCmd .., fun started none => ?_⟩, rfl⟩
      rw [none]
      exact ended_endCmd_named started

end Sys2Proof.Proofs

/-! ## What the work of one NI leaves alone: one rule for each operation of an NI. -/
namespace Sys2Proof.Proofs
open Sys2Proof.Machine Sys2Proof.Safety

/-- A view of the state, named so that rewriting finds the state that is viewed. -/
def view {α : Type} (P : State → α) (s : State) : α := P s

/-- A view that events, counting and tallies leave alone. -/
class Unaware {α : Type} (P : State → α) : Prop where
  event : ∀ s ev, P (report s ev) = P s
  count : ∀ s v o k, P (updDip s (fun d => { d with value := v, ovf := o, noted := k })) = P s
  tally : ∀ s l, P (updCan s (fun c => { c with lanes := l })) = P s

/-- A view in which NI `n` does not show. -/
class Besides {α : Type} (n : Slot) (P : State → α) : Prop where
  node : ∀ s f, P (updN s n f) = P s

section Layer
variable {α : Type} {P : State → α} {s : State}

@[simp] theorem view_ite {c : Prop} [Decidable c] {a b : State} :
    view P (if c then a else b) = if c then view P a else view P b := apply_ite ..

@[simp] theorem view_foldl {β : Type} {f : State → β → State} {l : List β} (step : ∀ s x, view P (f s x) = view P s) :
    view P (l.foldl f s) = view P s := by
  induction l generalizing s with
  | nil => rfl
  | cons x l ih => exact ih.trans (step s x)

@[simp] theorem view_foldl_fst {β γ : Type} {f : State × γ → β → State × γ} {l : List β} {p : State × γ}
    (step : ∀ p x, view P (f p x).1 = view P p.1) : view P (l.foldl f p).1 = view P p.1 := by
  induction l generalizing p with
  | nil => rfl
  | cons x l ih => exact ih.trans (step p x)

section Counting
variable [Unaware P]

@[simp] theorem view_report (ev : Event) : view P (report s ev) = view P s := Unaware.event (P := P) s ev

theorem view_updLanes (l : Vector TallyLane 32) : view P (updCan s (fun c => { c with lanes := l })) = view P s :=
  Unaware.tally (P := P) s l

theorem view_wrapNotice (g : Nat) : view P (wrapNotice s g) = view P s := by
  unfold wrapNotice
  dsimp only
  split
  · exact (Unaware.event (P := P) _ _).trans (Unaware.count (P := P) s _ _ _)
  · rfl

theorem view_written {v : Sparse (BitVec 48)} {o : Sparse Bool} (g : Nat) (wraps : Prop) [Decidable wraps] :
    view P (if wraps then wrapNotice (updDip s (fun d => { d with value := v, ovf := o })) g
      else updDip s (fun d => { d with value := v, ovf := o })) = view P s := by
  rw [view_ite, view_wrapNotice, ite_self]
  exact Unaware.count (P := P) s v o s.dip.noted

@[simp] theorem view_bump (g amt : Nat) : view P (bump s g amt) = view P s := by
  unfold bump
  split
  · rfl
  split
  · split
    · rfl
    · exact view_written ..
  · exact view_written ..

/-! ### Events, counts and tallies -/

@[simp] theorem view_repNi (n : Slot) (code : EventCode) (detail record : Nat) :
    view P (repNi s n code detail record) = view P s := view_report _

@[simp] theorem view_repCurd (n : Slot) (ev : EventCode) (g : GroupId) (src l : Nat) :
    view P (repCurd s n ev g src l) = view P s := view_report _

@[simp] theorem view_repRouter (r : RouterId) (code : EventCode) (detail record : Nat) :
    view P (repRouter s r code detail record) = view P s := view_report _

@[simp] theorem view_countN (n : Slot) (code : Nat) (vc : Option Nat) (cls : Option Cls) (amt : Nat) :
    view P (countN s n code vc cls amt) = view P s := by
  simp [countN]

@[simp] theorem view_countNFix (n : Slot) (j amt : Nat) : view P (countNFix s n j amt) = view P s := view_bump ..

@[simp] theorem view_putTally (n : Slot) (inb : Bool) (words : List (BitVec 24)) : view P (putTally s n inb words) = view P s := by
  unfold putTally
  split
  · exact view_updLanes (tupd s.can.lanes (laneOf n inb) (fun l => { l with fifo := l.fifo ++ words }))
  · rfl

@[simp] theorem view_logLocalParities (n : Slot) (h : Flit) (bad : List Nat) : view P (logLocalParities s n h bad) = view P s :=
  view_foldl fun _ _ => view_repRouter ..

@[simp] theorem view_gateRecord (n : Slot) (outb : Bool) (h : Flit) (dest : Nat) (kind : GKind) (ans : List (Nat × Nat × GAns)) :
    view P (gateRecord s n outb h dest kind ans) = view P s := by
  unfold gateRecord
  dsimp only
  split
  · rfl
  · simp

@[simp] theorem view_logStep3 (n : Slot) (op : BitVec 6) (fetch : Bool) (h : Flit) (pieces : List (List LineChk)) :
    view P (logStep3 s n op fetch h pieces) = view P s := by
  refine view_foldl fun u p => ?_
  dsimp only
  rw [view_foldl, view_gateRecord]
  intro t c
  split
  · rfl
  split
  · simp
  · split <;> simp

end Counting

/-! ### Packets, the request store and the local port -/

section Node
variable {n : Slot} [Besides n P]

@[simp] theorem view_updN (f : NI → NI) : view P (updN s n f) = view P s := Besides.node (P := P) s f

@[simp] theorem view_errRec (kind : BitVec 3) (st : Status) (op : BitVec 6) :
    view P (errRec s n kind st op) = view P s := view_updN _

@[simp] theorem view_noteMeter (i : Nat) (m : Metered) : view P (noteMeter s n i m) = view P s := view_updN _

variable [Unaware P]

@[simp] theorem view_refuseMalformed (op : BitVec 6) (pkt : Packet) (tagOurs : Bool) :
    view P (refuseMalformed s n op pkt tagOurs) = view P s := by
  simp [refuseMalformed]

@[simp] theorem view_checkOut (pkt : Packet) (quiet : List Nat) : view P (checkOut s n pkt quiet).1 = view P s := by
  refine view_foldl_fst (p := (s, [])) fun acc q => ?_
  dsimp only
  rw [view_foldl fun _ _ => by simp]
  simp

@[simp] theorem view_checkIn (pkt : Packet) : view P (checkIn s n pkt).1 = view P s := by
  simp [checkIn]

@[simp] theorem view_abandon : view P (abandon s n) = view P s := by
  unfold abandon
  dsimp only
  split <;> simp

@[simp] theorem view_gateEccLog : view P (gateEccLog s n) = view P s := by
  simp [gateEccLog]

@[simp] theorem view_checkOperand (op : BitVec 6) (pkt : Packet) : view P (checkOperand s n op pkt).1 = view P s := by
  unfold checkOperand
  dsimp only
  (repeat' split) <;> simp

@[simp] theorem view_enterStore (op : BitVec 6) (fetch : Bool) (pkt : Packet) (tagFree : Bool) (parity : List Nat) :
    view P (enterStore s n op fetch pkt tagFree parity) = view P s := by
  simp [enterStore]

@[simp] theorem view_drawBody (flits : Packet) : view P (drawBody s n flits) = view P s := by
  unfold drawBody
  dsimp only
  (repeat' split) <;> simp

@[simp] theorem view_drawHead (op : BitVec 6) (fetch : Bool) (pkt : Packet) :
    view P (drawHead s n op fetch pkt) = view P s := by
  simp [drawHead, logLocalParity]

@[simp] theorem view_drawFlits (c : FifoFlits) : view P (drawFlits s n c) = view P s := by
  simp [drawFlits]

end Node
end Layer

/-! ### A state without what an NI changes -/

/-- A state but for what NI `n` changes by its own work: itself, events handed over, counts and tally words. -/
def sansNi (n : Slot) (s : State) : State :=
  { s with
    nis := tupd s.nis n (fun _ => NI.reset0), herd := { s.herd with reports := [] }
    dip := { s.dip with value := [], ovf := [], noted := [] }, can := { s.can with lanes := Can.reset.lanes } }

theorem besides_sansNi (n : Slot) : Besides n (sansNi n) :=
  ⟨fun s f => by simp only [sansNi, updN, tupd_tupd]⟩

end Sys2Proof.Proofs

/-! ## What an NI's request store leaves alone (R109–R112). -/

namespace Sys2Proof.Proofs
open Sys2Proof.Machine Sys2Proof.Safety

/-- A view in which what the request store of NI `n` does beyond the NI does not show: flow words written again, and at
NI 188 the accesses of the Herdsman. -/
class Stored {α : Type} (n : Slot) (P : State → α) : Prop where
  repaired : ∀ s k, P (clearBad s (.ni n) k) = P s
  herd : n = herdSlot → ∀ s m b, P (updHerd s (fun h => { h with memOut := m, memBusy := b })) = P s
  ended : n = herdSlot → ∀ s tag st l, P (memAnswer s tag st l) = P s

/-- A view in which what the Can has for its NI does not show (R364). -/
class Fed {α : Type} (n : Slot) (P : State → α) : Prop where
  can : n = canSlot → ∀ s m t, P (updCan s (fun c => { c with memOut := m, tag := t })) = P s

@[simp] theorem turnState_done (s : State) : turnState (.done s) = s := rfl

@[simp] theorem turnState_wait (s : State) : turnState (.wait s) = s := rfl

@[simp] theorem turnState_hold (s : State) : turnState (.hold s) = s := rfl

@[simp] theorem turnState_pass (s : State) : turnState (.pass s) = s := rfl

@[simp] theorem turnState_ite (c : Prop) [Decidable c] (a b : Turn) :
    turnState (if c then a else b) = if c then turnState a else turnState b := apply_ite ..

section Store
variable {α : Type} {P : State → α} {s : State} {n : Slot} [Unaware P] [Besides n P] [Stored n P]

omit [Unaware P] [Besides n P] in
@[simp] theorem view_clearBad (k : WordKind) : view P (clearBad s (.ni n) k) = view P s :=
  Stored.repaired (P := P) s k

@[simp] theorem view_meterEcc (tenant : Fin 4096) : view P (meterEcc s n tenant) = view P s := by
  simp [meterEcc]

@[simp] theorem view_meterReq (tenant : Fin 4096) (askB : Bool) (b : Nat) :
    view P (meterReq s n tenant askB b).2 = view P s := by
  unfold meterReq
  dsimp only
  (repeat' split) <;> simp

@[simp] theorem view_stepFour (op : BitVec 6) (h : Flit) (verdict : Metered) (lines : Nat) :
    view P (stepFour s n op h verdict lines).2 = view P s := by
  unfold stepFour
  split
  · rfl
  · rfl
  · split
    · exact view_meterReq ..
    · rfl

omit [Unaware P] in
@[simp] theorem view_endRefused (op : BitVec 6) (h : Flit) (codes : List Status) (whole : Status) :
    view P (endRefused s n op h codes whole) = view P s := by
  unfold endRefused
  dsimp only
  split
  · rw [view_errRec]
    split
    · next own => exact (Stored.ended (P := P) own _ _ _ _).trans (view_updN _)
    · exact view_updN _
  · rw [view_updN, view_updN]

omit [Unaware P] [Besides n P] in
theorem view_memAccepted (own : n = herdSlot) (tag req pieces : Nat) (codes : List Status) :
    view P (memAccepted s tag req pieces codes) = view P s :=
  Stored.herd (P := P) own s s.herd.memOut _

/-! ### The requests of the store -/

omit [Stored n P] in
theorem view_turnFence (e : PendReq) (first : Bool) : view P (turnState (turnFence s n e first)) = view P s := by
  unfold turnFence
  dsimp only
  split <;> simp

omit [Stored n P] in
theorem view_turnClose (e : PendReq) (first : Bool) : view P (turnState (turnClose s n e first)) = view P s := by
  unfold turnClose
  dsimp only
  (repeat' split) <;> simp

theorem view_turnLines (i : Nat) (e : PendReq) : view P (turnState (turnLines s n i e)) = view P s := by
  have step (op : BitVec 6) (h : Flit) (lines : Nat) {m : MeterOut} {u : State}
      (four : stepFour (gateEccLog s n) n op h e.metered lines = (m, u)) : view P u = view P s := by
    have := view_stepFour (P := P) (s := gateEccLog s n) (n := n) op h e.metered lines
    rwa [four, view_gateEccLog] at this
  unfold turnLines
  dsimp only
  split
  · simp
  · split
    · next u four => exact step _ _ _ four
    · next u four => simp [step _ _ _ four]
    · next c u four =>
      simp only [turnState_ite, view_ite, turnState_pass, turnState_wait, turnState_done, view_countN, view_noteMeter,
        view_updN, step _ _ _ four]
      refine ite_eq_left_iff.mpr fun _ => ite_eq_left_iff.mpr fun _ => ?_
      split
      · next own =>
        simp only [Bool.and_eq_true, decide_eq_true_eq] at own
        rw [view_memAccepted own.1]
        simp [step _ _ _ four]
      · simp [step _ _ _ four]

theorem view_turnOf (i : Nat) (e : PendReq) : view P (turnState (turnOf s n i e)) = view P s := by
  unfold turnOf
  split
  · simp
  split
  · exact view_turnFence ..
  split
  · exact view_turnClose ..
  · exact view_turnLines ..

@[simp] theorem view_processFrom (fuel i : Nat) : view P (processFrom fuel s n i) = view P s := by
  induction fuel generalizing s i with
  | zero => rfl
  | succ fuel ih =>
    unfold processFrom
    dsimp only
    split
    · rfl
    split
    · rfl
    · next e _ =>
      have turn := view_turnOf (P := P) (s := s) (n := n) i e
      split
      · split
        · rfl
        · rw [ih, view_noteMeter]
      split
      · exact ih ..
      · split <;> next out =>
          rw [out] at turn
          simp_all

@[simp] theorem view_processOnce : view P (processOnce s n) = view P s := view_processFrom ..

@[simp] theorem view_drawFifo (fuel : Nat) : view P (drawFifo fuel s n) = view P s := by
  induction fuel generalizing s with
  | zero => rfl
  | succ fuel ih =>
    unfold drawFifo
    dsimp only
    split
    · rfl
    split
    · rw [ih]
      simp
    · rfl

theorem view_feedHerd (own : n = herdSlot) (fuel : Nat) : view P (feedHerd fuel s) = view P s := by
  subst own
  induction fuel generalizing s with
  | zero => rfl
  | succ fuel ih =>
    unfold feedHerd
    split
    · dsimp only
      split
      · rfl
      · rw [ih, view_drawFifo, view_updN]
        exact Stored.herd (P := P) rfl s _ _
    · rfl

variable [Fed n P]

theorem view_feedCan (own : n = canSlot) (fuel : Nat) : view P (feedCan fuel s) = view P s := by
  subst own
  induction fuel generalizing s with
  | zero => rfl
  | succ fuel ih =>
    unfold feedCan
    split
    · split
      · rfl
      · dsimp only
        rw [ih, view_drawFifo, view_updN]
        exact Fed.can (P := P) rfl s _ _
    · rfl

@[simp] theorem view_processStore : view P (processStore s n) = view P s := by
  unfold processStore
  dsimp only
  split
  · rfl
  split
  · next own => rw [view_feedHerd own, view_drawFifo, view_processOnce]
  split
  · next own => rw [view_feedCan own, view_drawFifo, view_processOnce]
  · rw [view_drawFifo, view_processOnce]

@[simp] theorem view_resumeStore : view P (resumeStore s n) = view P s := by
  simp [resumeStore]

end Store

end Sys2Proof.Proofs

/-! ## Tallies and reports (R354–R364): O50. -/

namespace Sys2Proof.Proofs
open Sys2Proof.Machine Sys2Proof.Safety

/-! ### Tally words and markers (R354, R355, R356) -/

/-- Storing units changes the counters alone. -/
theorem storeUnits_frame (c : Can) (past : Bool) (l : List (Nat × Nat × Nat)) : ∃ ctrs held,
    l.foldl (fun d e => storeUnits d past e) c = { c with counters := ctrs, held := held } := by
  induction l generalizing c with
  | nil => exact ⟨_, _, rfl⟩
  | cons e l ih => exact ih (storeUnits c past e)

theorem flushLane_frame (c : Can) (l : LaneId) : ∃ ctrs held, flushLane c l = { c with
    counters := ctrs, held := held, lanes := tupd c.lanes l (fun x => { x with combiner := [] }) } := by
  obtain ⟨ctrs, held, frame⟩ := storeUnits_frame c (pastBoundary c l) (tget c.lanes l).combiner
  exact ⟨ctrs, held, by rw [flushLane, frame]⟩

theorem tupd_congr {α : Type} {k : Nat} {v : Vector α k} {i : Fin k} {f g : α → α} (same : f (tget v i) = g (tget v i)) :
    tupd v i f = tupd v i g := by
  simp only [tupd, tget] at same ⊢
  rw [same]

/-- A lane whose combiner holds one entry. -/
def merged (e : Nat × Nat × Nat) (x : TallyLane) : TallyLane := { x with combiner := [e] }

/-- The lane after its front word has left its FIFO (R352). -/
def popped (x : TallyLane) (rest : List (BitVec 24)) : TallyLane := { x with fifo := rest }.fill

/-- The Can after that word has reached it, before it is looked at. -/
def wordTaken (s : State) (l : LaneId) (rest : List (BitVec 24)) : State :=
  updCan s (fun c => { c with mclkLost := false, lanes := tupd c.lanes l (fun x => popped x rest) })

section Lane
variable {s : State} {l : LaneId} {raw dist : BitVec 24} {rest : List (BitVec 24)} (runs : canRuns s = true)
  (front : (tget s.can.lanes l).fifo = raw :: rest)
include runs front

theorem takeLane_reads {marker : Bool} (kind : (field raw 0 7 == 0) = marker) : takeLane s l marker dist =
    (if parity (raw ^^^ dist) then
      canEvent (badTally (wordTaken s l rest) l (raw ^^^ dist)) .meterTallyParity l.val (raw ^^^ dist).toNat
    else if field (raw ^^^ dist) 0 7 = 0 then takeMarker (wordTaken s l rest) l (raw ^^^ dist)
    else if measured (wordTaken s l rest).can l &&
        (tmapOf (wordTaken s l rest).can.tmap (field (raw ^^^ dist) 11 12)).getLsbD 15 then
      updCan (wordTaken s l rest) (fun c => combine c l (field (raw ^^^ dist) 11 12) (field (raw ^^^ dist) 8 3)
        (field (raw ^^^ dist) 0 7))
    else wordTaken s l rest) := by
  rw [takeLane, front]
  dsimp only
  rw [if_neg (by rw [kind, runs]; simp)]
  rfl

theorem tally_combined (word : field raw 0 7 ≠ 0) (even : parity (raw ^^^ dist) = false)
    (units : field (raw ^^^ dist) 0 7 ≠ 0) (lane : measured s.can l = true)
    (mapped : (tmapOf s.can.tmap (field (raw ^^^ dist) 11 12)).getLsbD 15 = true)
    (empty : (tget s.can.lanes l).combiner = []) :
    ∃ t, exec (.tallyWord l dist) s = .next t ∧
      tget t.can.lanes l = { popped (tget s.can.lanes l) rest with
        combiner := [(field (raw ^^^ dist) 11 12, field (raw ^^^ dist) 8 3, field (raw ^^^ dist) 0 7)] } ∧
      (∀ m, m ≠ l → tget t.can.lanes m = tget s.can.lanes m) ∧ t.can.counters = s.can.counters ∧
      t = { s with can := t.can } := by
  have none : (tget (wordTaken s l rest).can.lanes l).combiner = [] := by
    show (tget (tupd s.can.lanes l _) l).combiner = []
    rw [tget_tupd]
    exact empty
  have comb (a b u : Nat) : combine (wordTaken s l rest).can l a b u = { (wordTaken s l rest).can with
      lanes := tupd (wordTaken s l rest).can.lanes l (merged (a, b, u)) } := by
    simp only [combine, none, List.find?_nil, List.length_nil, Nat.zero_lt_succ, if_true]
    refine congrArg (fun v => { (wordTaken s l rest).can with lanes := v }) (tupd_congr ?_)
    simp [none, merged]
  have run : exec (.tallyWord l dist) s = .next (updCan (wordTaken s l rest) (fun c =>
      combine c l (field (raw ^^^ dist) 11 12) (field (raw ^^^ dist) 8 3) (field (raw ^^^ dist) 0 7))) := by
    refine congrArg Host.Outcome.next ((takeLane_reads runs front (by simpa using word)).trans ?_)
    rw [if_neg (by simp [even]), if_neg units, if_pos]
    rw [Bool.and_eq_true]
    exact ⟨lane, mapped⟩
  rw [updCan, comb] at run
  refine ⟨_, run, ?_, fun m other => ?_, rfl, rfl⟩
  · exact (tget_tupd ..).trans (congrArg (merged _) (tget_tupd ..))
  · exact (tget_tupd_ne _ _ _ _ (Ne.symm other)).trans (tget_tupd_ne _ _ _ _ (Ne.symm other))

theorem tally_damaged (word : field raw 0 7 ≠ 0) (odd : parity (raw ^^^ dist) = true) (herd : herdRuns s = true) :
    ∃ t, exec (.tallyWord l dist) s = .next t ∧ t.can.exact = false ∧
      tget t.can.lanes l = popped (tget s.can.lanes l) rest ∧ t.can.counters = s.can.counters ∧
      reported s t .meterTallyParity .die 0 ∧ onlyReports s t ∧ t = { s with can := t.can, herd := t.herd } := by
  have run : exec (.tallyWord l dist) s = .next
      (canEvent (badTally (wordTaken s l rest) l (raw ^^^ dist)) .meterTallyParity l.val (raw ^^^ dist).toNat) := by
    refine congrArg Host.Outcome.next ((takeLane_reads runs front (by simpa using word)).trans ?_)
    rw [if_pos odd]
  obtain ⟨log, dropped, logged⟩ := canLog_frame (s := updCan (wordTaken s l rest) (fun c => { c with exact := false }))
    (code := 0x0009) (arg := l.val) (detail := (raw ^^^ dist).toNat)
  rw [badTally, logged] at run
  obtain ⟨before, ev, sent, code, kind, num⟩ := canEvent_runs (s := { updCan (wordTaken s l rest) (fun c => { c with
    exact := false }) with can := { (updCan (wordTaken s l rest) (fun c => { c with exact := false })).can with
      log := log, logDropped := dropped } }) herd .meterTallyParity l.val (raw ^^^ dist).toNat
  rw [sent] at run
  refine ⟨_, run, rfl, tget_tupd .., rfl, ⟨before, [], ev, ?_, code, kind, num⟩, rfl, rfl⟩
  rw [List.append_nil]
  rfl

/-- The lane after a marker of epoch `e`. -/
def marked (e : Nat) (x : TallyLane) : TallyLane := { x with combiner := [], epoch := e, fresh := false }

omit runs front in
/-- A marker that is not stale empties its lane's combiner and advances its epoch (R354). -/
theorem takeMarker_advances {u : State} {w : BitVec 24} {e : Nat} (fresh : (tget u.can.lanes l).fresh = false)
    (is : e = laneEpoch (tget u.can.lanes l) (field w 11 12)) (new : (tget u.can.lanes l).epoch < e)
    (lane : measured u.can l = true) (closing : u.can.closing = none) (asked : u.can.asked = none) :
    ∃ ctrs held, takeMarker u l w =
      if e % reportPeriod u.can = 0 then { u with can := { u.can with
        counters := ctrs, held := held, closing := some e
        lanes := tupd u.can.lanes l (fun x => { marked e x with atBoundary := some e }) } }
      else { u with can := { u.can with
        counters := ctrs, held := held, lanes := tupd u.can.lanes l (marked e) } } := by
  obtain ⟨ctrs, held, flushed⟩ := flushLane_frame u.can l
  have moved : updCan u (fun c => { flushLane c l with
        lanes := tupd (flushLane c l).lanes l (fun x => { x with epoch := e, fresh := false }) }) =
      { u with can := { u.can with counters := ctrs, held := held, lanes := tupd u.can.lanes l (marked e) } } := by
    rw [updCan, flushed]
    dsimp only
    rw [tupd_tupd]
    rfl
  refine ⟨ctrs, held, ?_⟩
  rw [takeMarker]
  dsimp only
  rw [← is, if_neg (by rw [fresh]; simp; omega), moved]
  generalize lanes : tupd u.can.lanes l (marked e) = v
  have again : tupd v l (fun x => { x with atBoundary := some e }) =
      tupd u.can.lanes l (fun x => { marked e x with atBoundary := some e }) := by
    rw [← lanes, tupd_tupd]
  generalize next : ({ u with can := { u.can with counters := ctrs, held := held, lanes := v } } : State) = t
  have lane' : measured t.can l = true := by rw [← next]; exact lane
  have closing' : t.can.closing = none := by rw [← next]; exact closing
  have asked' : t.can.asked = none := by rw [← next]; exact asked
  have period : reportPeriod t.can = reportPeriod u.can := by rw [← next]; rfl
  simp only [lane', closing', closeReason, asked', period, Bool.not_true, Bool.false_eq_true, if_false]
  by_cases bound : e % reportPeriod u.can = 0
  · rw [if_pos bound, if_pos (by rw [bound]; rfl), ← next, ← again]
    rfl
  · rw [if_neg bound, if_neg (by simpa using bound)]

theorem marker_taken {e : Nat} (word : field raw 0 7 = 0) (even : parity (raw ^^^ dist) = false)
    (mark : field (raw ^^^ dist) 0 7 = 0) (fresh : (tget s.can.lanes l).fresh = false)
    (is : e = laneEpoch (tget s.can.lanes l) (field (raw ^^^ dist) 11 12)) (new : (tget s.can.lanes l).epoch < e)
    (lane : measured s.can l = true) (closing : s.can.closing = none) (asked : s.can.asked = none) :
    ∃ t, exec (.tallyMarker l dist) s = .next t ∧ (tget t.can.lanes l).epoch = e ∧
      (tget t.can.lanes l).combiner = [] ∧ (tget t.can.lanes l).fifo = (popped (tget s.can.lanes l) rest).fifo ∧
      (tget t.can.lanes l).owed = (popped (tget s.can.lanes l) rest).owed ∧
      (e % reportPeriod s.can = 0 → t.can.closing = some e ∧ (tget t.can.lanes l).atBoundary = some e) ∧
      (e % reportPeriod s.can ≠ 0 → t.can.closing = none) ∧
      (∀ m, m ≠ l → tget t.can.lanes m = tget s.can.lanes m) ∧ t = { s with can := t.can } := by
  have run : exec (.tallyMarker l dist) s = .next (takeMarker (wordTaken s l rest) l (raw ^^^ dist)) := by
    refine congrArg Host.Outcome.next ((takeLane_reads runs front (by simp [word])).trans ?_)
    rw [if_neg (by simp [even]), if_pos mark]
  have own : tget (wordTaken s l rest).can.lanes l = popped (tget s.can.lanes l) rest := tget_tupd ..
  have others (m : LaneId) (other : m ≠ l) : tget (wordTaken s l rest).can.lanes m = tget s.can.lanes m :=
    tget_tupd_ne _ _ _ _ (Ne.symm other)
  obtain ⟨ctrs, held, advances⟩ := takeMarker_advances (u := wordTaken s l rest) (w := raw ^^^ dist) (e := e)
    (by rw [own]; exact fresh) (by rw [own]; exact is) (by rw [own]; exact new) lane closing asked
  rw [advances] at run
  have period : reportPeriod (wordTaken s l rest).can = reportPeriod s.can := rfl
  rw [period] at run
  by_cases bound : e % reportPeriod s.can = 0
  · rw [if_pos bound] at run
    have now : tget (tupd (wordTaken s l rest).can.lanes l (fun x => { marked e x with atBoundary := some e })) l =
        { marked e (popped (tget s.can.lanes l) rest) with atBoundary := some e } := by rw [tget_tupd, own]
    exact ⟨_, run, (congrArg TallyLane.epoch now).trans rfl, (congrArg TallyLane.combiner now).trans rfl, (congrArg TallyLane.fifo now).trans rfl,
      (congrArg TallyLane.owed now).trans rfl, fun _ => ⟨rfl, (congrArg TallyLane.atBoundary now).trans rfl⟩, fun h => absurd bound h,
      fun m other => (tget_tupd_ne _ _ _ _ (Ne.symm other)).trans (others m other), rfl⟩
  · rw [if_neg bound] at run
    have now : tget (tupd (wordTaken s l rest).can.lanes l (marked e)) l =
        marked e (popped (tget s.can.lanes l) rest) := by rw [tget_tupd, own]
    exact ⟨_, run, (congrArg TallyLane.epoch now).trans rfl, (congrArg TallyLane.combiner now).trans rfl, (congrArg TallyLane.fifo now).trans rfl,
      (congrArg TallyLane.owed now).trans rfl, fun h => absurd h bound, fun _ => closing,
      fun m other => (tget_tupd_ne _ _ _ _ (Ne.symm other)).trans (others m other), rfl⟩

end Lane

end Sys2Proof.Proofs

/-! ## Reports of the Can (R360, R364, R367): O50. -/

namespace Sys2Proof.Proofs
open Sys2Proof.Machine Sys2Proof.Safety

/-! ### What NI 190 leaves of the Can and the fabric -/

/-- A state but for what NI 190 changes by its own work. -/
def sansCanNi (s : State) : State :=
  { sansNi canSlot s with
    churn := State.reset.churn, can := { s.can with lanes := Can.reset.lanes, memOut := [], tag := none } }

theorem unaware_sansCanNi : Unaware sansCanNi := ⟨fun _ _ => rfl, fun _ _ _ _ => rfl, fun _ _ => rfl⟩

theorem besides_sansCanNi : Besides canSlot sansCanNi :=
  ⟨fun s f => congrArg (fun u => { u with
    churn := State.reset.churn, can := { s.can with lanes := Can.reset.lanes, memOut := [], tag := none } })
    (Besides.node (P := sansNi canSlot) (self := besides_sansNi canSlot) s f)⟩

theorem canSlot_ne_herdSlot : canSlot ≠ herdSlot := by decide

theorem stored_sansCanNi : Stored canSlot sansCanNi :=
  ⟨fun _ _ => rfl, fun h => absurd h canSlot_ne_herdSlot, fun h => absurd h canSlot_ne_herdSlot⟩

theorem fed_sansCanNi : Fed canSlot sansCanNi := ⟨fun _ _ _ _ => rfl⟩

/-- NI 190 working on its store keeps the Can's report and counters, the other NIs and the fabric. -/
theorem resumeStore_canSlot (s : State) : sansCanNi (resumeStore s canSlot) = sansCanNi s :=
  have := unaware_sansCanNi
  have := besides_sansCanNi
  have := stored_sansCanNi
  have := fed_sansCanNi
  view_resumeStore (P := sansCanNi) (n := canSlot)

/-- The requests that wait in the Can for NI 190. -/
def waiting (s : State) : List Packet := s.can.memOut

theorem waiting_drawFifo (fuel : Nat) (s : State) : waiting (drawFifo fuel s canSlot) = waiting s :=
  have : Unaware waiting := ⟨fun _ _ => rfl, fun _ _ _ _ => rfl, fun _ _ => rfl⟩
  have : Besides canSlot waiting := ⟨fun _ _ => rfl⟩
  have : Stored canSlot waiting :=
    ⟨fun _ _ => rfl, fun h => absurd h canSlot_ne_herdSlot, fun h => absurd h canSlot_ne_herdSlot⟩
  view_drawFifo (P := waiting) (n := canSlot) fuel

theorem waiting_processOnce (s : State) : waiting (processOnce s canSlot) = waiting s :=
  have : Unaware waiting := ⟨fun _ _ => rfl, fun _ _ _ _ => rfl, fun _ _ => rfl⟩
  have : Besides canSlot waiting := ⟨fun _ _ => rfl⟩
  have : Stored canSlot waiting :=
    ⟨fun _ _ => rfl, fun h => absurd h canSlot_ne_herdSlot, fun h => absurd h canSlot_ne_herdSlot⟩
  view_processOnce (P := waiting) (n := canSlot)

/-- NI 190 takes the Can's requests from the front. -/
theorem waiting_feedCan (fuel : Nat) (s : State) : ∃ p, waiting s = p ++ waiting (feedCan fuel s) := by
  induction fuel generalizing s with
  | zero => exact ⟨[], rfl⟩
  | succ fuel ih =>
    unfold feedCan
    split
    · next q rest t first _ =>
      split
      · exact ⟨[], rfl⟩
      · dsimp only
        obtain ⟨p, suffix⟩ := ih (drawFifo _ (updN (updCan s (fun c => { c with
          memOut := rest, tag := if isPosted (fOp (hd q)) then c.tag else some t })) canSlot (fun x => { x with
          reqFifo := x.reqFifo ++ [{ op := fOp (hd q), fetch := false, flits := setTag t q }] })) canSlot)
        rw [waiting_drawFifo] at suffix
        exact ⟨q :: p, first.trans (congrArg (q :: ·) suffix)⟩
    · exact ⟨[], rfl⟩

theorem waiting_resumeStore (s : State) : ∃ p, waiting s = p ++ waiting (resumeStore s canSlot) := by
  unfold resumeStore processStore
  split
  · split
    · exact ⟨[], rfl⟩
    · dsimp only
      rw [if_neg canSlot_ne_herdSlot, if_pos rfl]
      obtain ⟨p, suffix⟩ := waiting_feedCan (drawFifo (nif (processOnce s canSlot) canSlot).reqFifo.length
        (processOnce s canSlot) canSlot).can.memOut.length (drawFifo (nif (processOnce s canSlot) canSlot).reqFifo.length
        (processOnce s canSlot) canSlot)
      rw [waiting_drawFifo, waiting_processOnce] at suffix
      exact ⟨p, suffix⟩
  · exact ⟨[], rfl⟩

section Kept
variable {s t : State} (same : sansCanNi t = sansCanNi s)
include same

theorem can_of_sansCanNi : t.can.report = s.can.report ∧ t.can.counters = s.can.counters := by
  have can := congrArg State.can same
  exact ⟨(congrArg Can.report can :), (congrArg Can.counters can :)⟩

theorem otherNis_of_sansCanNi : otherNis canSlot s t := by
  intro m other
  have nis := congrArg (fun u : State => tget u.nis m) same
  simpa [sansCanNi, sansNi, tget_tupd_ne _ _ _ _ (Ne.symm other), nif] using nis

theorem fabric_of_sansCanNi : t.routers = s.routers ∧ t.spine = s.spine ∧ t.aon = s.aon ∧ t.crock = s.crock ∧
    t.cfgA = s.cfgA ∧ t.cfgB = s.cfgB :=
  ⟨(congrArg State.routers same :), (congrArg State.spine same :), (congrArg State.aon same :),
    (congrArg State.crock same :), (congrArg State.cfgA same :), (congrArg State.cfgB same :)⟩

end Kept

/-! ### Closing a report (R360) -/

theorem getLsbD_orLanes (l : List LaneId) (m : BitVec 32) (k : LaneId) :
    (l.foldl (fun (m : BitVec 32) x => m ||| (1#32 <<< x.val)) m).getLsbD k.val = (m.getLsbD k.val || decide (k ∈ l)) := by
  induction l generalizing m with
  | nil => simp
  | cons a l ih =>
    have bit : (1#32 <<< a.val).getLsbD k.val = decide (k = a) := by
      have hk := k.isLt
      rw [BitVec.getLsbD_shiftLeft]
      by_cases same : k = a
      · simp [same]
      · have other : k.val ≠ a.val := fun h => same (Fin.ext h)
        by_cases below : k.val < a.val
        · simp [same, below]
        · have : k.val - a.val ≠ 0 := by omega
          simp [same, this]
    rw [List.foldl_cons, ih, BitVec.getLsbD_or, bit]
    simp [Bool.or_assoc]

theorem flushLanes_frame (c : Can) (l : List LaneId) : ∃ ctrs held lanes,
    l.foldl (fun c l => flushLane c l) c = { c with counters := ctrs, held := held, lanes := lanes } := by
  induction l generalizing c with
  | nil => exact ⟨_, _, _, rfl⟩
  | cons a l ih =>
    obtain ⟨ctrs, held, one⟩ := flushLane_frame c a
    obtain ⟨ctrs', held', lanes', rest⟩ := ih (flushLane c a)
    exact ⟨ctrs', held', lanes', by rw [List.foldl_cons, rest, one]⟩

/-- The report that closes at a boundary (R360). -/
def closedReport (s : State) (reason t : Nat) (absent : BitVec 32) : CanReport :=
  { reason := reason, boundary := t, start := s.can.start, absent := absent
    counters := s.can.held.foldl (fun m e => addCtr m e.1 (-e.2)) s.can.counters
    log := s.can.log, dropped := s.can.logDropped, exact := s.can.exact, sealed := s.can.sealed
    aclk := s.aon.aclk.toNat, seq := s.can.nextSeq, cfg := if reason == 1 then s.can.cfgNext else s.can.cfg
    tmap := if reason == 1 then s.can.tmapNext else s.can.tmap, lines := 0 }

theorem closeReport_taken {s : State} (free : s.can.report = none) (reason t : Nat) (absent : BitVec 32) :
    ∃ asked, closeReport s reason t absent = updCan s (fun c => { c with
      report := some (closedReport s reason t absent), nextSeq := c.nextSeq + 1, log := [], logDropped := 0, exact := true
      start := t, closing := none, held := [], asked := asked, absentNow := absent, cfg := c.cfgNext
      tmap := c.tmapNext }) := by
  refine ⟨if reason = 0 ∨ reason = 4 then s.can.asked else none, ?_⟩
  rw [closeReport, if_neg (by simp [free])]
  rfl

section Closing
variable {s : State} (runs : canRuns s = true)
include runs

theorem report_closed {b : Nat} {i : Instr} (closing : s.can.closing = some b) (free : s.can.report = none)
    (row : (i = .reportClose ∧ lanesMissing s.can = []) ∨ i = .laneAbsentTimeout) :
    ∃ t r, exec i s = .next t ∧ t.can.report = some r ∧ r.boundary = b ∧ r.start = s.can.start ∧
      r.seq = s.can.nextSeq ∧ r.lines = 0 ∧
      (∀ l : LaneId, r.absent.getLsbD l.val = decide (l ∈ lanesMissing s.can)) ∧ t.can.nextSeq = s.can.nextSeq + 1 ∧
      t.can.start = b ∧ t.can.closing = none ∧ t.can.counters = s.can.counters ∧ t.can.lanes = s.can.lanes ∧
      t = { s with can := t.can } := by
  have run : exec i s = .next (closeNow s) := by
    rcases row with ⟨rfl, all⟩ | rfl
    · exact congrArg Host.Outcome.next (if_pos (by simp [runs, closing, all]))
    · exact congrArg Host.Outcome.next (if_pos (by simp [runs, closing]))
  obtain ⟨asked, taken⟩ := closeReport_taken free (closeReason s.can b) b
    ((lanesMissing s.can).foldl (fun (m : BitVec 32) l => m ||| (1#32 <<< l.val)) 0)
  rw [closeNow, closing] at run
  dsimp only at run
  rw [taken] at run
  exact ⟨_, _, run, rfl, rfl, rfl, rfl, rfl, fun l => (getLsbD_orLanes ..).trans (by simp), rfl, rfl, rfl, rfl, rfl, rfl⟩

/-- A fabric reset closes a report at once (R367). -/
theorem reset_closes (notice : s.can.resetNotice = true) (free : s.can.report = none) :
    ∃ t r, exec .meterResetNotice s = .next t ∧ t.can.resetNotice = false ∧ t.can.report = some r ∧ r.reason = 4 ∧
      t.can.start = 0 ∧ (∀ l, (tget t.can.lanes l).fresh = true ∧ (tget t.can.lanes l).epoch = 0) ∧
      t = { s with can := t.can } := by
  generalize last : (List.finRange 32).foldl (fun m l => max m (tget s.can.lanes l).epoch) 0 = m
  obtain ⟨log, dropped, logged⟩ := canLog_frame (s := updCan s (fun c => { c with resetNotice := false }))
    (code := 0x0007) (arg := 0xFFFF) (detail := m)
  generalize gone : (lanesMissing (canLog (updCan s (fun c => { c with resetNotice := false })) 0x0007 0xFFFF m).can).foldl
    (fun (m : BitVec 32) l => m ||| (1#32 <<< l.val)) 0 = absent
  obtain ⟨ctrs, held, lanes, flushed⟩ := flushLanes_frame { s.can with
    resetNotice := false, log := log, logDropped := dropped } (List.finRange 32)
  obtain ⟨asked, taken⟩ := closeReport_taken (s := updCan s (fun c => { c with
    resetNotice := false, log := log, logDropped := dropped, counters := ctrs, held := [], lanes := lanes })) free 4 m absent
  have run : exec .meterResetNotice s = .next (updCan (closeReport (updCan s (fun c => { c with
      resetNotice := false, log := log, logDropped := dropped, counters := ctrs, held := [], lanes := lanes })) 4 m absent)
      (fun c => { c with
        start := 0, asked := c.asked.map (fun a => (a.1, 0))
        lanes := tmap c.lanes (fun _ x => { x with fresh := true, epoch := 0, atBoundary := none }) })) := by
    show execMeterResetNotice s = _
    rw [execMeterResetNotice, if_pos (by simp [notice, runs])]
    dsimp only
    rw [last, gone, logged]
    dsimp only [updCan]
    rw [flushed]
  rw [taken] at run
  refine ⟨_, _, run, rfl, rfl, rfl, rfl, fun l => ?_, rfl⟩
  have lane : tget (tmap lanes (fun _ x => { x with fresh := true, epoch := 0, atBoundary := none })) l =
      { tget lanes l with fresh := true, epoch := 0, atBoundary := none } := tget_tmap ..
  exact ⟨(congrArg TallyLane.fresh lane).trans rfl, (congrArg TallyLane.epoch lane).trans rfl⟩

theorem counter_restarts (i : Fin 32768) (wf : swf (fun _ => (0 : Word)) s.can.counters = true) :
    ∃ t, exec (.canScrub [i]) s = .next t ∧ sget (fun _ => 0) t.can.counters i.val = 0 ∧
      (∀ j, j ≠ i.val → sget (fun _ => 0) t.can.counters j = sget (fun _ => 0) s.can.counters j) ∧
      t.can.exact = false ∧ t = { s with can := t.can } := by
  obtain ⟨log, dropped, logged⟩ := canLog_frame (s := updCan s (fun c => { c with
    counters := sput (fun _ => 0) i.val 0 c.counters, held := sput (fun _ => 0) i.val 0 c.held, exact := false }))
    (code := 0x000A) (arg := i.val / 8) (detail := i.val % 8)
  refine ⟨_, congrArg Host.Outcome.next ((if_pos runs).trans logged), sget_sput _ _ _ _ wf, fun j other => ?_, rfl, rfl⟩
  exact sget_sput_ne _ _ _ _ _ other

theorem clock_missed (first : s.can.mclkLost = false) :
    ∃ t, exec .meterClock s = .next t ∧ t.can.mclkLost = true ∧ reported s t .meterClock .die 0 ∧ onlyReports s t ∧
      t = { s with can := t.can, herd := t.herd } := by
  refine ⟨_, congrArg Host.Outcome.next (if_pos (by simp [runs, first])), rfl, ⟨[], [], mkEvent .meterClock .die 0 0
    s.herd.epoch (BitVec.ofNat 32 0) (BitVec.ofNat 128 0), ?_, rfl, rfl, rfl⟩, rfl, rfl⟩
  rw [List.append_nil, List.append_nil]
  rfl

end Closing

/-! ### Delivering a report (R364) -/

/-- A flit of a packet that the block forms carries the line at its place. -/
theorem dat_mkPacket (h : BitVec 128) {lines : List Line} {i : Nat} {l : Line} (at_ : lines[i]? = some l) :
    ((mkPacket h lines).getD i zeroFlit).dat = l.data := by
  simp [mkPacket, List.getD, at_]

theorem head_mkPacket (h : BitVec 128) (l : Line) :
    (hd (mkPacket h [l])).ctl = setField (setField h 92 2 0) 5 1 l.poison.toNat ∧ (hd (mkPacket h [l])).dat = l.data :=
  ⟨rfl, rfl⟩

theorem op_canCtl (s : State) (op : BitVec 6) (addr : Nat) (l : Line) :
    fOp (hd (mkPacket (canCtl s op addr) [l])) = op := by
  rw [fOp, (head_mkPacket _ l).1, bits_setField_of_out _ _ (by omega), bits_setField_of_out _ _ (by omega), canCtl,
    bits_setField_of_out _ _ (by omega), bits_setField_of_out _ _ (by omega), mkCtl, bits_setField _ _ (by omega)]
  exact BitVec.ofNat_toNat ..

theorem addr_canCtl (s : State) (op : BitVec 6) (addr : Nat) (l : Line) :
    fAddr (hd (mkPacket (canCtl s op addr) [l])) = addr % 2 ^ 46 := by
  rw [fAddr, (head_mkPacket _ l).1, field_setField_of_out _ _ (by omega), field_setField_of_out _ _ (by omega), canCtl,
    field_setField_of_out _ _ (by omega), field_setField _ _ (by omega), Nat.mod_mod]

theorem dat_reportPackets (s : State) (r : CanReport) {k i : Nat} (packet : k < 1028) (line : i < 4) :
    (((reportPackets s r).getD k []).getD i zeroFlit).dat = reportLine s.can r (4 * k + i) := by
  have at_ : (reportPackets s r).getD k [] = mkPacket (canCtl s opWrFullP (reportBase s.can r + 4 * k))
      ((List.range 4).map (fun i => goodLine (reportLine s.can r (4 * k + i)))) := by
    simp [reportPackets, List.getD, List.getElem?_append, packet]
  rw [at_]
  exact dat_mkPacket (l := goodLine (reportLine s.can r (4 * k + i))) _ (by
    rw [List.getElem?_map, List.getElem?_range line, Option.map_some])

section Delivery
variable {s : State} {r : CanReport} (delivers : canDelivers s = true) (report : s.can.report = some r)
include delivers report

theorem report_handed (fresh : r.lines = 0) :
    ∃ t p, exec .reportWrite s = .next t ∧ t.can.report = some { r with lines := 4112 } ∧
      reportPackets s r = p ++ t.can.memOut ∧ (∀ k, k < 1028 → ∀ i, i < 4 →
        (((reportPackets s r).getD k []).getD i zeroFlit).dat = reportLine s.can r (4 * k + i)) ∧
      t.can.counters = s.can.counters ∧ otherNis canSlot s t ∧ t.routers = s.routers ∧ t.spine = s.spine ∧
      t.aon = s.aon ∧ t.crock = s.crock ∧ t.cfgA = s.cfgA ∧ t.cfgB = s.cfgB := by
  let u := updCan (canTaken s) (fun c => { c with report := some { r with lines := 4112 }, memOut := reportPackets s r })
  have run : exec .reportWrite s = .next (resumeStore u canSlot) := by
    show execReportWrite s = _
    simp only [execReportWrite, delivers, if_true, report, fresh, ne_eq, not_true_eq_false, if_false]
    rfl
  have same := resumeStore_canSlot u
  obtain ⟨p, suffix⟩ := waiting_resumeStore u
  obtain ⟨report', counters⟩ := can_of_sansCanNi same
  obtain ⟨routers, spine, aon, crock, cfgA, cfgB⟩ := fabric_of_sansCanNi same
  exact ⟨_, p, run, report', suffix, fun k packet i line => dat_reportPackets s r packet line, counters,
    fun m other => (otherNis_of_sansCanNi same m other).trans (nif_updN_ne _ _ _ _ (Ne.symm other)),
    routers, spine, aon, crock, cfgA, cfgB⟩

section Answered
variable (sent : r.lines ≠ 0)
include sent

theorem reportTrailer_answered {st : Status} (kept : canRefused s = false) (answer : canStatus s = some st) :
    exec .reportTrailer s = .next (if st != .ok then abandonReport (canTaken s)
      else if r.lines = 4112 then sendTrailer (canTaken s) r else reportDone (canTaken s) r) := by
  show execReportTrailer s = _
  simp only [execReportTrailer, delivers, if_true, report, if_neg sent, kept, Bool.false_eq_true, if_false, answer]

theorem trailer_sent (lines : r.lines = 4112) (kept : canRefused s = false) (answer : canStatus s = some .ok) :
    ∃ t q p, exec .reportTrailer s = .next t ∧ t.can.report = some { r with lines := 4113 } ∧
      [q] = p ++ t.can.memOut ∧ fOp (hd q) = opWrFullNp ∧ fAddr (hd q) = (reportBase s.can r + 4112) % 2 ^ 46 ∧
      (hd q).dat = reportTrailer s.can r ∧ t.can.counters = s.can.counters ∧ otherNis canSlot s t ∧
      t.routers = s.routers ∧ t.spine = s.spine ∧ t.aon = s.aon ∧ t.crock = s.crock := by
  have run := reportTrailer_answered delivers report sent kept answer
  rw [if_neg (by decide), if_pos lines, sendTrailer] at run
  generalize word : reportTrailer (canTaken s).can r = d at run
  have word' : reportTrailer s.can r = d := word
  generalize packet : mkPacket (canCtl (canTaken s) opWrFullNp (reportBase (canTaken s).can r + 4112)) [goodLine d] = q
    at run
  generalize given : updCan (canTaken s) (fun c => { c with report := some { r with lines := 4113 }, memOut := [q] }) = u
    at run
  have same := resumeStore_canSlot u
  obtain ⟨p, suffix⟩ := waiting_resumeStore u
  obtain ⟨report', counters⟩ := can_of_sansCanNi same
  obtain ⟨routers, spine, aon, crock, -, -⟩ := fabric_of_sansCanNi same
  have others := otherNis_of_sansCanNi same
  subst given
  refine ⟨_, q, p, run, report', suffix, ?_, ?_, ?_, counters, fun m other => (others m other).trans
    (nif_updN_ne _ _ _ _ (Ne.symm other)), routers, spine, aon, crock⟩
  · rw [← packet]; exact op_canCtl ..
  · rw [← packet]; exact addr_canCtl ..
  · rw [← packet, (head_mkPacket _ _).2, word']; rfl

theorem report_done (herd : herdRuns s = true) (lines : r.lines = 4113) (kept : canRefused s = false)
    (answer : canStatus s = some .ok) :
    ∃ t, exec .reportTrailer s = .next t ∧ t.can.report = none ∧ t.can.lastFailed = false ∧
      t.can.lastSeq = r.seq ∧ t.can.memOut = s.can.memOut ∧ reported s t .meterReport .die 0 ∧ onlyReports s t ∧
      nif t canSlot = { nif s canSlot with out := [] } ∧ otherNis canSlot s t ∧
      t = { s with nis := t.nis, can := t.can, herd := t.herd } := by
  have run := reportTrailer_answered delivers report sent kept answer
  rw [if_neg (by decide), if_neg (by omega), reportDone] at run
  generalize bits (reportTrailer (canTaken s).can r) 256 256 = mac at run
  obtain ⟨before, ev, told, code, kind, num⟩ := canEvent_runs (s := updCan (canTaken s) (fun c => { c with
    report := none, lastFailed := false, lastSeq := r.seq, lastDone := r.seq, lastMac := mac })) herd .meterReport
    r.seq.toNat 0
  rw [told] at run
  refine ⟨_, run, rfl, rfl, rfl, rfl, ⟨before, [], ev, ?_, code, kind, num⟩, rfl, nif_updN_same ..,
    fun m other => nif_updN_ne _ _ _ _ (Ne.symm other), rfl⟩
  rw [List.append_nil]
  rfl

theorem report_abandoned {st : Status} (herd : herdRuns s = true)
    (fails : canRefused s = true ∨ (canStatus s = some st ∧ st ≠ .ok)) :
    ∃ t, exec .reportTrailer s = .next t ∧ t.can.report = none ∧ t.can.lastFailed = true ∧
      t.can.memOut = [] ∧ reported s t .meterReportFail .die 0 ∧ onlyReports s t ∧
      nif t canSlot = { nif s canSlot with out := [] } ∧ otherNis canSlot s t ∧
      t = { s with nis := t.nis, can := t.can, herd := t.herd } := by
  have run : exec .reportTrailer s = .next (abandonReport (canTaken s)) := by
    by_cases refused : canRefused s = true
    · show execReportTrailer s = _
      simp only [execReportTrailer, delivers, if_true, report, if_neg sent, refused]
    · obtain ⟨answer, bad⟩ := fails.resolve_left refused
      rw [reportTrailer_answered delivers report sent (by simpa using refused) answer, if_pos (by simpa using bad)]
  have report' : (canTaken s).can.report = some r := report
  simp only [abandonReport, report'] at run
  obtain ⟨log, dropped, logged⟩ := canLog_frame (s := updCan (canTaken s) (fun c => { c with
    report := none, lastFailed := true, memOut := [] })) (code := 0x000E) (arg := 0xFFFF) (detail := r.seq.toNat)
  rw [logged] at run
  obtain ⟨before, ev, told, code, kind, num⟩ := canEvent_runs (s := { updCan (canTaken s) (fun c => { c with
    report := none, lastFailed := true, memOut := [] }) with can := { (updCan (canTaken s) (fun c => { c with
    report := none, lastFailed := true, memOut := [] })).can with log := log, logDropped := dropped } }) herd
    .meterReportFail r.seq.toNat 0
  rw [told] at run
  refine ⟨_, run, rfl, rfl, rfl, ⟨before, [], ev, ?_, code, kind, num⟩, rfl, nif_updN_same ..,
    fun m other => nif_updN_ne _ _ _ _ (Ne.symm other), rfl⟩
  rw [List.append_nil]
  rfl

end Answered
end Delivery

/-- Settles O50, clause by clause. -/
theorem talliesAndReports : Obligations.TalliesAndReports := by
  refine ⟨fun s l raw dist w rest x runs front isWord lane => ?_, fun s runs => ⟨fun b i closing free row =>
    report_closed runs closing free row, fun r delivers report fresh => report_handed delivers report fresh,
    fun r delivers report lines kept answer => trailer_sent delivers report (by omega) lines kept answer,
    fun r delivers herd report lines kept answer => report_done delivers report (by omega) herd lines kept answer,
    fun r st delivers herd report sent fails => report_abandoned delivers report sent herd fails,
    fun notice free => reset_closes runs notice free, fun i wf => counter_restarts runs i wf,
    fun first => clock_missed runs first⟩⟩
  subst isWord lane
  exact ⟨fun word even units lane mapped empty => tally_combined runs front word even units lane mapped empty,
    fun word odd herd => tally_damaged runs front word odd herd,
    fun e word even mark fresh is new lane closing asked =>
      marker_taken runs front word even mark fresh is new lane closing asked⟩

end Sys2Proof.Proofs

/-! ## What recovery leaves alone: the islands, and what an NI that loses its state takes with it (R457, R461). -/

namespace Sys2Proof.Proofs
open Sys2Proof.Machine Sys2Proof.Safety

/-! ### What is outside routers, links, NIs and the Herdsman -/

/-- The recoveries under way, the always-on island and the epoch counters. -/
def islands (s : State) : Recovery × Aon × Vector Nat 24 := (s.recov, s.aon, s.epochs)

section Islands
variable {s : State}

@[simp] theorem islands_updN (n : Slot) (f : NI → NI) : islands (updN s n f) = islands s := rfl

@[simp] theorem islands_updR (r : RouterId) (f : Router → Router) : islands (updR s r f) = islands s := rfl

@[simp] theorem islands_updE (e : LinkEnd) (f : SpineEnd → SpineEnd) : islands (updE s e f) = islands s := rfl

@[simp] theorem islands_updHerd (f : Herd → Herd) : islands (updHerd s f) = islands s := rfl

@[simp] theorem islands_updDip (f : Dipper → Dipper) : islands (updDip s f) = islands s := rfl

@[simp] theorem islands_updCan (f : Can → Can) : islands (updCan s f) = islands s := rfl

@[simp] theorem islands_updCrock (f : Crock → Crock) : islands (updCrock s f) = islands s := rfl

@[simp] theorem islands_report (ev : Event) : islands (report s ev) = islands s := rfl

@[simp] theorem islands_ite {c : Prop} [Decidable c] {a b : State} :
    islands (if c then a else b) = if c then islands a else islands b := apply_ite ..

@[simp] theorem islands_foldl {β : Type} {f : State → β → State} {l : List β}
    (step : ∀ s x, islands (f s x) = islands s) : islands (l.foldl f s) = islands s := by
  induction l generalizing s with
  | nil => rfl
  | cons x l ih => exact ih.trans (step s x)

@[simp] theorem islands_bump (g amt : Nat) : islands (bump s g amt) = islands s :=
  have : Unaware islands := ⟨fun _ _ => rfl, fun _ _ _ _ => rfl, fun _ _ => rfl⟩
  view_bump (P := islands) g amt

@[simp] theorem islands_accruePool (e : LinkEnd) (now : Nat) : islands (accruePool s e now) = islands s := by
  simp [accruePool, countE]

@[simp] theorem islands_restartUnit (u : CtrUnit) : islands (restartUnit s u) = islands s := by
  cases u <;> simp [restartUnit, accrueUnit]

@[simp] theorem islands_restartRouter (r : RouterId) : islands (restartRouter s r) = islands s := by
  simp [restartRouter]

/-! ### Links and packets -/

@[simp] theorem islands_setSpineUp (l : LinkId) (up hubs : Bool) : islands (setSpineUp s l up hubs) = islands s := by
  simp [setSpineUp]

@[simp] theorem islands_declareDown (l : LinkId) : islands (declareDown s l) = islands s := by
  unfold declareDown
  refine (islands_foldl fun u e => ?_).trans (islands_setSpineUp ..)
  rfl

@[simp] theorem islands_padIn (e : LinkEnd) (v : SvcId) : islands (padIn s e v).1 = islands s := by
  unfold padIn
  dsimp only
  split
  · rfl
  · simp

@[simp] theorem islands_padAll (e : LinkEnd) : islands (padAll s e).1 = islands s := by
  have fold (l : List SvcId) (acc : State × Nat) : islands (l.foldl (fun (acc : State × Nat) v =>
      let (s, k) := padIn acc.1 e v
      (s, acc.2 + k)) acc).1 = islands acc.1 := by
    induction l generalizing acc with
    | nil => rfl
    | cons v l ih => exact (ih _).trans (islands_padIn e v)
  exact fold svcs (updE s e (fun x => { x with rxBits := [] }), 0)

@[simp] theorem islands_farGivesUp (e : LinkEnd) : islands (farGivesUp s e) = islands s := by
  simp [farGivesUp, repReturn, repSpine]

@[simp] theorem islands_updInVc (r : RouterId) (p : PortId) (f : RouterIn → RouterIn) :
    islands (updInVc s r p f) = islands s := rfl

@[simp] theorem islands_freeCell (r : RouterId) (p : PortId) (v : BufVc) (pool : Option Nat) (now : Nat) :
    islands (freeCell s r p v pool now) = islands s := by
  unfold freeCell
  dsimp only
  split
  · split <;> simp
  · split <;> simp

@[simp] theorem islands_dropRest (r : RouterId) (p : PortId) (v : BufVc) (left : Nat) :
    islands (dropRest s r p v left) = islands s := by
  simp [dropRest]

@[simp] theorem islands_dropInto (r : RouterId) (p : PortId) : islands (dropInto s r p) = islands s := by
  unfold dropInto
  dsimp only
  rw [islands_updR, islands_foldl]
  intro u v
  split <;> simp

end Islands

/-! ### What an NI that loses its state takes with it (R457) -/

/-- `t` is `s` after something was lost: events told, accesses of the Herdsman ended, groups failed, and what the Dipper,
the Can and the Crock make of it. -/
def LossTo (s t : State) : Prop :=
  ∃ mb mo ri st gr ev d c k, t = { s with
    herd := { s.herd with
      memBusy := mb, memOut := mo, rings := ri, started := st, groups := gr, reports := s.herd.reports ++ ev }
    dip := d, can := c, crock := k }

theorem LossTo.refl (s : State) : LossTo s s :=
  ⟨_, _, _, _, _, [], _, _, _, by rw [List.append_nil]⟩

theorem LossTo.trans {s t u : State} (first : LossTo s t) (second : LossTo t u) : LossTo s u := by
  obtain ⟨mb, mo, ri, st, gr, ev, d, c, k, rfl⟩ := first
  obtain ⟨mb', mo', ri', st', gr', ev', d', c', k', rfl⟩ := second
  exact ⟨mb', mo', ri', st', gr', ev ++ ev', d', c', k', by rw [← List.append_assoc]⟩

theorem lossTo_foldl {β : Type} {f : State → β → State} {l : List β} (step : ∀ s x, LossTo s (f s x)) (s : State) :
    LossTo s (l.foldl f s) := by
  induction l generalizing s with
  | nil => exact LossTo.refl s
  | cons x l ih => exact (step s x).trans (ih _)

section Losses
variable (s : State)

/-- A change that tells no event. -/
theorem lossTo_of_silent {s : State} (mb : List MemBusy) (mo : List MemAcc) (ri : Vector HRing 14) (st : List Cmd)
    (gr : Vector CoGroup 32) (d : Dipper) (c : Can) (k : Crock) : LossTo s { s with
      herd := { s.herd with memBusy := mb, memOut := mo, rings := ri, started := st, groups := gr }
      dip := d, can := c, crock := k } :=
  ⟨mb, mo, ri, st, gr, [], d, c, k, by rw [List.append_nil]⟩

theorem lossTo_endCmd (ring : CmdRing) (index : Nat) (st : Status) (d : BitVec 16) (res : BitVec 320) :
    LossTo s (endCmd s ring index st d res) := by
  obtain ⟨l, frame⟩ := endCmd_started s ring index st d res
  rw [frame]
  exact lossTo_of_silent ..

theorem lossTo_cmdAnswered (ring : CmdRing) (index : Nat) (st : Status) (lstat : BitVec 16) :
    LossTo s (cmdAnswered s ring index st lstat) := by
  unfold cmdAnswered
  dsimp only
  split
  · exact lossTo_of_silent ..
  · exact lossTo_endCmd ..

theorem lossTo_drainAnswered (ring : CmdRing) (index : Nat) (is : List Nat) (st : Status) :
    LossTo s (drainAnswered s ring index is st) := by
  unfold drainAnswered
  dsimp only
  have clear : LossTo s (updCrock s (fun c => crockClear c is)) := lossTo_of_silent ..
  split
  · split
    · exact lossTo_of_silent ..
    · exact clear.trans (lossTo_endCmd ..)
  · exact LossTo.trans (lossTo_of_silent (mo := _) ..) (lossTo_endCmd ..)

theorem lossTo_answered (u : MemUse) (st : Status) (lstat : BitVec 16) : LossTo s (answered s u st lstat) := by
  cases u with
  | home => exact LossTo.refl s
  | intr => exact LossTo.refl s
  | entry r i => exact lossTo_of_silent ..
  | index r => exact lossTo_of_silent ..
  | cmd r i => exact lossTo_cmdAnswered ..
  | drain r i es => exact lossTo_drainAnswered ..
  | gatherHead k => exact lossTo_of_silent ..
  | gather => exact lossTo_of_silent ..
  | gatherFence => exact lossTo_of_silent ..
  | gatherClose => exact lossTo_of_silent ..

theorem lossTo_memWiped : LossTo s (memWiped s) := by
  unfold memWiped
  dsimp only
  exact LossTo.trans (lossTo_of_silent ..) (lossTo_foldl (fun u x => lossTo_answered u x _ _) _)

theorem lossTo_failGroups (n : Slot) : LossTo s (failGroups s n) := by
  refine lossTo_foldl (fun u g => ?_) s
  unfold groupFail
  split
  · exact ⟨_, _, _, _, _, [_], _, _, _, rfl⟩
  · exact LossTo.refl u

theorem lossTo_restartNi (n : Slot) : LossTo s (restartUnit s (.ni n)) := lossTo_of_silent ..

/-- R457 at one NI: it is wiped and closed, and the rest is loss. -/
theorem lossTo_applyLoss (n : Slot) :
    LossTo (updN s n (fun x => { wipeNi n (epochN s n) x with closed := true })) (applyLoss s n) := by
  obtain ⟨mb, mo, ri, st, gr, ev, d, c, k, frame⟩ := lossTo_failGroups s n
  have groups : LossTo (updN s n (fun x => { wipeNi n (epochN s n) x with closed := true }))
      (updN (failGroups s n) n (fun x => { wipeNi n (epochN (failGroups s n) n) x with closed := true })) := by
    rw [frame]
    exact ⟨mb, mo, ri, st, gr, ev, d, c, k, rfl⟩
  unfold applyLoss
  dsimp only
  refine groups.trans ?_
  generalize updN (failGroups s n) n _ = u
  have wiped : LossTo u (if n = herdSlot then memWiped u else if n = canSlot then canWiped u else u) := by
    split
    · exact lossTo_memWiped u
    split
    · exact lossTo_of_silent ..
    · exact LossTo.refl u
  refine wiped.trans ?_
  generalize (if n = herdSlot then memWiped u else if n = canSlot then canWiped u else u) = v
  have owed : LossTo v (if isHostLink n.val then noneOwed v n else v) := by
    split
    · exact lossTo_of_silent ..
    · exact LossTo.refl v
  exact owed.trans (lossTo_restartNi ..)

/-- The generation of an NI that loses its state (R458). -/
theorem bumpGen_frame (n : Slot) (resync : Bool) : ∃ g gl rs, bumpGen s n resync = { s with
    herd := { s.herd with gens := g, gensLate := gl, resync := rs } } := by
  unfold bumpGen
  dsimp only
  split <;> exact ⟨_, _, _, rfl⟩

end Losses

end Sys2Proof.Proofs

/-! ## The steps of a recovery (R461, R463, R464, R466): O57. -/

namespace Sys2Proof.Proofs
open Sys2Proof.Machine Sys2Proof.Safety

section FromIslands
variable {s t : State} (same : islands t = islands s)
include same

theorem recov_of_islands : t.recov = s.recov := congrArg Prod.fst same

theorem aon_of_islands : t.aon = s.aon := congrArg (fun p => p.2.1) same

theorem epochs_of_islands : t.epochs = s.epochs := congrArg (fun p => p.2.2) same

end FromIslands

/-! ### One cluster -/

theorem reported_report {s u : State} (same : u.herd.reports = s.herd.reports) (ev : Event) :
    reported s (report u ev) ev.code ev.kind ev.num :=
  ⟨[], [], ev, by simp [report, updHerd, same], rfl, rfl, rfl⟩

/-- The recovery of a cluster at a step. -/
def atStep (s : State) (c : ClusterId) (k : Nat) : State :=
  updRecov s (fun v => { v with clusters := tupd v.clusters c (fun o => o.map (fun x => { x with step := k })) })

theorem mem_clusterSlots (n : Slot) : n ∈ clusterSlots (slotCluster n) := by
  revert n; decide +kernel

theorem reopenNis_closed (l : List Slot) (s : State) {n : Slot} (mem : n ∈ l) :
    (nif (l.foldl reopenNi s) n).closed = false := by
  have keeps (l : List Slot) (s : State) (h : (nif s n).closed = false) : (nif (l.foldl reopenNi s) n).closed = false := by
    induction l generalizing s with
    | nil => exact h
    | cons m l ih =>
      refine ih _ ?_
      rw [reopenNi, nif_updN]
      split
      · rfl
      · exact h
  obtain ⟨before, after, rfl⟩ := List.append_of_mem mem
  rw [List.foldl_append, List.foldl_cons]
  refine keeps _ _ ?_
  rw [reopenNi, nif_updN_same]

theorem islands_reopenNis (l : List Slot) (s : State) : islands (l.foldl reopenNi s) = islands s :=
  islands_foldl fun _ _ => rfl

/-- Sending selections again is the Dipper's affair. -/
theorem resendSels_frame (s : State) (p : CtrUnit → Bool) : ∃ d, resendSels s p = { s with dip := d } := by
  unfold resendSels
  dsimp only
  generalize s.dip.resend.filter _ = due
  have fold (u : State) (l : List Nat) : ∃ d, l.foldl (fun s g => sendSel s g (sget selReset s.dip.sel g)) u =
      { u with dip := d } := by
    induction l generalizing u with
    | nil => exact ⟨_, rfl⟩
    | cons g l ih =>
      have one : ∃ d, sendSel u g (sget selReset u.dip.sel g) = { u with dip := d } := by
        unfold sendSel
        split
        · exact ⟨_, rfl⟩
        · split <;> exact ⟨_, rfl⟩
      obtain ⟨d, one⟩ := one
      obtain ⟨d', rest⟩ := ih (sendSel u g (sget selReset u.dip.sel g))
      exact ⟨d', by rw [List.foldl_cons, rest, one]⟩
  exact fold _ due

/-- The last part of step 3: what was discarded is added to the record. -/
def checkCounted (s : State) (c : ClusterId) (k : Nat) (l : Lost) : State :=
  updRecov s (fun v => { v with clusters := tupd v.clusters c (fun o => o.map (fun x => { x with
    discarded := x.discarded + k + l.packets, stores := x.stores + l.stores
    quarantined := x.quarantined + l.tags })) })

theorem islands_applyLoss (s : State) (n : Slot) : islands (applyLoss s n) = islands s := by
  obtain ⟨mb, mo, ri, st, gr, ev, d, c, k, loss⟩ := lossTo_applyLoss s n
  rw [loss]
  rfl

theorem clusterCheck_counts (s : State) (c : ClusterId) :
    ∃ u k l, clusterCheck s c = checkCounted u c k l ∧ islands u = islands s := by
  refine ⟨_, _, _, rfl, ?_⟩
  refine (islands_foldl fun u r => islands_restartRouter ..).trans ?_
  refine (islands_foldl fun u n => (islands_updN ..).trans (islands_applyLoss u n)).trans ?_
  refine (islands_foldl ?_).trans (islands_foldl fun u e => (islands_updE ..).trans (islands_farGivesUp ..))
  exact fun _ _ => islands_updR ..

theorem islands_clusterRejoin (s : State) (c : ClusterId) : islands (clusterRejoin s c) = islands s := by
  refine (islands_foldl (f := startTraining) fun _ _ => rfl).trans (islands_foldl ?_)
  exact fun _ _ => islands_updR ..

theorem islands_isolate (s : State) (c : ClusterId) :
    islands (isolate s c) = (s.recov, { s.aon with clkReq := setField s.aon.clkReq c.val 1 0 }, s.epochs) := by
  have same : islands ((clusterEnds c).foldl (fun s e => updE s e (lanesOff))
      ((linksInto c).foldl (fun s (r, p) => finishFrom (dropInto s r p) r p) s)) = islands s := by
    refine (islands_foldl ?_).trans (islands_foldl fun u x => (islands_updInVc ..).trans (islands_dropInto ..))
    exact fun _ _ => islands_updE ..
  have recov := recov_of_islands same
  have aon := aon_of_islands same
  have epochs := epochs_of_islands same
  simp only [isolate, islands, updAon, recov, aon, epochs]

section Cluster
variable {s : State} {c : ClusterId} {x : ClusterRec} (herd : herdRuns s = true) (record : clusterRec s c = some x)

section Others
variable (others : List LostBank)

omit herd in
include record in
theorem clusterRec_atStep (k : Nat) : clusterRec (atStep s c k) c = some { x with step := k } ∧
    ∀ d, d ≠ c → clusterRec (atStep s c k) d = clusterRec s d := by
  refine ⟨(tget_tupd ..).trans ?_, fun d other => tget_tupd_ne _ _ _ _ (Ne.symm other)⟩
  rw [show tget s.recov.clusters c = some x from record]
  rfl

end Others

include herd record

theorem recoveryStep_runs (reached : clusterReached s c = true) : exec (.clusterRecoveryStep c []) s = .next (
    match x.step with
    | 1 => putCluster (updAon s (fun a => { a with clkReq := setField a.clkReq c.val 1 1 })) c
        (some { x with step := 2, clkAsked := acl s })
    | 2 => if s.aon.clkAck.getLsbD c.val then clusterCheck (atStep s c 3) c else s
    | 3 => clusterLoad (atStep s c 4) c
    | 4 => clusterRejoin (atStep s c 5) c
    | 5 => (clusterSlots c).foldl reopenNi (atStep s c 6)
    | _ =>
      let s := putCluster s c none
      let s := if c = 8 then updHerd s (fun h => { h with rereadAll := true }) else s
      let s := resendSels s (fun u => inCluster c (unitRouter u))
      report s (mkEvent .recoverDone .cluster c.val 0 s.herd.epoch
        (BitVec.ofNat 32 (min 65535 (s.herd.epoch - x.start)))
        (BitVec.ofNat 128 (doneRecord x.discarded x.stores x.quarantined x.attempts)))) := by
  show execClusterRecoveryStep c [] s = _
  simp only [execClusterRecoveryStep, herd, reached, Bool.and_self, if_true, record]
  rfl

end Cluster

theorem foldl_updN_frame {β : Type} {f : State → β → State} {l : List β} (step : ∀ s x, ∃ ni, f s x = { s with nis := ni })
    (s : State) : ∃ ni, l.foldl f s = { s with nis := ni } := by
  induction l generalizing s with
  | nil => exact ⟨_, rfl⟩
  | cons x l ih =>
    obtain ⟨ni, one⟩ := step s x
    obtain ⟨ni', rest⟩ := ih (f s x)
    exact ⟨ni', by rw [List.foldl_cons, rest, one]⟩

theorem foldl_updR_frame {β : Type} {f : State → β → State} {l : List β} (step : ∀ s x, ∃ ro, f s x = { s with routers := ro })
    (s : State) : ∃ ro, l.foldl f s = { s with routers := ro } := by
  induction l generalizing s with
  | nil => exact ⟨_, rfl⟩
  | cons x l ih =>
    obtain ⟨ro, one⟩ := step s x
    obtain ⟨ro', rest⟩ := ih (f s x)
    exact ⟨ro', by rw [List.foldl_cons, rest, one]⟩

theorem clusterLoad_frame (s : State) (c : ClusterId) : ∃ due top ni ro, clusterLoad s c = { s with
    epochs := tupd s.epochs c (fun _ => s.herd.epoch), herd := { s.herd with tickDue := due }
    recov := { s.recov with epochTop := top }, nis := ni, routers := ro } := by
  unfold clusterLoad
  dsimp only
  obtain ⟨ni, nis⟩ := foldl_updN_frame (f := loadNi) (l := clusterSlots c) (fun _ _ => ⟨_, rfl⟩)
    (tickLoaded { s with epochs := tupd s.epochs c (fun _ => s.herd.epoch) } c)
  rw [nis]
  generalize same : { tickLoaded { s with epochs := tupd s.epochs c (fun _ => s.herd.epoch) } c with nis := ni } = u
  obtain ⟨ro, inside⟩ := foldl_updR_frame (f := fun s r => updR s r (fun x => { x with
    govLevel := s.herd.govLevel, govNext := none, spineUp := s.herd.spineUp
    outs := tmap x.outs (fun p o => { o with credit := outDepth r p, returning := tabAll 8 0 }) }))
    (l := clusterRouters c) (fun _ _ => ⟨_, rfl⟩) u
  rw [inside]
  obtain ⟨ro', into⟩ := foldl_updR_frame (f := fun s (x : RouterId × PortId) => updR s x.1 (fun y => updOut y x.2 (fun o =>
    { o with credit := outDepth x.1 x.2, returning := tabAll 8 0 }))) (l := linksInto c) (fun _ _ => ⟨_, rfl⟩)
    { u with routers := ro }
  subst same
  exact ⟨_, _, _, ro', into⟩

theorem clusterRec_putCluster (s : State) (c d : ClusterId) (x : Option ClusterRec) :
    clusterRec (putCluster s c x) d = if d = c then x else clusterRec s d :=
  (tget_tupd_if ..).trans (by simp [eq_comm, clusterRec])

section Cluster
variable {s : State} {c : ClusterId} {x : ClusterRec} (herd : herdRuns s = true) (record : clusterRec s c = some x)

include record in
/-- What every later step of a recovery leaves: only this cluster's recovery has gone on. -/
theorem onward {t : State} {k : Nat} (same : t.recov.clusters = (atStep s c k).recov.clusters) :
    (clusterRec t c).map (·.step) = some k ∧ ∀ d, d ≠ c → clusterRec t d = clusterRec s d := by
  have at_ (d : ClusterId) : clusterRec t d = clusterRec (atStep s c k) d := congrArg (fun v => tget v d) same
  obtain ⟨own, others⟩ := clusterRec_atStep record k
  exact ⟨by rw [at_, own]; rfl, fun d other => (at_ d).trans (others d other)⟩

include record in
theorem onward_checked {u : State} {k n : Nat} {l : Lost} (same : islands u = islands (atStep s c k)) :
    (clusterRec (checkCounted u c n l) c).map (·.step) = some k ∧
    ∀ d, d ≠ c → clusterRec (checkCounted u c n l) d = clusterRec s d := by
  obtain ⟨own, others⟩ := onward record (congrArg Recovery.clusters (recov_of_islands same))
  constructor
  · rw [← own, clusterRec, checkCounted, updRecov, tget_tupd, Option.map_map]
    rfl
  · intro d other
    rw [← others d other, clusterRec, checkCounted, updRecov, tget_tupd_ne _ _ _ _ (Ne.symm other)]
    rfl

include herd record

theorem recoveryStep_advances (reached : clusterReached s c = true) (low : 1 ≤ x.step) (high : x.step ≤ 5)
    (clocked : x.step = 2 → s.aon.clkAck.getLsbD c.val = true) :
    ∃ t, exec (.clusterRecoveryStep c []) s = .next t ∧
      (clusterRec t c).map (·.step) = some (x.step + 1) ∧
      (∀ d, d ≠ c → clusterRec t d = clusterRec s d) ∧
      (x.step = 1 → t.aon.clkReq.getLsbD c.val = true) ∧
      (x.step = 3 → tget t.epochs c = s.herd.epoch) ∧
      (x.step = 5 → ∀ n, slotCluster n = c → (nif t n).closed = false) ∧ t.recov.dead = s.recov.dead := by
  refine ⟨_, recoveryStep_runs herd record reached, ?_⟩
  have step : x.step = 1 ∨ x.step = 2 ∨ x.step = 3 ∨ x.step = 4 ∨ x.step = 5 := by omega
  rcases step with step | step | step | step | step <;> simp only [step]
  · refine ⟨by rw [clusterRec_putCluster, if_pos rfl]; rfl, fun d other => ?_, fun _ => ?_, by simp, by simp, rfl⟩
    · rw [clusterRec_putCluster, if_neg other]
      rfl
    · exact (getLsbD_setField ..).trans ((if_pos (by omega)).trans (by simp))
  · rw [if_pos (clocked step)]
    obtain ⟨u, k, l, counts, same⟩ := clusterCheck_counts (atStep s c 3) c
    rw [show clusterCheck _ c = _ from counts]
    obtain ⟨own, others⟩ := onward_checked record (n := k) (l := l) same
    exact ⟨own, others, by simp, by simp, by simp, (congrArg Recovery.dead (recov_of_islands same)).trans rfl⟩
  · obtain ⟨due, top, ni, ro, frame⟩ := clusterLoad_frame (atStep s c 4) c
    rw [frame]
    obtain ⟨own, others⟩ := onward record (k := 4) rfl
    exact ⟨own, others, by simp, fun _ => tget_tupd .., by simp, rfl⟩
  · have same := islands_clusterRejoin (atStep s c 5) c
    obtain ⟨own, others⟩ := onward record (congrArg Recovery.clusters (recov_of_islands same))
    exact ⟨own, others, by simp, by simp, by simp, (congrArg Recovery.dead (recov_of_islands same)).trans rfl⟩
  · have same := islands_reopenNis (clusterSlots c) (atStep s c 6)
    obtain ⟨own, others⟩ := onward record (congrArg Recovery.clusters (recov_of_islands same))
    refine ⟨own, others, by simp, by simp, fun _ n mine => ?_, (congrArg Recovery.dead (recov_of_islands same)).trans rfl⟩
    exact reopenNis_closed _ _ (mine ▸ mem_clusterSlots n)

theorem recoveryStep_ends (reached : clusterReached s c = true) (step : x.step = 6) :
    ∃ t, exec (.clusterRecoveryStep c []) s = .next t ∧ clusterRec t c = none ∧
      (∀ d, d ≠ c → clusterRec t d = clusterRec s d) ∧ reported s t .recoverDone .cluster c.val := by
  refine ⟨_, recoveryStep_runs herd record reached, ?_⟩
  simp only [step]
  have again (k : State) (same : k = putCluster s c none) :
      ∃ h, (if c = 8 then updHerd k (fun h => { h with rereadAll := true }) else k) =
        { putCluster s c none with herd := { s.herd with rereadAll := h } } := by
    subst same
    split
    · exact ⟨_, rfl⟩
    · exact ⟨_, rfl⟩
  obtain ⟨h, again⟩ := again _ rfl
  rw [again]
  obtain ⟨d, sels⟩ := resendSels_frame { putCluster s c none with herd := { s.herd with rereadAll := h } }
    (fun u => inCluster c (unitRouter u))
  rw [sels]
  refine ⟨tget_tupd .., fun d other => tget_tupd_ne _ _ _ _ (Ne.symm other), ?_⟩
  exact reported_report (by rfl) _

/-! ### A cluster whose clock does not come (R463, R464) -/

theorem recoveryRestart_runs (step : x.step = 2) (stopped : s.aon.clkAck.getLsbD c.val = false)
    (late : x.clkAsked + 320 ≤ acl s) : exec (.clusterRecoveryRestart c) s = .next (clusterAgain s c x) := by
  show execClusterRecoveryRestart c s = _
  simp [execClusterRecoveryRestart, herd, record, step, stopped, late]

theorem recoveryRestart_again (step : x.step = 2) (stopped : s.aon.clkAck.getLsbD c.val = false)
    (late : x.clkAsked + 320 ≤ acl s) (few : x.attempts < 3) :
    ∃ t, exec (.clusterRecoveryRestart c) s = .next t ∧
      clusterRec t c = some { x with step := 1, attempts := x.attempts + 1 } ∧ t.recov.dead = s.recov.dead := by
  refine ⟨_, recoveryRestart_runs herd record step stopped late, ?_⟩
  rw [clusterAgain, if_neg (by omega)]
  have same := congrArg Prod.fst (islands_isolate (putCluster s c (some { x with step := 1, attempts := x.attempts + 1 })) c)
  have recov : (isolate (putCluster s c (some { x with step := 1, attempts := x.attempts + 1 })) c).recov =
      (putCluster s c (some { x with step := 1, attempts := x.attempts + 1 })).recov := same
  exact ⟨(congrArg (fun v => tget v.clusters c) recov :).trans (tget_tupd ..), (congrArg Recovery.dead recov).trans rfl⟩

theorem recoveryRestart_dead (step : x.step = 2) (stopped : s.aon.clkAck.getLsbD c.val = false)
    (late : x.clkAsked + 320 ≤ acl s) (many : 3 ≤ x.attempts) :
    ∃ t, exec (.clusterRecoveryRestart c) s = .next t ∧ clusterRec t c = none ∧
      t.recov.dead.getLsbD c.val = true ∧ t.aon.clkReq.getLsbD c.val = false ∧
      reported s t .clusterDead .cluster c.val := by
  refine ⟨_, recoveryRestart_runs herd record step stopped late, ?_⟩
  rw [clusterAgain, if_pos many]
  dsimp only
  obtain ⟨sp, down⟩ := foldl_updE_frame (fun _ y => { y with state := .down }) (clusterEnds c)
    (putCluster (updRecov s (fun v => { v with dead := setField v.dead c.val 1 1 })) c none)
  rw [down]
  refine ⟨tget_tupd .., ?_, ?_, reported_report (by rfl) _⟩
  · exact (getLsbD_setField ..).trans ((if_pos (by omega)).trans (by simp))
  · exact (getLsbD_setField ..).trans ((if_pos (by omega)).trans (by simp))

end Cluster

/-! ### The die -/

/-- Whatever was handed to the Herdsman is still there. -/
def Tells (s t : State) : Prop := ∃ evs, t.herd.reports = s.herd.reports ++ evs

theorem Tells.of_eq {s t : State} (same : t.herd.reports = s.herd.reports) : Tells s t := ⟨[], by rw [same, List.append_nil]⟩

theorem Tells.of_addsReports {s t : State} (adds : addsReports s t) : Tells s t := by
  obtain ⟨evs, herd⟩ := adds
  exact ⟨evs, by rw [herd]⟩

theorem Tells.trans {s t u : State} (first : Tells s t) (second : Tells t u) : Tells s u := by
  obtain ⟨evs, e⟩ := first
  obtain ⟨evs', e'⟩ := second
  exact ⟨evs ++ evs', by rw [e', e, List.append_assoc]⟩

theorem tells_foldl {β : Type} {f : State → β → State} {l : List β} (step : ∀ s x, Tells s (f s x)) (s : State) :
    Tells s (l.foldl f s) := by
  induction l generalizing s with
  | nil => exact .of_eq rfl
  | cons x l ih => exact (step s x).trans (ih _)

theorem reported_of_tells {s u : State} (tells : Tells s u) (ev : Event) :
    reported s (report u ev) ev.code ev.kind ev.num := by
  obtain ⟨evs, same⟩ := tells
  exact ⟨evs, [], ev, by simp [report, updHerd, same], rfl, rfl, rfl⟩

theorem tells_restartRouter (s : State) (r : RouterId) : Tells s (restartRouter s r) := by
  refine tells_foldl (fun u x => ?_) s
  have accrued : Tells u (accrueUnit u x) := by
    cases x with
    | spine e =>
      simp only [accrueUnit, accruePool]
      split
      · exact (Tells.of_addsReports (addsReports_bump ..)).trans (.of_eq rfl)
      · exact .of_eq rfl
    | router r => exact .of_eq rfl
    | ni n => exact .of_eq rfl
  exact accrued.trans (.of_eq rfl)

theorem foldl_sets {P : State → Slot → Prop} {f : State → Slot → State} (sets : ∀ s n, P (f s n) n)
    (keeps : ∀ s n m, P s m → P (f s n) m) (l : List Slot) (s : State) {n : Slot} (mem : n ∈ l) : P (l.foldl f s) n := by
  have kept (l : List Slot) (s : State) (h : P s n) : P (l.foldl f s) n := by
    induction l generalizing s with
    | nil => exact h
    | cons m l ih => exact ih _ (keeps s m n h)
  obtain ⟨before, after, rfl⟩ := List.append_of_mem mem
  rw [List.foldl_append, List.foldl_cons]
  exact kept _ _ (sets _ n)

section Die
variable {s : State} {d : DieRec}

/-- The recovery of the die at a step. -/
def dieAtStep (s : State) (k : Nat) : State :=
  updRecov s (fun v => { v with die := v.die.map (fun x => { x with step := k, since := s.herd.epoch }) })

theorem dieStep_runs (herd : herdRuns s = true) (record : s.recov.die = some d) (alive : s.recov.failed = false) :
    exec (.dieRecoveryStep []) s = .next (
      match d.step with
      | 1 => dieAtStep s 2
      | 2 => if dieDrained s || decide (d.since + 16 ≤ s.herd.epoch) then dieDiscard (dieAtStep s 3) else s
      | 3 => (List.finRange 12).foldl (fun s e => if endRuns s e then startTraining s e else s) (dieAtStep s 4)
      | 4 => if s.spine.toList.any (fun x => x.state == .train) then s else dieAtStep s 5
      | _ => dieOpen (dieReload s []) d) := by
  show execDieRecoveryStep [] s = _
  simp only [execDieRecoveryStep, herd, alive, record, Bool.not_false, Bool.and_self, if_true]
  rfl

/-- What step 3 of the die's recovery does at one NI. -/
def dieWipe (s : State) (n : Slot) : State :=
  updN (applyLoss (bumpGen s n true) n) n (fun x => { x with
    credit := depthLocal, returning := tabAll 8 0, sending := tabAll 8 none })

theorem dieWipe_keeps (s : State) (n : Slot) : islands (dieWipe s n) = islands s ∧
    (dieWipe s n).herd.spineUp = s.herd.spineUp ∧ ∀ m, m ≠ n → nif (dieWipe s n) m = nif s m := by
  obtain ⟨g, gl, rs, gens⟩ := bumpGen_frame s n true
  obtain ⟨mb, mo, ri, st, gr, ev, d, c, k, loss⟩ := lossTo_applyLoss (bumpGen s n true) n
  unfold dieWipe
  rw [loss, gens]
  exact ⟨rfl, rfl, fun m other => (nif_updN_ne _ _ _ _ other.symm).trans (nif_updN_ne _ _ _ _ other.symm)⟩

theorem dieWipe_wipes (s : State) (n : Slot) :
    (nif (dieWipe s n) n).closed = true ∧ (nif (dieWipe s n) n).inj = [] := by
  obtain ⟨mb, mo, ri, st, gr, ev, d, c, k, loss⟩ := lossTo_applyLoss (bumpGen s n true) n
  have wiped : nif (applyLoss (bumpGen s n true) n) n =
      { wipeNi n (epochN (bumpGen s n true) n) (nif (bumpGen s n true) n) with closed := true } :=
    (congrArg (fun t => nif t n) loss).trans (nif_updN_same ..)
  rw [dieWipe, nif_updN_same, wiped]
  exact ⟨rfl, rfl⟩

theorem dieWipe_all (u : State) (l : List Slot) (all : ∀ n, n ∈ l) : islands (l.foldl dieWipe u) = islands u ∧
    (∀ n, (nif (l.foldl dieWipe u) n).closed = true ∧ (nif (l.foldl dieWipe u) n).inj = []) ∧
    (l.foldl dieWipe u).herd.spineUp = u.herd.spineUp := by
  refine ⟨islands_foldl fun t n => (dieWipe_keeps t n).1, fun n => ?_, List.foldlRecOn
    (motive := fun t => t.herd.spineUp = u.herd.spineUp) _ _ rfl fun t h n _ => (dieWipe_keeps t n).2.1.trans h⟩
  refine foldl_sets (P := fun t n => (nif t n).closed = true ∧ (nif t n).inj = []) dieWipe_wipes (fun t m n h => ?_) l u
    (all n)
  by_cases own : n = m
  · subst own
    exact dieWipe_wipes t n
  · rw [(dieWipe_keeps t m).2.2 n own]
    exact h

/-- The emptied die before its NIs are wiped. -/
def dieEmptied (s : State) : State :=
  let s := updAllE s emptyEnd
  let s := updAllR s (fun r _ => emptyRouter s r)
  let s := updAllR s (fun r x => { x with
    spineUp := 0, outs := tmap x.outs (fun p o => { o with down := beyondDead s r p }) })
  updHerd s (fun h => { h with spineUp := 0 })

theorem dieEmptied_frame (s : State) : ∃ ro sp, dieEmptied s = { s with
    routers := ro, spine := sp, herd := { s.herd with spineUp := 0 } } :=
  ⟨_, _, rfl⟩

theorem dieDiscard_eq (s : State) : ∃ a b c : DieRec → Nat, dieDiscard s =
    updRecov ((List.finRange 192).foldl dieWipe (dieEmptied s)) (fun v => { v with die := v.die.map (fun d => { d with
      discarded := a d, stores := b d, quarantined := c d }) }) := by
  unfold dieDiscard dieEmptied
  dsimp only
  generalize List.finRange 192 = l
  exact ⟨_, _, _, rfl⟩

theorem wiped_of_islands {s t : State} {a b c : DieRec → Nat} (same : islands t = islands s)
    (wipes : ∀ n, (nif t n).closed = true ∧ (nif t n).inj = []) (spine : t.herd.spineUp = 0)
    {u : State} (counted : u = updRecov t (fun v => { v with die := v.die.map (fun d => { d with
      discarded := a d, stores := b d, quarantined := c d }) })) :
    u.recov.die.map (·.step) = s.recov.die.map (·.step) ∧ u.aon = s.aon ∧
      (∀ n, (nif u n).closed = true ∧ (nif u n).inj = []) ∧ u.herd.spineUp = 0 := by
  subst counted
  refine ⟨?_, (aon_of_islands same :), wipes, spine⟩
  refine Eq.trans ?_ (congrArg (fun v => v.die.map (·.step)) (recov_of_islands same) :)
  simp only [updRecov, Option.map_map]
  rfl

theorem dieDiscard_discards (s : State) :
    (dieDiscard s).recov.die.map (·.step) = s.recov.die.map (·.step) ∧ (dieDiscard s).aon = s.aon ∧
      (∀ n, (nif (dieDiscard s) n).closed = true ∧ (nif (dieDiscard s) n).inj = []) ∧ (dieDiscard s).herd.spineUp = 0 := by
  obtain ⟨a, b, c, discards⟩ := dieDiscard_eq s
  obtain ⟨isles, wipes, spine⟩ := dieWipe_all (dieEmptied s) (List.finRange 192) List.mem_finRange
  obtain ⟨ro, sp, emptied⟩ := dieEmptied_frame s
  have unlit : (dieEmptied s).herd.spineUp = 0 := by rw [emptied]
  have stands : islands (dieEmptied s) = islands s := by rw [emptied]; rfl
  exact wiped_of_islands (isles.trans stands) wipes (spine.trans unlit) discards

theorem dieRecovery_advances (herd : herdRuns s = true) (record : s.recov.die = some d) (alive : s.recov.failed = false)
    (low : 1 ≤ d.step) (high : d.step ≤ 4) (drained : d.step = 2 → dieDrained s = true ∨ d.since + 16 ≤ s.herd.epoch)
    (trained : d.step = 4 → ∀ e, (spn s e).state ≠ .train) :
    ∃ t, exec (.dieRecoveryStep []) s = .next t ∧ (t.recov.die).map (·.step) = some (d.step + 1) ∧
      (d.step = 2 → (∀ n, (nif t n).closed = true ∧ (nif t n).inj = []) ∧ t.herd.spineUp = 0) ∧
      t.aon.mode = s.aon.mode := by
  refine ⟨_, dieStep_runs herd record alive, ?_⟩
  have goes (k : Nat) : (dieAtStep s k).recov.die.map (·.step) = some k := by
    simp [dieAtStep, updRecov, record]
  have step : d.step = 1 ∨ d.step = 2 ∨ d.step = 3 ∨ d.step = 4 := by omega
  rcases step with step | step | step | step <;> simp only [step]
  · exact ⟨goes 2, by simp, rfl⟩
  · have due : (dieDrained s || decide (d.since + 16 ≤ s.herd.epoch)) = true := by simpa using drained step
    rw [if_pos due]
    obtain ⟨die, aon, nis, spine⟩ := dieDiscard_discards (dieAtStep s 3)
    exact ⟨die.trans (goes 3), fun _ => ⟨nis, spine⟩, congrArg Aon.mode aon⟩
  · have same : islands ((List.finRange 12).foldl (fun s e => if endRuns s e then startTraining s e else s)
        (dieAtStep s 4)) = islands (dieAtStep s 4) := by
      refine islands_foldl fun u e => ?_
      split <;> rfl
    exact ⟨(congrArg (fun v => v.die.map (·.step)) (recov_of_islands same :)).trans (goes 4), by simp,
      congrArg Aon.mode (aon_of_islands same :)⟩
  · have none_ : ¬ s.spine.toList.any (fun x => x.state == .train) = true := by
      rw [any_toList_eq_false fun e => by simpa using trained step e]
      simp
    rw [if_neg none_]
    exact ⟨goes 5, by simp, rfl⟩

/-- The always-on island, the epoch counters and the dead clusters stand, and so does what was handed to the Herdsman. -/
def Reloads (s t : State) : Prop :=
  (t.aon, t.epochs, t.recov.dead) = (s.aon, s.epochs, s.recov.dead) ∧ Tells s t

theorem Reloads.trans {s t u : State} (first : Reloads s t) (second : Reloads t u) : Reloads s u :=
  ⟨second.1.trans first.1, first.2.trans second.2⟩

theorem reloads_foldl {β : Type} {f : State → β → State} {l : List β} (step : ∀ s x, Reloads s (f s x)) (s : State) :
    Reloads s (l.foldl f s) := by
  induction l generalizing s with
  | nil => exact ⟨rfl, .of_eq rfl⟩
  | cons x l ih => exact (step s x).trans (ih _)

theorem reloads_of_islands {s t : State} (same : islands t = islands s) (tells : Tells s t) : Reloads s t := by
  refine ⟨?_, tells⟩
  rw [aon_of_islands same, epochs_of_islands same, recov_of_islands same]

theorem dieReload_reloads (s : State) : Reloads { s with epochs := tabAll 24 s.herd.epoch } (dieReload s []) := by
  unfold dieReload
  dsimp only
  rw [show checkBanks s (fun _ => true) [] = s from rfl]
  have ticks := reloads_foldl (f := tickLoaded) (l := List.finRange 24) (fun _ _ => ⟨rfl, .of_eq rfl⟩)
    { s with epochs := tabAll 24 s.herd.epoch }
  have nis := ticks.trans (reloads_foldl (f := loadNi) (l := List.finRange 192) (fun _ _ => ⟨rfl, .of_eq rfl⟩) _)
  have routers := nis.trans (reloads_foldl (f := restartRouter) (l := List.finRange 96)
    (fun t r => reloads_of_islands (islands_restartRouter ..) (tells_restartRouter t r)) _)
  generalize ((List.finRange 96).foldl restartRouter _) = u at routers ⊢
  generalize reset : updAllR u _ = v
  have emptied : Reloads { s with epochs := tabAll 24 s.herd.epoch } v := by
    subst reset
    exact routers.trans ⟨rfl, .of_eq rfl⟩
  generalize ended : v.herd.started.foldl _ v = w
  have ends : Reloads v w := by
    subst ended
    refine reloads_foldl (fun t c => ?_) v
    split
    · exact ⟨rfl, .of_eq rfl⟩
    · obtain ⟨l, frame⟩ := endCmd_started t c.ring c.index .notReady 0 0
      rw [frame]
      exact ⟨rfl, .of_eq rfl⟩
  exact (emptied.trans ends).trans ⟨rfl, .of_eq rfl⟩

/-- What the last step of the die's recovery does at one NI: the NIs of a dead cluster stay closed. -/
def dieReopen (s : State) (n : Slot) : State := if s.recov.dead.getLsbD (slotCluster n).val then s else reopenNi s n

theorem dieReopen_opens (l : List Slot) (s : State) {n : Slot} (mem : n ∈ l)
    (alive : (l.foldl dieReopen s).recov.dead.getLsbD (slotCluster n).val = false) :
    (nif (l.foldl dieReopen s) n).closed = false := by
  refine foldl_sets (P := fun t n => t.recov.dead.getLsbD (slotCluster n).val = false → (nif t n).closed = false)
    (f := dieReopen) (fun t m => ?_) (fun t k m h => ?_) l s mem alive
  · unfold dieReopen
    split
    case isTrue dead => exact fun alive => absurd (dead.symm.trans alive) (by decide)
    case isFalse => exact fun _ => congrArg NI.closed (nif_updN_same ..)
  · unfold dieReopen
    split
    · exact h
    · rw [reopenNi, nif_updN]
      split
      · exact fun _ => rfl
      · exact h

theorem dieRecovery_ends (herd : herdRuns s = true) (record : s.recov.die = some d) (alive : s.recov.failed = false)
    (step : d.step = 5) :
    ∃ t, exec (.dieRecoveryStep []) s = .next t ∧ t.recov.die = none ∧ t.aon.mode = .train ∧
      (∀ c, tget t.epochs c = s.herd.epoch) ∧
      (∀ n, s.recov.dead.getLsbD (slotCluster n).val = false → (nif t n).closed = false) ∧
      reported s t .recoverDone .die 0 := by
  refine ⟨_, dieStep_runs herd record alive, ?_⟩
  simp only [step]
  obtain ⟨same, tells⟩ := dieReload_reloads s
  generalize dieReload s [] = u at same tells
  have aon := congrArg Prod.fst same
  have epochs := congrArg (fun p => p.2.1) same
  have dead := congrArg (fun p => p.2.2) same
  dsimp only at aon epochs dead
  unfold dieOpen
  dsimp only
  generalize start : setPorts _ = v
  generalize all : List.finRange 192 = l
  have mem (n : Slot) : n ∈ l := all ▸ List.mem_finRange n
  have opened : islands (l.foldl dieReopen v) = islands v := by
    refine islands_foldl fun t n => ?_
    unfold dieReopen
    split <;> rfl
  have told : Tells v (l.foldl dieReopen v) := by
    refine tells_foldl (fun t n => ?_) v
    unfold dieReopen
    split <;> exact .of_eq rfl
  have recov := recov_of_islands opened
  refine ⟨?_, ?_, fun c => ?_, fun n lives => ?_, ?_⟩
  · refine (congrArg Recovery.die recov :).trans ?_
    subst start
    rfl
  · refine (congrArg Aon.mode (aon_of_islands opened) :).trans ?_
    subst start
    rfl
  · refine (congrArg (fun v => tget v c) (epochs_of_islands opened) :).trans ?_
    subst start
    exact (congrArg (fun v => tget v c) epochs :).trans (by simp)
  · refine dieReopen_opens _ v (mem n) ?_
    rw [recov]
    subst start
    exact (congrArg (fun b => b.getLsbD (slotCluster n).val) dead :).trans lives
  · refine reported_of_tells (ev := mkEvent .recoverDone .die 0 0 _ _ _) (Tells.trans ?_ (told.trans (.of_eq rfl)))
    subst start
    exact (tells.trans (.of_eq rfl) :)

end Die

/-- Settles O57. -/
theorem recoverySteps : Obligations.RecoverySteps := by
  intro s herd
  refine ⟨fun c x record reached => ⟨recoveryStep_advances herd record reached, recoveryStep_ends herd record reached⟩,
    fun c x record step stopped late => ⟨recoveryRestart_again herd record step stopped late,
      recoveryRestart_dead herd record step stopped late⟩, fun d record alive =>
    ⟨dieRecovery_advances herd record alive, dieRecovery_ends herd record alive⟩⟩

end Sys2Proof.Proofs

/-! ## Stored data: scrubbing and bank copies (R435, R440, R443, R445). -/

namespace Sys2Proof.Proofs
open Sys2Proof.Machine Sys2Proof.Safety

theorem engineOf_putEngine (s : State) {e : Engine} {b : BankRef} (own : e.bank = b) :
    engineOf (putEngine s e) b = e := by
  subst own
  have none_ : (s.churn.engines.filter (fun x => x.bank != e.bank)).find? (fun x => x.bank == e.bank) = none := by
    simp [List.find?_eq_none]
  simp [engineOf, putEngine, updChurn, List.find?_append, none_]

theorem engineOf_putEngine_ne (s : State) {e : Engine} {b : BankRef} (other : b ≠ e.bank) :
    engineOf (putEngine s e) b = engineOf s b := by
  have same : (s.churn.engines.filter (fun x => x.bank != e.bank)).find? (fun x => x.bank == b) =
      s.churn.engines.find? (fun x => x.bank == b) := by
    rw [List.find?_filter]
    congr 1
    funext x
    by_cases h : x.bank = b <;> simp [h, other]
  simp only [engineOf, putEngine, updChurn, List.find?_append, same]
  simp [Ne.symm other]

theorem bank_engineOf (s : State) (b : BankRef) : (engineOf s b).bank = b := by
  unfold engineOf
  cases h : s.churn.engines.find? (fun e => e.bank == b) with
  | none => rfl
  | some e => simpa using List.find?_some h

theorem repBank_report (s : State) (b : BankRef) (code : EventCode) (record : Nat) : ∃ ev, repBank s b code record = report s ev ∧
    ev.code = code ∧ ev.record = BitVec.ofNat 128 record := by
  unfold repBank
  split
  · exact ⟨_, rfl, rfl, rfl⟩
  · split <;> exact ⟨_, rfl, rfl, rfl⟩

/-- A corrected word is counted. -/
theorem wordFixed_counts (s : State) (b : BankRef) (row w syn src : Nat) {t : State}
    (fixed : wordFixed s b row w syn src = t) :
    t.churn.corrections = min (2 ^ 32 - 1) (s.churn.corrections + 1) ∧ t.churn.bad = s.churn.bad ∧ onlyReports s t ∧
      t = { s with churn := t.churn, herd := t.herd } := by
  subst fixed
  unfold wordFixed
  dsimp only
  split
  · obtain ⟨ev, rep, -, -⟩ := repBank_report (putEngine _ _) b .eccRepeat (eccRecord _ b row w syn 0 src)
    rw [rep]
    exact ⟨rfl, rfl, rfl, rfl⟩
  · exact ⟨rfl, rfl, rfl, rfl⟩

theorem field_eccRecord (s : State) (b : BankRef) (row w syn kind src : Nat) :
    field (BitVec.ofNat 128 (eccRecord s b row w syn kind src)) 90 3 = kind % 8 ∧
    field (BitVec.ofNat 128 (eccRecord s b row w syn kind src)) 104 8 = row % 256 := by
  unfold eccRecord
  dsimp only
  rw [BitVec.ofNat_toNat, BitVec.setWidth_eq]
  constructor
  · rw [field_setField_of_out _ _ (by omega), field_setField _ _ (by omega), show 2 ^ 3 = 8 from rfl]
  · rw [field_setField_of_out _ _ (by omega), field_setField_of_out _ _ (by omega), field_setField_of_out _ _ (by omega),
      field_setField_of_out _ _ (by omega), field_setField _ _ (by omega), show 2 ^ 8 = 256 from rfl]

section Scrub
variable {s : State} {b : BankRef} {row : Nat} {i : Instr} {seen : List (EccSeen × WordKind)}

/-- A command that scrubs a line. -/
theorem scrub_exec (which : i = .scrubLine b row seen ∨ (i = .scrubForce b row seen ∧ pailEnd b = none)) :
    exec i s = .next (scrub s b row seen) := by
  rcases which with rfl | ⟨rfl, noPail⟩
  · rfl
  · exact congrArg Host.Outcome.next (if_neg (by simp [noPail]))

/-- What ends the scrub of a line: its group's parity is right again, and the engine goes on. -/
def lineDone (s : State) (b : BankRef) (row done : Nat) : State :=
  let s := updChurn s (fun c => { c with groupBad := c.groupBad.filter (fun g => !isGroup b row g) })
  putEngine s { engineOf s b with done := done + 1 }

variable (valid : validBank b = true) (runs : engineRuns s b = true) (due : (engineOf s b).done < bankDue s b)
  (next : row = (engineOf s b).done % bankRows b) (still : ∀ e, pailEnd b = some e → (spn s e).replay = none)
include valid runs due next still

theorem scrub_line (fine : (seen.any (fun x => x.1 == .group) && !s.churn.groupBad.any (isGroup b row)) = false) :
    scrub s b row seen = lineDone (scrubWords s b row seen) b row (engineOf s b).done := by
  subst next
  have ready : (validBank b && engineRuns s b && decide ((engineOf s b).done < bankDue s b)) = true := by
    simp [valid, runs, due]
  unfold scrub
  dsimp only
  rw [if_pos (by cases pail : pailEnd b <;> simp [ready, still, pail]), if_neg (by simp only [fine]; simp)]
  rfl

theorem scrub_group (broken : seen.any (fun x => x.1 == .group) = true)
    (new : s.churn.groupBad.any (isGroup b row) = false) :
    scrub s b row seen = groupFails s b row ((seen.take 8).map (·.2)) := by
  subst next
  have ready : (validBank b && engineRuns s b && decide ((engineOf s b).done < bankDue s b)) = true := by
    simp [valid, runs, due]
  unfold scrub
  dsimp only
  rw [if_pos (by cases pail : pailEnd b <;> simp [ready, still, pail]), if_pos (by simp only [broken, new]; simp)]

end Scrub

section Lines
variable (s : State) (b : BankRef) (row done : Nat)

theorem lineDone_goes : (engineOf (lineDone s b row done) b).done = done + 1 :=
  congrArg Engine.done (engineOf_putEngine (e := { engineOf s b with done := done + 1 }) _ (bank_engineOf s b))

theorem lineDone_others {d : BankRef} (other : d ≠ b) : engineOf (lineDone s b row done) d = engineOf s d :=
  engineOf_putEngine_ne _ (other.trans_eq (bank_engineOf s b).symm)

theorem lineDone_frame : lineDone s b row done = { s with churn := { s.churn with
    engines := (lineDone s b row done).churn.engines
    groupBad := s.churn.groupBad.filter (fun g => !isGroup b row g) } } := rfl

theorem lineDone_mended : (lineDone s b row done).churn.groupBad.any (isGroup b row) = false := by
  simp [lineDone, putEngine, updChurn]

end Lines

/-- The first time that the valid-bit group of a line with one word fails. -/
theorem groupFails_other (s : State) (b : BankRef) (row : Nat) : ∃ ev, groupFails s b row [.other] = report
      (updChurn s (fun c => { c with
        uncorrectable := satAdd (2 ^ 32 - 1) c.uncorrectable 1, groupBad := c.groupBad ++ [(b, row, [.other])] })) ev ∧
    ev.code = .eccUncorrectable ∧ field ev.record 90 3 = 2 ∧ field ev.record 104 8 = row % 256 := by
  unfold groupFails
  dsimp only
  rw [List.zipIdx_singleton, List.foldl_cons, List.foldl_nil]
  generalize updChurn s _ = u
  obtain ⟨ev, rep, code, record⟩ := repBank_report u b .eccUncorrectable (eccRecord u b row 0 0 2 srcChurn)
  obtain ⟨kind, line⟩ := field_eccRecord u b row 0 0 2 srcChurn
  refine ⟨ev, ?_, code, record ▸ kind, record ▸ line⟩
  dsimp only
  rw [rep]
  unfold ownerRule
  cases b.unit <;> rfl

/-! ### What the obligation says of stored data -/

section Scrubs
variable {s : State} {b : BankRef} {row : Nat} {i : Instr} {seen : List (EccSeen × WordKind)}
  (which : i = .scrubLine b row seen ∨ (i = .scrubForce b row seen ∧ pailEnd b = none))
  (valid : validBank b = true) (runs : engineRuns s b = true) (due : (engineOf s b).done < bankDue s b)
  (next : row = (engineOf s b).done % bankRows b) (still : ∀ e, pailEnd b = some e → (spn s e).replay = none)
include which valid runs due next still

theorem scrub_clean (none_ : seen = []) : ∃ t, exec i s = .next t ∧ (engineOf t b).done = (engineOf s b).done + 1 ∧
    (∀ d, d ≠ b → engineOf t d = engineOf s d) ∧ t = { s with churn := { s.churn with
      engines := t.churn.engines, groupBad := s.churn.groupBad.filter (fun g => !isGroup b row g) } } := by
  subst none_
  refine ⟨_, (scrub_exec which).trans (congrArg _ (scrub_line valid runs due next still rfl)), ?_, fun d other => ?_, ?_⟩
  · exact lineDone_goes s b row _
  · exact lineDone_others s b row _ other
  · exact lineDone_frame s b row _

theorem scrub_single {syn : BitVec 8} {k : WordKind} (one : seen = [(.single syn, k)]) :
    ∃ t, exec i s = .next t ∧ t.churn.corrections = min (2 ^ 32 - 1) (s.churn.corrections + 1) ∧
      (engineOf t b).done = (engineOf s b).done + 1 ∧ t.churn.bad = s.churn.bad ∧ onlyReports s t ∧
      t = { s with churn := t.churn, herd := t.herd } := by
  subst one
  refine ⟨_, (scrub_exec which).trans (congrArg _ (scrub_line valid runs due next still rfl)), ?_⟩
  obtain ⟨corrections, bad, reports, frame⟩ := wordFixed_counts s b row 0 syn.toNat srcChurn rfl
  rw [show scrubWords s b row [(.single syn, k)] = wordFixed s b row 0 syn.toNat srcChurn from rfl]
  generalize wordFixed s b row 0 syn.toNat srcChurn = u at *
  refine ⟨corrections, lineDone_goes u b row _, bad, reports, ?_⟩
  rw [lineDone_frame u b row]
  exact congrArg (fun v : State => { v with churn := (lineDone u b row (engineOf s b).done).churn }) frame

theorem scrub_mended (group : seen = [(.group, .other)]) (known : s.churn.groupBad.any (isGroup b row) = true) :
    ∃ t, exec i s = .next t ∧ (engineOf t b).done = (engineOf s b).done + 1 ∧
      t.churn.groupBad.any (isGroup b row) = false ∧ t.churn.uncorrectable = s.churn.uncorrectable ∧
      t = { s with churn := t.churn } := by
  subst group
  refine ⟨_, (scrub_exec which).trans (congrArg _ (scrub_line valid runs due next still (by simp [known]))), ?_⟩
  exact ⟨lineDone_goes s b row _, lineDone_mended s b row _, rfl, lineDone_frame s b row _⟩

theorem scrub_broken (group : seen = [(.group, .other)]) (new : s.churn.groupBad.any (isGroup b row) = false) :
    ∃ t ev, exec i s = .next t ∧ t.churn.uncorrectable = min (2 ^ 32 - 1) (s.churn.uncorrectable + 1) ∧
      t.churn.groupBad = s.churn.groupBad ++ [(b, row, [.other])] ∧ t.churn.engines = s.churn.engines ∧
      t.herd.reports = s.herd.reports ++ [ev] ∧ ev.code = .eccUncorrectable ∧ field ev.record 90 3 = 2 ∧
      field ev.record 104 8 = row % 256 ∧ onlyReports s t ∧ t = { s with churn := t.churn, herd := t.herd } := by
  subst group
  obtain ⟨ev, fails, code, kind, line⟩ := groupFails_other s b row
  refine ⟨_, ev, (scrub_exec which).trans (congrArg _ ((scrub_group valid runs due next still rfl new).trans fails)), ?_⟩
  exact ⟨rfl, rfl, rfl, rfl, code, kind, line, rfl, rfl⟩

end Scrubs

theorem bankCopyDone_copies (s : State) (b : BankRef) (runs : routerRuns s (tabRouter b.unit) = true) :
    ∃ t, exec (.bankCopyDone b) s = .next t ∧ (∀ p, (b, p) ∈ s.churn.copying → (b, p) ∈ t.churn.copied) ∧
      (∀ p, (b, p) ∉ t.churn.copying) ∧
      t = { s with churn := { s.churn with copying := t.churn.copying, copied := t.churn.copied } } :=
  ⟨_, congrArg Host.Outcome.next (if_pos runs), fun p copying => by simp [updChurn, copying], fun p => by simp [updChurn],
    rfl⟩

end Sys2Proof.Proofs

/-! ## What faults do (R36, R456, R457, R460, R466): O56. -/

namespace Sys2Proof.Proofs
open Sys2Proof.Machine Sys2Proof.Safety

/-! ### A lost cluster clock -/

theorem outOf_updOut (s : State) (r q : RouterId) (p v : PortId) (f : RouterOut → RouterOut) :
    outOf (updR s r (fun x => updOut x p f)) q v = if (q, v) = (r, p) then f (outOf s q v) else outOf s q v := by
  by_cases own : r = q
  · subst own
    rw [outOf, rtr_updR, if_pos rfl]
    refine (tget_tupd_if ..).trans ?_
    by_cases same : p = v
    · subst same
      simp [outOf]
    · simp [same, Ne.symm same, outOf]
  · rw [outOf, rtr_updR_ne _ _ _ _ own, if_neg (by simp [Ne.symm own])]
    rfl

/-- The outputs of a list, made down. -/
def allDown (l : List (RouterId × PortId)) (s : State) : State :=
  l.foldl (fun s (r, p) => updR s r (fun x => updOut x p (fun o => { o with down := true }))) s

theorem outOf_allDown (l : List (RouterId × PortId)) (s : State) (r : RouterId) (p : PortId) :
    outOf (allDown l s) r p = if (r, p) ∈ l then { outOf s r p with down := true } else outOf s r p := by
  induction l generalizing s with
  | nil => rfl
  | cons x l ih =>
    refine (ih _).trans ?_
    rw [outOf_updOut]
    by_cases own : (r, p) = x <;> by_cases later : (r, p) ∈ l <;> simp [own, later]

section Faults
variable {s : State}

theorem clusterClockLost_seen {c : ClusterId} (runs : clusterRuns s c = true) :
    ∃ t, exec (.clusterClockLost c) s = .next t ∧ reported s t .clusterClockLost .cluster c.val ∧
      t.herd.reports.length = s.herd.reports.length + (clusterSectors c).length ∧
      (∀ n ∈ clusterSectors c, ∃ ev ∈ t.herd.reports, ev.code = .clusterClockLost ∧ ev.num = c.val ∧
        ev.sectors = secBit n) ∧
      (∀ r p, (r, p) ∈ linksInto c → outOf t r p = { outOf s r p with down := true }) ∧
      (∀ r p, (r, p) ∉ linksInto c → outOf t r p = outOf s r p) ∧ onlyReports s t ∧
      t = { s with routers := t.routers, herd := t.herd } := by
  refine ⟨_, congrArg Host.Outcome.next (if_pos runs), ?_⟩
  have outs := outOf_allDown (linksInto c) s
  obtain ⟨ro, down⟩ := foldl_updR_frame (f := fun s (x : RouterId × PortId) => updR s x.1 (fun y =>
    updOut y x.2 (fun o => { o with down := true }))) (l := linksInto c) (fun _ _ => ⟨_, rfl⟩) s
  have down : allDown (linksInto c) s = { s with routers := ro } := down
  rw [down] at outs
  rw [show markDown s c = _ from down]
  simp only [clusterSectors, List.foldl_cons, List.foldl_nil]
  refine ⟨reported_of_tells ⟨_, rfl⟩ _, by simp [report, updHerd], fun n mem => ?_,
    fun r p into => (outs r p).trans (if_pos into), fun r p out => (outs r p).trans (if_neg out), rfl, rfl⟩
  simp only [List.mem_cons, List.not_mem_nil, or_false] at mem
  rcases mem with rfl | rfl
  · exact ⟨mkEvent .clusterClockLost .cluster c.val (secBit _) (tget s.epochs c) 0 0, by simp [report, updHerd], rfl, rfl, rfl⟩
  · exact ⟨mkEvent .clusterClockLost .cluster c.val (secBit _) (tget s.epochs c) 0 0, by simp [report, updHerd], rfl, rfl, rfl⟩

theorem routerStateUe_told {r : RouterId} (clocks : clocksRun s = true)
    (alive : s.recov.dead.getLsbD (clusterOf r).val = false) :
    ∃ t, exec (.routerStateUe r) s = .next t ∧ reported s t .routerStateUe .router r.val ∧ onlyReports s t ∧
      t = { s with herd := t.herd } :=
  ⟨_, congrArg Host.Outcome.next (if_pos (by rw [clocks, alive]; rfl)), reported_report rfl _, rfl, rfl⟩

theorem herdStateUe_told (runs : herdRuns s = true) :
    ∃ t, exec .herdStateUe s = .next t ∧ reported s t .herdStateUe .die 0 ∧ onlyReports s t ∧
      t = { s with herd := t.herd } :=
  ⟨_, congrArg Host.Outcome.next (if_pos runs), reported_report rfl _, rfl, rfl⟩

/-! ### An NI that loses its state (R456, R457) -/

/-- NI `n` has lost what it was sending: every other NI, its own tags, the configuration and the links stand, and the
Herdsman is handed events. -/
def Cut (n : Slot) (s t : State) : Prop :=
  otherNis n s t ∧ (nif t n).tags = (nif s n).tags ∧ (t.cfgA, t.cfgB, t.spine) = (s.cfgA, s.cfgB, s.spine) ∧
    addsReports s t

section Cutting
variable {n : Slot}

theorem Cut.refl (s : State) : Cut n s s := ⟨fun _ _ => rfl, rfl, rfl, addsReports_of_herd_eq rfl⟩

theorem Cut.trans {s t u : State} (first : Cut n s t) (second : Cut n t u) : Cut n s u := by
  obtain ⟨others, tags, rest, reports⟩ := first
  obtain ⟨others', tags', rest', reports'⟩ := second
  exact ⟨fun m other => (others' m other).trans (others m other), tags'.trans tags, rest'.trans rest,
    reports.trans reports'⟩

theorem cut_foldl {β : Type} {f : State → β → State} {l : List β} (step : ∀ s x, Cut n s (f s x)) (s : State) :
    Cut n s (l.foldl f s) := by
  induction l generalizing s with
  | nil => exact .refl s
  | cons x l ih => exact (step s x).trans (ih _)

theorem cut_updN (s : State) {f : NI → NI} (tags : ∀ x, (f x).tags = x.tags) : Cut n s (updN s n f) :=
  ⟨fun _ other => nif_updN_ne _ _ _ _ other.symm, (congrArg NI.tags (nif_updN_same ..)).trans (tags _), rfl,
    addsReports_of_herd_eq rfl⟩

theorem cut_updR (s : State) (r : RouterId) (f : Router → Router) : Cut n s (updR s r f) :=
  ⟨fun _ _ => rfl, rfl, rfl, addsReports_of_herd_eq rfl⟩

/-- The NIs, the configuration and the links. -/
def nodes (s : State) : Vector NI 192 × Sparse Nat × Sparse Nat × Vector SpineEnd 12 := (s.nis, s.cfgA, s.cfgB, s.spine)

theorem cut_of_nodes {s t : State} (same : nodes t = nodes s) (reports : addsReports s t) : Cut n s t := by
  obtain ⟨nis, rest⟩ := Prod.mk.injEq .. ▸ same
  exact ⟨fun _ _ => by rw [nif, nis], by rw [nif, nis], rest, reports⟩

theorem cut_countN (s : State) (code : Nat) (vc : Option Nat) (cls : Option Cls) (amt : Nat) :
    Cut n s (countN s n code vc cls amt) := by
  have : Unaware nodes := ⟨fun _ _ => rfl, fun _ _ _ _ => rfl, fun _ _ => rfl⟩
  have same : view nodes (countN s n code vc cls amt) = view nodes s := view_countN ..
  exact cut_of_nodes same (addsReports_countN ..)

theorem cut_driveFlit (s : State) (h f : Flit) : Cut n s (driveFlit s n h f) := by
  unfold driveFlit
  dsimp only
  refine Cut.trans ?_ (cut_countN ..)
  generalize nextLa s _ _ _ _ _ _ _ = la
  exact cut_updR ..

theorem cut_cutVc (s : State) (v : VcId) : Cut n s (cutVc s n v) := by
  unfold cutVc
  split
  · exact .refl s
  dsimp only
  refine (cut_updN s (f := fun x => { x with sending := tupd x.sending v (fun _ => none) }) fun _ => rfl).trans ?_
  generalize updN s n _ = u
  have back (w : State) (k : Nat) : Cut n w (updN w n (fun x => { x with returning := tupd x.returning v (· + k) })) :=
    cut_updN w fun _ => rfl
  split
  · exact (cut_updR ..).trans (back ..)
  split
  · exact (cut_updR ..).trans (back ..)
  split
  · exact (cut_updR ..).trans (back ..)
  · exact cut_foldl (fun w f => cut_driveFlit ..) u

theorem cut_ejPop (s : State) (v : VcId) (k : Nat) : Cut n s (ejPop s n v k) :=
  (cut_updN s (f := fun x => { x with
    ej := tupd x.ej v (fun l => l.drop k)
    ejGate := tupd x.ejGate v (fun l => if (ejBad x v).isSome then l else l.drop 1) }) fun _ => rfl).trans (cut_updR ..)

theorem length_lostPend (x : NI) (e : PendReq) : (lostPend n x e).tags.length = x.tags.length := by
  have added (r : ReqEnt) : (addReq x r).tags = x.tags := by
    unfold addReq
    dsimp only
    split <;> rfl
  unfold lostPend addLocal
  split
  · rfl
  · exact congrArg List.length (added _)

theorem tags_wipeNi (epoch : Nat) (x : NI) : (wipeNi n epoch x).tags.length = x.tags.length ∧
    ∀ g ∈ (wipeNi n epoch x).tags, g.quarantined = true := by
  constructor
  · have pends (l : List PendReq) (x : NI) : (l.foldl (lostPend n) x).tags.length = x.tags.length := by
      induction l generalizing x with
      | nil => rfl
      | cons e l ih => exact (ih _).trans (length_lostPend x e)
    have heads (l : List FifoFlits) (x : NI) : (l.foldl (lostFifo n) x).tags.length = x.tags.length := by
      induction l generalizing x with
      | nil => rfl
      | cons e l ih => exact (ih _).trans (length_lostPend x _)
    unfold wipeNi
    dsimp only
    rw [List.length_map, heads, pends]
  · intro g mem
    obtain ⟨_, -, rfl⟩ := List.mem_map.mp mem
    rfl

theorem gens_bumpGen (s : State) (resync : Bool) (reached : niReached s n = true) :
    tget (bumpGen s n resync).herd.gens n = tget s.herd.gens n + 1 := by
  rw [bumpGen, if_pos reached]
  exact tget_tupd ..

end Cutting

/-- What a fault leaves of NI `n` before it is wiped. -/
def cutOff (s : State) (n : Slot) (code : EventCode) (detail : Nat) : State :=
  (List.finRange 8).foldl (fun s v => ejPop s n v (tget (nif s n).ej v).length)
    (bumpGen (cutSending (repNi s n code detail) n) n true)

section Fault
variable {n : Slot}

theorem niReached_of_addsReports {s t : State} (same : addsReports s t) : niReached t n = niReached s n := by
  obtain ⟨evs, herd⟩ := same
  simp only [niReached, sectorOk, herd]

theorem reported_then {s t u : State} {code : EventCode} {kind : UnitKind} {num : Nat} (first : reported s t code kind num)
    (more : Tells t u) : reported s u code kind num := by
  obtain ⟨before, after, ev, reports, is⟩ := first
  obtain ⟨evs, later⟩ := more
  exact ⟨before, after ++ evs, ev, by rw [later, reports, List.append_assoc], is⟩

/-- What stands when NI `n` has been cut off and its generation has advanced. -/
theorem cutOff_stands (code : EventCode) (detail : Nat) (reached : niReached s n = true) {u : State} (off : cutOff s n code detail = u) :
    otherNis n s u ∧ (nif u n).tags = (nif s n).tags ∧ (u.cfgA, u.cfgB, u.spine) = (s.cfgA, s.cfgB, s.spine) ∧
      tget u.herd.gens n = tget s.herd.gens n + 1 ∧ reported s u code .ni n.val := by
  have sent : Cut n (repNi s n code detail) (cutSending (repNi s n code detail) n) := cut_foldl (fun u v => cut_cutVc u v) _
  have told := reported_report (s := s) rfl (mkEvent code .ni n.val (secBit (slotSector n)) (epochN s n)
    (BitVec.ofNat 32 detail) 0)
  unfold cutOff at off
  generalize cutSending (repNi s n code detail) n = v at sent off
  have popped := cut_foldl (n := n) (f := fun s v => ejPop s n v (tget (nif s n).ej v).length) (l := List.finRange 8)
    (fun u v => cut_ejPop u v _) (bumpGen v n true)
  rw [off] at popped
  obtain ⟨others, tags, rest, reports⟩ := sent
  obtain ⟨others', tags', rest', reports'⟩ := popped
  have reached : niReached v n = true := (niReached_of_addsReports reports).trans reached
  have gens : tget (bumpGen v n true).herd.gens n = tget s.herd.gens n + 1 := by
    obtain ⟨evs, herd⟩ := reports
    rw [gens_bumpGen v true reached, herd]
    rfl
  obtain ⟨g, gl, rs, bumped⟩ := bumpGen_frame v n true
  rw [bumped] at others' tags' rest'
  refine ⟨fun m other => (others' m other).trans (others m other), tags'.trans tags, rest'.trans rest, ?_, ?_⟩
  · obtain ⟨evs, herd⟩ := reports'
    rw [herd]
    exact gens
  · refine reported_then told ((Tells.of_addsReports reports).trans (Tells.trans (.of_eq ?_) (.of_addsReports reports')))
    rw [bumped]

theorem niFault_runs (code : EventCode) (detail : Nat) (runs : niRuns s n = true) (noDie : s.recov.die = none)
    (alive : s.recov.failed = false) (noCluster : clusterRec s (slotCluster n) = none)
    (fresh : (nif s n).recovering = none) : ∃ x, niFault s n code detail =
      updN (applyLoss (cutOff s n code detail) n) n (fun y => { y with recovering := some x }) := by
  have record : clusterRec (repNi s n code detail) (slotCluster n) = none := noCluster
  have open_ : (nif (repNi s n code detail) n).recovering = none := fresh
  apply Exists.intro
  unfold niFault
  rw [if_neg (by rw [runs, noDie, alive]; decide)]
  dsimp only
  rw [if_neg (by rw [record]; decide), if_neg (by rw [open_]; decide)]
  rfl

theorem niFault_closes {i : Instr} {f : CdcFifo} {code : EventCode}
    (which : (i = .niStateParity n ∧ code = .niStateParity) ∨ (i = .cdcPtr n f ∧ code = .cdcPtr))
    (runs : niRuns s n = true) (noDie : s.recov.die = none)
    (alive : s.recov.failed = false) (noCluster : clusterRec s (slotCluster n) = none)
    (fresh : (nif s n).recovering = none) (reached : niReached s n = true) :
    ∃ t, exec i s = .next t ∧ (nif t n).closed = true ∧ (nif t n).recovering.isSome = true ∧
      (∀ g ∈ (nif t n).tags, g.quarantined = true) ∧ (nif t n).tags.length = (nif s n).tags.length ∧
      (nif t n).inj = [] ∧ (nif t n).store = [] ∧ (nif t n).reqFifo = [] ∧ (nif t n).stage = [] ∧ (nif t n).locks = [] ∧
      (∀ v, tget (nif t n).ej v = []) ∧ tget t.herd.gens n = tget s.herd.gens n + 1 ∧
      reported s t code .ni n.val ∧ otherNis n s t ∧ t.cfgA = s.cfgA ∧ t.cfgB = s.cfgB ∧ t.spine = s.spine := by
  obtain ⟨detail, run⟩ : ∃ detail, exec i s = .next (niFault s n code detail) := by
    rcases which with ⟨rfl, rfl⟩ | ⟨rfl, rfl⟩
    · exact ⟨_, rfl⟩
    · exact ⟨_, rfl⟩
  obtain ⟨x, fault⟩ := niFault_runs code detail runs noDie alive noCluster fresh
  obtain ⟨others, tags, rest, gens, told⟩ := cutOff_stands code detail reached rfl
  generalize cutOff s n code detail = u at fault others tags rest gens told
  obtain ⟨mb, mo, ri, st, gr, ev, d, c, k, loss⟩ := lossTo_applyLoss u n
  rw [loss] at fault
  obtain ⟨count, quarantined⟩ := tags_wipeNi (n := n) (epochN u n) (nif u n)
  obtain ⟨cfgA, cfgB, spine⟩ : u.cfgA = s.cfgA ∧ u.cfgB = s.cfgB ∧ u.spine = s.spine := by simpa using rest
  rw [fault] at run
  have node : nif (updN { updN u n (fun x => { wipeNi n (epochN u n) x with closed := true }) with
      herd := { u.herd with memBusy := mb, memOut := mo, rings := ri, started := st, groups := gr
                            reports := u.herd.reports ++ ev }, dip := d, can := c, crock := k } n
      (fun y => { y with recovering := some x })) n =
      { wipeNi n (epochN u n) (nif u n) with closed := true, recovering := some x } :=
    (nif_updN_same ..).trans (congrArg (fun y : NI => { y with recovering := some x }) (nif_updN_same u n _))
  refine ⟨_, run, (congrArg NI.closed node).trans rfl, congrArg (fun y => y.recovering.isSome) node, ?_, ?_,
    congrArg NI.inj node, congrArg NI.store node, congrArg NI.reqFifo node, congrArg NI.stage node, congrArg NI.locks node,
    fun v => ?_, gens, reported_then told ⟨ev, rfl⟩, fun m other => ?_, cfgA, cfgB, spine⟩
  · intro g mem
    exact quarantined g ((congrArg NI.tags node) ▸ mem)
  · exact (congrArg (fun y => y.tags.length) node).trans (count.trans (congrArg List.length tags))
  · exact (congrArg (fun y => tget y.ej v) node).trans (tget_tabAll [] v)
  · exact (nif_updN_ne _ _ _ _ other.symm).trans ((nif_updN_ne _ _ _ _ other.symm).trans (others m other))

theorem niRecoveryDone_reopens {x : NiRec} (runs : niRuns s n = true) (record : (nif s n).recovering = some x)
    (soon : epochN s n ≤ x.start + 8) :
    ∃ t, exec (.niRecoveryDone n []) s = .next t ∧ (nif t n).closed = false ∧ (nif t n).recovering = none ∧
      (nif t n).orderedFrom = epochN s n + 8 ∧ (nif t n).tags = (nif s n).tags ∧
      reported s t .recoverDone .ni n.val ∧ otherNis n s t ∧ onlyReports s t ∧
      t = { s with nis := t.nis, herd := t.herd } := by
  have run : exec (.niRecoveryDone n []) s = .next (repNi (reopenNi s n) n .recoverDone
      (min 65535 (epochN s n - x.start)) (doneRecord x.discarded x.stores x.quarantined 1)) := by
    show execNiRecoveryDone n [] s = _
    simp only [execNiRecoveryDone, runs, if_true, record]
    rw [if_neg (by omega)]
    rfl
  have node : nif (repNi (reopenNi s n) n .recoverDone (min 65535 (epochN s n - x.start))
      (doneRecord x.discarded x.stores x.quarantined 1)) n = _ := nif_updN_same ..
  refine ⟨_, run, ?_, ?_, ?_, ?_, reported_report rfl _, fun m other => nif_updN_ne _ _ _ _ other.symm, rfl, rfl⟩
  all_goals rw [node]

end Fault

end Faults

/-- Settles O56. -/
theorem dataKeptAndFaultsMet : Obligations.DataKeptAndFaultsMet := by
  refine ⟨fun s b row => ⟨fun i which valid runs due next still => ?_, fun i syn k which valid runs due next still => ?_,
    fun i which valid runs due next still => ⟨fun new => ?_, fun known => ?_⟩, bankCopyDone_copies s b⟩,
    fun s => ⟨fun c => clusterClockLost_seen, fun r => routerStateUe_told, herdStateUe_told,
      fun n f i code which => niFault_closes which, fun n x => niRecoveryDone_reopens⟩⟩
  · exact scrub_clean which valid runs due next still rfl
  · exact scrub_single which valid runs due next still rfl
  · exact scrub_broken which valid runs due next still rfl new
  · exact scrub_mended which valid runs due next still rfl known

end Sys2Proof.Proofs

/-! ## The rows beside a router's pipeline (R78, R86, R235, R274): O32. -/

namespace Sys2Proof.Proofs
open Sys2Proof.Machine Sys2Proof.Safety

theorem rtr_updR_same (s : State) (r : RouterId) (f : Router → Router) : rtr (updR s r f) r = f (rtr s r) :=
  (rtr_updR ..).trans (if_pos rfl)

section Rows
variable {s : State} {r : RouterId} {p : PortId} {vc : VcId} {k : Nat}

theorem creditReturn_counted (waits : 0 < tget (outOf s r p).returning vc)
    (room : tget (outOf s r p).credit vc < tget (outDepth r p) vc) :
    ∃ t, exec (.creditReturn (.out r p) vc) s = .next t ∧
      tget (outOf t r p).credit vc = tget (outOf s r p).credit vc + 1 ∧
      tget (outOf t r p).returning vc = tget (outOf s r p).returning vc - 1 ∧
      (∀ q, q ≠ r → rtr t q = rtr s q) ∧ t = { s with routers := t.routers } := by
  refine ⟨_, congrArg Host.Outcome.next (if_pos waits), ?_, ?_, fun q other => rtr_updR_ne _ _ _ _ other.symm, rfl⟩
  · rw [outOf_updOut, if_pos rfl]
    dsimp only
    rw [tget_tupd]
    omega
  · rw [outOf_updOut, if_pos rfl]
    exact tget_tupd ..

theorem creditReturn_counted_ni {n : Slot} (waits : 0 < tget (nif s n).returning vc) :
    ∃ t, exec (.creditReturn (.ni n) vc) s = .next t ∧ tget (nif t n).credit vc = tget (nif s n).credit vc + 1 ∧
      tget (nif t n).returning vc = tget (nif s n).returning vc - 1 ∧ otherNis n s t ∧ t = { s with nis := t.nis } := by
  refine ⟨_, congrArg Host.Outcome.next (if_pos waits), ?_, ?_, fun m other => nif_updN_ne _ _ _ _ other.symm, rfl⟩
  · rw [nif_updN_same]
    exact tget_tupd ..
  · rw [nif_updN_same]
    exact tget_tupd ..

theorem escEntry_marks {b : BufFlit} {rest : List BufFlit} {bvc : BufVc} (runs : routerRuns s r = true)
    (channel : vc = 0 ∨ vc = 2) (mesh : portEnd r p = none) (same : bvc.val = vc.val)
    (front : tget (tget (rtr s r).ins p).buf bvc = b :: rest) (head : isHead b.flit = true)
    (waited : b.since + cfgR s r itEscWait 0 0 ≤ timeR s r k) :
    ∃ t, exec (.escEntry r p vc k) s = .next t ∧
      tget (tget (rtr t r).ins p).buf bvc = { b with esc := true } :: rest ∧
      (∀ q, q ≠ r → rtr t q = rtr s q) ∧ t = { s with routers := t.routers } := by
  have here : (decide (meshVc r p bvc = vc.val) && ((portEnd r p).isSome || decide (bvc.val < 8))) = true := by
    have low : bvc.val < 8 := by omega
    rw [meshVc, mesh]
    simp only [Option.isSome_none, Bool.false_eq_true, if_false, Bool.false_or, Bool.and_eq_true, decide_eq_true_eq]
    omega
  have goes : (routerRuns s r && (vc == 0 || vc == 2)) = true := by simpa [runs] using channel
  refine ⟨_, congrArg Host.Outcome.next (if_pos goes), ?_, fun q other => rtr_updR_ne _ _ _ _ other.symm, rfl⟩
  rw [rtr_updR_same, updIn]
  dsimp only
  rw [tget_tupd]
  dsimp only
  rw [tget_tmap, if_pos here, front]
  dsimp only
  rw [if_pos (by simp [head, waited])]

theorem governorLevelApply_applies {l e : Nat} (runs : routerRuns s r = true) (relayed : (rtr s r).govNext = some (l, e))
    (due : e ≤ epochR s r) :
    exec (.governorLevelApply r) s = .next (updR s r (fun x => { x with govLevel := l, govNext := none })) := by
  refine congrArg Host.Outcome.next ((if_pos runs).trans ?_)
  rw [applyLevel, relayed]
  exact if_pos due

theorem returnPortReinject_enters {q : QuadId} {pkt : Packet} {rest : List Packet} (runs : routerRuns s (hubOf q) = true)
    (first : (rtr s (hubOf q)).returned = pkt :: rest) (whole : pkt.length = pktLen pkt) :
    ∃ t, exec (.returnPortReinject q k) s = .next t ∧ (rtr t (hubOf q)).returned = rest ∧
      (tget (tget (rtr t (hubOf q)).ins 10).buf (Fin.ofNat 16 (fVc (hd pkt)))).map (·.flit) =
        (tget (tget (rtr s (hubOf q)).ins 10).buf (Fin.ofNat 16 (fVc (hd pkt)))).map (·.flit) ++ pkt ∧
      (∀ d, d ≠ hubOf q → rtr t d = rtr s d) ∧ t = { s with routers := t.routers } := by
  have run : exec (.returnPortReinject q k) s = .next (updR s (hubOf q) (fun x => updIn { x with returned := rest } 10
      (fun i => { i with buf := tupd i.buf (Fin.ofNat 16 (fVc (hd pkt))) (fun l => l ++ pkt.map (fun g =>
        { flit := g, phase := if 4 ≤ fVc (hd pkt) then .toHub else .mesh, la := none, since := timeR s (hubOf q) k
          esc := false, escOnly := false, pool := none })) }))) := by
    show execReturnPortReinject q k s = _
    unfold execReturnPortReinject
    dsimp only
    rw [first]
    dsimp only
    rw [if_neg (by simp [runs, whole])]
  refine ⟨_, run, ?_, ?_, fun d other => rtr_updR_ne _ _ _ _ other.symm, rfl⟩
  · rw [rtr_updR_same]
    rfl
  · rw [rtr_updR_same, updIn]
    dsimp only
    rw [tget_tupd]
    dsimp only
    rw [tget_tupd, List.map_append, List.map_map]
    congr 1
    exact List.map_id pkt

end Rows

/-- Settles O32. -/
theorem routerSideRows : Obligations.RouterSideRows := by
  refine fun s r p vc k => ⟨creditReturn_counted, fun n => creditReturn_counted_ni, ?_, fun l e => governorLevelApply_applies,
    fun q pkt rest => returnPortReinject_enters⟩
  exact fun b rest bvc => escEntry_marks

end Sys2Proof.Proofs

/-! ## Counting at a router, and a head flit's arrival (R69, R74, R77, R373): O30. -/

namespace Sys2Proof.Proofs
open Sys2Proof.Machine Sys2Proof.Safety

/-! ### Counting and telling events -/

/-- `t` is `s` but for the values of counters and events handed to the Herdsman. -/
def Counts (s t : State) : Prop :=
  ∃ v o n evs, t = { s with
    dip := { s.dip with value := v, ovf := o, noted := n }, herd := { s.herd with reports := s.herd.reports ++ evs } }

theorem Counts.refl (s : State) : Counts s s := ⟨_, _, _, [], by rw [List.append_nil]⟩

theorem Counts.trans {s t u : State} (first : Counts s t) (second : Counts t u) : Counts s u := by
  obtain ⟨v, o, n, evs, rfl⟩ := first
  obtain ⟨v', o', n', evs', rfl⟩ := second
  exact ⟨v', o', n', evs ++ evs', by rw [← List.append_assoc]⟩

theorem counts_foldl {β : Type} {f : State → β → State} {l : List β} (step : ∀ s x, Counts s (f s x)) (s : State) :
    Counts s (l.foldl f s) := by
  induction l generalizing s with
  | nil => exact .refl s
  | cons x l ih => exact (step s x).trans (ih _)

section Counting
variable (s : State)

theorem counts_report (ev : Event) : Counts s (report s ev) := ⟨_, _, _, [ev], rfl⟩

theorem counts_bump (g amt : Nat) : Counts s (bump s g amt) := by
  obtain ⟨v, o, n, r, sp, frame, -, -⟩ := counted_bump (touch := fun _ => True) (g := g) trivial (fun _ => trivial) s amt
  have : Unaware State.spine := ⟨fun _ _ => rfl, fun _ _ _ _ => rfl, fun _ _ => rfl⟩
  have spine : view State.spine (bump s g amt) = view State.spine s := view_bump g amt
  obtain ⟨evs, herd⟩ := addsReports_bump s g amt
  rw [frame] at spine herd
  have links : sp = s.spine := spine
  have told : r = s.herd.reports ++ evs := congrArg Herd.reports herd
  exact ⟨v, o, n, evs, by rw [frame, links, told]⟩

theorem counts_ite {c : Prop} [Decidable c] {t u : State} (yes : Counts s t) (no : Counts s u) :
    Counts s (if c then t else u) := by
  split
  · exact yes
  · exact no

theorem counts_countR (r : RouterId) (code : Nat) (port : Option PortId) (vc : Option Nat) (cls : Option Cls) (amt : Nat) :
    Counts s (countR s r code port vc cls amt) :=
  counts_foldl (fun u _ => counts_ite u (counts_bump u _ _) (.refl u)) s

theorem counts_countN (n : Slot) (code : Nat) (vc : Option Nat) (cls : Option Cls) (amt : Nat) :
    Counts s (countN s n code vc cls amt) :=
  counts_foldl (fun u _ => counts_ite u (counts_bump u _ _) (.refl u)) s

theorem counts_logParity (r : RouterId) (p : PortId) (vc : Nat) : Counts s (logParity s r p vc) :=
  (counts_countR ..).trans (counts_report ..)

end Counting

section Frames
variable {s t : State} (counts : Counts s t)
include counts

theorem Counts.nodes : t.routers = s.routers ∧ t.nis = s.nis ∧ t.spine = s.spine := by
  obtain ⟨v, o, n, evs, rfl⟩ := counts
  exact ⟨rfl, rfl, rfl⟩

theorem Counts.rest : t.can = s.can ∧ sameRest s t ∧ onlyReports s t ∧ onlyCounts s t := by
  obtain ⟨v, o, n, evs, rfl⟩ := counts
  exact ⟨rfl, ⟨rfl, rfl, rfl, rfl, rfl, rfl, rfl, rfl, rfl⟩, rfl, rfl⟩

theorem Counts.tells : Tells s t := by
  obtain ⟨v, o, n, evs, rfl⟩ := counts
  exact ⟨evs, rfl⟩

end Frames

theorem Tells.reported {s t u : State} {code : EventCode} {kind : UnitKind} {num : Nat} (tells : Tells s t)
    (told : reported t u code kind num) : reported s u code kind num := by
  obtain ⟨evs, first⟩ := tells
  obtain ⟨before, after, ev, reports, is⟩ := told
  exact ⟨evs ++ before, after, ev, by rw [reports, first, List.append_assoc s.herd.reports], is⟩

/-! ### A credit that goes back -/

/-- From a mesh, express or local input the credit of a flit goes back to the output or the NI upstream. -/
theorem freeCell_mesh (s : State) {r : RouterId} {p : PortId} (mesh : portEnd r p = none) (v : BufVc) (pool : Option Nat)
    (now : Nat) : ∃ ro ni, freeCell s r p v pool now = { s with routers := ro, nis := ni } ∧
      ∀ q, (tget ro q).ins = (rtr s q).ins := by
  have unmoved : ∀ q, (tget s.routers q).ins = (rtr s q).ins := fun _ => rfl
  rw [freeCell, mesh]
  dsimp only
  split
  · next r' p' up =>
    refine ⟨_, _, rfl, fun q => ?_⟩
    rw [tget_tupd_if]
    split <;> rfl
  · exact ⟨_, _, rfl, unmoved⟩
  · exact ⟨_, _, rfl, unmoved⟩

/-! ### A head flit at a mesh or local input -/

/-- No disturbance on the wires. -/
def calm : Flit := { par := 0, ctl := 0, chk := 0, dat := 0 }

section Arrival
variable {s : State} {r : RouterId} {p : PortId} {k : Nat} {w : WireFlit} {rest : List WireFlit} {bvc : BufVc}

/-- The input of a router after its first flit is off the link. -/
def offWire (x : Router) (p : PortId) (rest : List WireFlit) : Router :=
  flitArrives.bwInc p x (updIn · p (fun i => { i with wire := rest }))

theorem ins_offWire (x : Router) (p : PortId) (rest : List WireFlit) :
    (offWire x p rest).ins = tupd x.ins p (fun i => { i with wire := rest }) := by
  unfold offWire flitArrives.bwInc
  dsimp only
  have counted (y : Router) : (bwInInc y p).ins = y.ins := by
    unfold bwInInc
    split <;> rfl
  split
  · exact counted _
  · exact counted _

variable (runs : routerRuns s r = true) (front : (tget (rtr s r).ins p).wire = w :: rest) (mesh : portEnd r p = none)
  (sound : parity (laBits w.la) = false) (names : bvc = Fin.ofNat 16 (laOfBits (laBits w.la)).vc.toNat)
include runs front mesh sound names

theorem arrives_calm : ∃ u, Counts (updR s r (fun x => offWire x p rest)) u ∧
    exec (.headFlitArrival r p k calm 0) s = .next (acceptFlit u r p bvc (timeR u r k)
      { w with la := laOfBits (laBits w.la), flit := w.flit } true) := by
  have arrives : ∃ cls, flitArrives s r p k calm 0 = (fun u => acceptFlit u r p bvc (timeR u r k)
      { w with la := laOfBits (laBits w.la), flit := w.flit } true)
      (countR (updR s r (fun x => offWire x p rest)) r 0x03 (some p) (some (meshVc r p bvc)) cls) := by
    have still {n : Nat} (x : BitVec n) : x ^^^ 0 = x := BitVec.xor_zero
    apply Exists.intro
    unfold flitArrives
    rw [front]
    dsimp only [calm]
    rw [still, still, still, still, still, sound, mesh]
    simp only [Bool.not_false, Option.isSome_none, Bool.false_eq_true, if_true, if_false, ← names]
    rfl
  obtain ⟨cls, arrives⟩ := arrives
  exact ⟨_, counts_countR _ r 0x03 (some p) (some (meshVc r p bvc)) cls 1,
    congrArg Host.Outcome.next ((if_pos runs).trans arrives)⟩

omit runs front mesh sound names in
theorem input_offWire {u : State} (counts : Counts (updR s r (fun x => offWire x p rest)) u) :
    tget (rtr u r).ins p = { tget (rtr s r).ins p with wire := rest } := by
  rw [rtr, counts.nodes.1]
  exact (congrArg (fun x : Router => tget x.ins p) (rtr_updR_same s r _)).trans
    ((congrArg (fun v => tget v p) (ins_offWire ..)).trans (tget_tupd ..))

variable (fresh : tget (tget (rtr s r).ins p).drop bvc = 0) (begins : tget (tget (rtr s r).ins p).left bvc = 0)
include fresh begins

theorem head_buffered (good : badGroups w.flit = 0) :
    ∃ t b, exec (.headFlitArrival r p k calm 0) s = .next t ∧ (tget (rtr t r).ins p).wire = rest ∧
      tget (tget (rtr t r).ins p).buf bvc = tget (tget (rtr s r).ins p).buf bvc ++ [b] ∧ b.flit = w.flit ∧
      b.since = timeR s r k ∧ b.escOnly = false ∧ tget (tget (rtr t r).ins p).left bvc = fLen w.flit ∧
      (∀ q, q ≠ r → rtr t q = rtr s q) ∧ t.nis = s.nis ∧ t.spine = s.spine ∧ t.can = s.can ∧ sameRest s t ∧
      onlyReports s t ∧ onlyCounts s t := by
  obtain ⟨u, counts, run⟩ := arrives_calm (k := k) runs front mesh sound names
  obtain ⟨routers, nis, spine⟩ := counts.nodes
  obtain ⟨can, other, reports, tallies⟩ := counts.rest
  have input := input_offWire counts
  have fresh : tget (tget (rtr u r).ins p).drop bvc = 0 := by rw [input]; exact fresh
  have begins : tget (tget (rtr u r).ins p).left bvc = 0 := by rw [input]; exact begins
  have time : timeR u r k = timeR s r k := by
    obtain ⟨epochs, -⟩ := other
    rw [timeR, epochR, epochs]
    rfl
  obtain ⟨b, accepted, flit, since, escape⟩ : ∃ b, acceptFlit u r p bvc (timeR u r k)
      { w with la := laOfBits (laBits w.la), flit := w.flit } true =
      updR u r (fun x => updIn x p (fun i => { i with
        left := tupd i.left bvc (fun _ => fLen w.flit), total := tupd i.total bvc (fun _ => fLen w.flit + 1)
        head := tupd i.head bvc (fun _ => w.flit.ctl), buf := tupd i.buf bvc (fun l => l ++ [b]) })) ∧
      b.flit = w.flit ∧ b.since = timeR u r k ∧ b.escOnly = false := by
    apply Exists.intro
    unfold acceptFlit
    simp only [fresh, begins, good, Nat.lt_irrefl, decide_false, if_false, Bool.false_eq_true, bne_self_eq_false, if_true]
    exact ⟨rfl, rfl, rfl, rfl⟩
  rw [accepted] at run
  refine ⟨_, b, run, ?_, ?_, flit, since.trans time, escape, ?_, fun q away => ?_, nis, spine, can, other, reports, tallies⟩
  · rw [rtr_updR_same, updIn]
    dsimp only
    rw [tget_tupd, input]
  · rw [rtr_updR_same, updIn]
    dsimp only
    rw [tget_tupd]
    dsimp only
    rw [tget_tupd, input]
  · rw [rtr_updR_same, updIn]
    dsimp only
    rw [tget_tupd]
    dsimp only
    rw [tget_tupd]
  · rw [rtr_updR_ne _ _ _ _ away.symm, rtr, routers]
    exact rtr_updR_ne _ _ _ _ away.symm

theorem head_discarded (bad : badGroups w.flit ≠ 0) (trusted : (badGroups w.flit).getLsbD 5 = false) :
    ∃ t, exec (.headFlitArrival r p k calm 0) s = .next t ∧
      tget (tget (rtr t r).ins p).buf bvc = tget (tget (rtr s r).ins p).buf bvc ∧
      tget (tget (rtr t r).ins p).drop bvc = fLen w.flit ∧ reported s t .ctrlParity .router r.val ∧
      t.can = s.can ∧ sameRest s t ∧ onlyReports s t ∧ onlyCounts s t := by
  obtain ⟨u, counts, run⟩ := arrives_calm (k := k) runs front mesh sound names
  have input := input_offWire counts
  have fresh : tget (tget (rtr u r).ins p).drop bvc = 0 := by rw [input]; exact fresh
  have begins : tget (tget (rtr u r).ins p).left bvc = 0 := by rw [input]; exact begins
  obtain ⟨ro, ni, freed, ins⟩ := freeCell_mesh u mesh bvc w.pool (timeR u r k)
  generalize cell : freeCell u r p bvc w.pool (timeR u r k) = c at freed
  have logged : Counts c (logParity c r p (meshVc r p bvc)) := counts_logParity ..
  have told : reported c (logParity c r p (meshVc r p bvc)) .ctrlParity .router r.val :=
    reported_of_tells (counts_countR ..).tells _
  have accepted : acceptFlit u r p bvc (timeR u r k) { w with la := laOfBits (laBits w.la), flit := w.flit } true =
      updR (logParity c r p (meshVc r p bvc)) r (fun x => updIn x p (fun i => { i with
        drop := tupd i.drop bvc (fun _ => fLen w.flit), dropTail := tupd i.dropTail bvc (fun _ => false) })) := by
    unfold acceptFlit
    simp only [fresh, begins, Nat.lt_irrefl, decide_false, if_false, Bool.false_eq_true, bne_iff_ne, ne_eq, bad,
      not_false_eq_true, if_true, trusted, cell]
  rw [accepted] at run
  generalize logParity c r p (meshVc r p bvc) = l at run logged told
  have input : tget (rtr l r).ins p = { tget (rtr s r).ins p with wire := rest } := by
    rw [← input, rtr, logged.nodes.1, freed]
    exact congrArg (fun v => tget v p) (ins r)
  refine ⟨_, run, ?_, ?_, ?_, ?_⟩
  · rw [rtr_updR_same, updIn]
    dsimp only
    rw [tget_tupd, input]
  · rw [rtr_updR_same, updIn]
    dsimp only
    rw [tget_tupd]
    dsimp only
    rw [tget_tupd]
  · have before : Tells s c := counts.tells.trans (.of_eq (by rw [freed]))
    exact before.reported told
  · obtain ⟨can, other, reports, tallies⟩ := (Counts.rest logged)
    clear told input run accepted cell
    obtain ⟨v, o, n, evs, rfl⟩ := counts
    subst freed
    exact ⟨can, other, reports, tallies⟩

end Arrival

/-- Settles O30. -/
theorem headFlitTaken : Obligations.HeadFlitTaken :=
  ⟨fun _ _ _ _ _ _ _ runs front mesh sound good names fresh begins =>
      head_buffered runs front mesh sound names fresh begins good,
    fun _ _ _ _ _ _ _ runs front mesh sound bad trusted names fresh begins =>
      head_discarded runs front mesh sound names fresh begins bad trusted⟩

end Sys2Proof.Proofs

/-! ## What switch allocation does at an output (R79, R95): O31. -/

namespace Sys2Proof.Proofs
open Sys2Proof.Machine Sys2Proof.Safety

/-- `t` is `s` after work of routers, links and NIs, with counting and events. -/
def Routed (s t : State) : Prop :=
  ∃ ro ni sp v o n evs, t = { s with
    routers := ro, nis := ni, spine := sp, dip := { s.dip with value := v, ovf := o, noted := n }
    herd := { s.herd with reports := s.herd.reports ++ evs } }

theorem Routed.trans {s t u : State} (first : Routed s t) (second : Routed t u) : Routed s u := by
  obtain ⟨ro, ni, sp, v, o, n, evs, rfl⟩ := first
  obtain ⟨ro', ni', sp', v', o', n', evs', rfl⟩ := second
  exact ⟨ro', ni', sp', v', o', n', evs ++ evs', by rw [← List.append_assoc]⟩

theorem routed_nodes (s : State) (ro : Vector Router 96) (ni : Vector NI 192) (sp : Vector SpineEnd 12) :
    Routed s { s with routers := ro, nis := ni, spine := sp } :=
  ⟨ro, ni, sp, _, _, _, [], by rw [List.append_nil]⟩

theorem Counts.routed {s t : State} (counts : Counts s t) : Routed s t := by
  obtain ⟨v, o, n, evs, rfl⟩ := counts
  exact ⟨_, _, _, v, o, n, evs, rfl⟩

theorem Routed.rest {s t : State} (routed : Routed s t) : t.can = s.can ∧ sameRest s t ∧ onlyReports s t ∧ onlyCounts s t := by
  obtain ⟨ro, ni, sp, v, o, n, evs, rfl⟩ := routed
  exact ⟨rfl, ⟨rfl, rfl, rfl, rfl, rfl, rfl, rfl, rfl, rfl⟩, rfl, rfl⟩

/-! ### What passes by one buffer and one credit count -/

/-- The flits in a buffer of router `r`, and the credits of an output of it. -/
def held (s : State) (r : RouterId) (i : PortId) (b : BufVc) : Nat := (tget (tget (rtr s r).ins i).buf b).length

section Passing
variable {r : RouterId} {i p : PortId} {b : BufVc} {v : VcId}

/-- Work that leaves the number of flits in one buffer of router `r` and one credit count of it. -/
def Passes (r : RouterId) (i : PortId) (b : BufVc) (p : PortId) (v : VcId) (s t : State) : Prop :=
  Routed s t ∧ held t r i b = held s r i b ∧ tget (outOf t r p).credit v = tget (outOf s r p).credit v

theorem Passes.refl (s : State) : Passes r i b p v s s := ⟨(Counts.refl s).routed, rfl, rfl⟩

theorem Passes.trans {s t u : State} (first : Passes r i b p v s t) (second : Passes r i b p v t u) :
    Passes r i b p v s u := by
  obtain ⟨routed, flits, credit⟩ := first
  obtain ⟨routed', flits', credit'⟩ := second
  exact ⟨routed.trans routed', flits'.trans flits, credit'.trans credit⟩

theorem passes_foldl {β : Type} {f : State → β → State} {l : List β} (step : ∀ s x, Passes r i b p v s (f s x))
    (s : State) : Passes r i b p v s (l.foldl f s) := by
  induction l generalizing s with
  | nil => exact .refl s
  | cons x l ih => exact (step s x).trans (ih _)

theorem Counts.passes {s t : State} (counts : Counts s t) : Passes r i b p v s t := by
  refine ⟨counts.routed, ?_, ?_⟩
  · rw [held, rtr, counts.nodes.1]
    rfl
  · rw [outOf, rtr, counts.nodes.1]
    rfl

variable (s : State)

theorem passes_updE (e : LinkEnd) (f : SpineEnd → SpineEnd) : Passes r i b p v s (updE s e f) :=
  ⟨routed_nodes .., rfl, rfl⟩

theorem passes_updN (n : Slot) (f : NI → NI) : Passes r i b p v s (updN s n f) := ⟨routed_nodes .., rfl, rfl⟩

theorem passes_updR (q : RouterId) {f : Router → Router}
    (flits : ∀ x, (tget (tget (f x).ins i).buf b).length = (tget (tget x.ins i).buf b).length)
    (credit : ∀ x, tget (tget (f x).outs p).credit v = tget (tget x.outs p).credit v) :
    Passes r i b p v s (updR s q f) := by
  refine ⟨routed_nodes .., ?_, ?_⟩
  · rw [held, rtr_updR]
    split
    · exact flits _
    · rfl
  · rw [outOf, rtr_updR]
    split
    · exact credit _
    · rfl

theorem passes_updOut (q : RouterId) (p' : PortId) {g : RouterOut → RouterOut}
    (credit : ∀ o, tget (g o).credit v = tget o.credit v) : Passes r i b p v s (updR s q (fun x => updOut x p' g)) := by
  refine passes_updR s q (fun _ => rfl) fun x => ?_
  refine (congrArg (fun o : RouterOut => tget o.credit v) (tget_tupd_if x.outs p' p g)).trans ?_
  split
  · exact credit _
  · rfl

theorem passes_updIn (q : RouterId) (p' : PortId) {g : RouterIn → RouterIn}
    (flits : ∀ y, (tget (g y).buf b).length = (tget y.buf b).length) :
    Passes r i b p v s (updR s q (fun x => updIn x p' g)) := by
  refine passes_updR s q (fun x => ?_) fun _ => rfl
  refine (congrArg (fun y : RouterIn => (tget y.buf b).length) (tget_tupd_if x.ins p' i g)).trans ?_
  split
  · exact flits _
  · rfl

theorem passes_ite {c : Prop} [Decidable c] {t u : State} (yes : Passes r i b p v s t) (no : Passes r i b p v s u) :
    Passes r i b p v s (if c then t else u) := by
  split
  · exact yes
  · exact no

theorem passes_accruePool (e : LinkEnd) (now : Nat) : Passes r i b p v s (accruePool s e now) :=
  passes_ite s ((counts_bump ..).passes.trans (passes_updE ..)) (.refl s)

theorem passes_freeCell (q : RouterId) (p' : PortId) (bvc : BufVc) (pool : Option Nat) (now : Nat) :
    Passes r i b p v s (freeCell s q p' bvc pool now) := by
  unfold freeCell
  split
  · dsimp only
    have off (on : Bool) (e : LinkEnd) : Passes r i b p v s (if on then accruePool s e now else s) :=
      passes_ite s (passes_accruePool ..) (.refl s)
    exact (off ..).trans (passes_updE ..)
  · dsimp only
    split
    · exact passes_updOut _ _ _ fun _ => rfl
    · exact passes_updN ..
    · exact .refl s

theorem passes_giveHint (q : RouterId) (p' : PortId) (vc : VcId) (h : Nat) :
    Passes r i b p v s (giveHint s q p' vc h) := by
  unfold giveHint
  extract_lets u
  have counted : Passes r i b p v s u := passes_ite s (counts_countR ..).passes (.refl s)
  refine counted.trans ?_
  split
  · exact passes_updOut _ _ _ fun _ => rfl
  · exact passes_updN ..
  · exact .refl _

theorem passes_gateEccLog (n : Slot) : Passes r i b p v s (gateEccLog s n) :=
  passes_foldl (fun u _ => passes_ite u ((passes_updN ..).trans (counts_report ..).passes) (.refl u)) s

/-- A granted flit at a mesh, express or local output. -/
theorem passes_sendOut {q : RouterId} {p' : PortId} (mesh : portEnd q p' = none) (w : Want) (f : Flit) (len : Nat)
    (pool : Bool) (cls : Cls) : Passes r i b p v s (sendOut s q p' w f len pool cls) := by
  unfold sendOut
  rw [mesh]
  dsimp only
  split
  · split
    · exact (passes_updN ..).trans (passes_updOut _ _ _ fun _ => rfl)
    · have logged (checked : Bool) (u : State) (n : Slot) :
          Passes r i b p v u (if checked then gateEccLog u n else u) :=
        passes_ite u (passes_gateEccLog ..) (.refl u)
      exact ((passes_updN s _ _).trans (logged _ _ _)).trans (counts_countN ..).passes
  · split
    · exact .refl s
    · split
      · exact passes_updOut _ _ _ fun _ => rfl
      · exact passes_updIn _ _ _ fun _ => rfl

/-- What a decision leaves besides its grants moves no flit and takes no credit. -/
theorem passes_afterDecision (s0 : State) (q : RouterId) (p' : PortId) (k : Nat) (wins : List Req) (capped : Bool) :
    Passes r i b p v s (afterDecision s0 s q p' k wins capped) := by
  unfold afterDecision
  extract_lets reqs losers s1 s2 s3 s4
  have hinted : Passes r i b p v s s1 := by
    refine passes_foldl (fun u x => ?_) s
    refine Passes.trans (passes_updIn u q x.inPort fun y => ?_) (passes_giveHint ..)
    dsimp only
    rw [tget_tupd_if]
    split
    · split <;> simp_all
    · rfl
  have first : Passes r i b p v s1 s2 := passes_ite s1 (counts_countR ..).passes (.refl s1)
  have second : Passes r i b p v s2 s3 := by
    simp only [s3]
    split
    · split
      · exact ((counts_countR ..).trans (counts_bump ..)).passes
      · exact (counts_countR ..).passes
    · exact .refl s2
  have third : Passes r i b p v s3 s4 := by
    simp only [s4]
    split
    · exact (counts_countR ..).passes
    · exact .refl s3
  refine ((hinted.trans first).trans second).trans (third.trans (passes_foldl (fun u x => ?_) s4))
  split
  · exact passes_ite u (.refl u) ((counts_countR ..).passes.trans (passes_updOut _ _ _ fun _ => rfl))
  · exact .refl u

end Passing

/-! ### One grant -/

section Grant
variable {s : State} {r : RouterId} {p : PortId} {q : Req}

/-- The grant's flit leaves its buffer. -/
def taken (s : State) (r : RouterId) (q : Req) (now : Nat) : State :=
  updR s r (fun x => updIn x q.inPort (fun i => { i with
    buf := tupd i.buf q.bvc (fun l => match l.drop 1 with
      | [] => []
      | b :: rest => { b with since := max b.since now } :: rest) }))

theorem held_taken (now : Nat) {rest : List BufFlit} (front : tget (tget (rtr s r).ins q.inPort).buf q.bvc = q.b :: rest) :
    held (taken s r q now) r q.inPort q.bvc = rest.length := by
  rw [held, taken, rtr_updR_same, updIn]
  dsimp only
  rw [tget_tupd]
  dsimp only
  rw [tget_tupd, front]
  cases rest <;> rfl

theorem energyOut_inner (x : Router) : (energyOut r p (bwOutInc x p)).ins = x.ins ∧
    (energyOut r p (bwOutInc x p)).outs = x.outs := by
  have first : (bwOutInc x p).ins = x.ins ∧ (bwOutInc x p).outs = x.outs := by
    unfold bwOutInc
    split <;> exact ⟨rfl, rfl⟩
  unfold energyOut
  dsimp only
  split
  · exact first
  split
  · exact first
  split
  · exact first
  · exact first

/-- What a grant takes at its output: the credits of a head's packet. -/
theorem grant_takes (mesh : portEnd r p = none) (k : Nat) (aged : Bool) {rest : List BufFlit}
    (front : tget (tget (rtr s r).ins q.inPort).buf q.bvc = q.b :: rest) :
    Routed s (grant s r p k q aged) ∧ held (grant s r p k q aged) r q.inPort q.bvc = rest.length ∧
      (q.head = true →
        tget (outOf (grant s r p k q aged) r p).credit q.want.vc = tget (outOf s r p).credit q.want.vc - q.n) := by
  unfold grant
  extract_lets w first ix len f now nonG s1 s2 pair s4 s5 s6 s7 s8 s9 s10 w'
  have out : Routed s s1 ∧ held s1 r q.inPort q.bvc = rest.length ∧ (rtr s1 r).outs = (rtr s r).outs :=
    ⟨routed_nodes .., held_taken now front, by rw [rtr_updR_same]; rfl⟩
  have freed : Passes r q.inPort q.bvc p q.want.vc s1 s2 := passes_freeCell ..
  have kept : held s4 r q.inPort q.bvc = held s2 r q.inPort q.bvc := by
    rw [held, rtr_updR_same, held]
    exact congrArg (fun v => (tget (tget v q.inPort).buf q.bvc).length) (energyOut_inner (rtr s2 r)).1
  have paid (head : q.head = true) : tget (outOf s4 r p).credit q.want.vc = tget (outOf s2 r p).credit q.want.vc - q.n := by
    rw [outOf, rtr_updR_same, updOut]
    dsimp only
    rw [tget_tupd, (energyOut_inner (rtr s2 r)).2, if_pos head, mesh]
    refine (tget_tupd ..).trans ?_
    congr 2
    split <;> split <;> rfl
  have same : s5 = s4 := by
    simp only [s5, mesh]
  have counted : Passes r q.inPort q.bvc p q.want.vc s5 s10 := by
    have first : Passes r q.inPort q.bvc p q.want.vc s5 s6 := (counts_countR ..).passes
    have second : Passes r q.inPort q.bvc p q.want.vc s6 s7 := passes_ite s6 (counts_countR ..).passes (.refl s6)
    have third : Passes r q.inPort q.bvc p q.want.vc s7 s8 := passes_ite s7 (counts_countR ..).passes (.refl s7)
    have fourth : Passes r q.inPort q.bvc p q.want.vc s8 s9 := passes_ite s8 (counts_countR ..).passes (.refl s8)
    have fifth : Passes r q.inPort q.bvc p q.want.vc s9 s10 := passes_ite s9 (counts_countR ..).passes (.refl s9)
    exact (((first.trans second).trans third).trans fourth).trans fifth
  have sent : Passes r q.inPort q.bvc p q.want.vc s10 (sendOut s10 r p w' f len q.pool q.cls) := passes_sendOut _ mesh ..
  have away := counted.trans sent
  obtain ⟨routed, flits, credit⟩ := away
  rw [same] at routed flits credit
  obtain ⟨routed1, flits1, outs1⟩ := out
  obtain ⟨routed2, flits2, credit2⟩ := freed
  refine ⟨((routed1.trans routed2).trans (routed_nodes ..)).trans routed, ?_, fun head => ?_⟩
  · rw [flits, kept, flits2, flits1]
  · rw [credit, paid head, credit2, outOf, outs1]
    rfl

/-- An output that is not diagonal decides one grant, and that one stands. -/
theorem allocate_one (has : hasPort r p = true) (outward : p ≠ 10) (mesh : portEnd r p = none) {k : Nat} {aged : Bool}
    (decides : decidePort s r p k none = some (q, aged)) : ∃ wins capped,
    allocate s r [p] k = afterDecision s (grant s r p k q aged) r p k wins capped := by
  have winners : ∃ capped, winnersOf s r k p = ([{ port := p, req := q, aged := aged }], capped) := by
    apply Exists.intro
    unfold winnersOf
    rw [decides, mesh]
    rfl
  obtain ⟨capped, winners⟩ := winners
  have stands : standing r [{ port := p, req := q, aged := aged }] = [({ port := p, req := q, aged := aged }, true)] := by
    have cap (e : LinkEnd) : 0 < queueCap e := by
      unfold queueCap
      split <;> decide
    simp only [standing, List.zipIdx_singleton]
    simp
    split
    · exact cap _
    · decide
  refine ⟨[q], capped, ?_⟩
  unfold allocate
  have heard : [p].dedup.filter (fun p => hasPort r p && p != 10) = [p] := by
    rw [List.dedup_eq_self.mpr (List.nodup_singleton p)]
    simp [has, outward]
  simp only [heard, List.map_cons, List.map_nil, List.flatMap_cons, List.flatMap_nil, winners, List.append_nil, stands,
    List.foldl_cons, List.foldl_nil, if_true]

end Grant

/-- Settles O31. -/
theorem winnerGranted : Obligations.WinnerGranted := by
  intro s r p k q aged rest runs has outward mesh decides front
  obtain ⟨wins, capped, one⟩ := allocate_one has outward mesh decides
  have run : exec (.switchAllocation r [p] k) s = .next (afterDecision s (grant s r p k q aged) r p k wins capped) :=
    congrArg Host.Outcome.next ((if_pos runs).trans one)
  obtain ⟨routed, flits, credit⟩ := grant_takes mesh k aged front
  obtain ⟨routed', flits', credit'⟩ := passes_afterDecision (r := r) (i := q.inPort) (b := q.bvc) (p := p)
    (v := q.want.vc) (grant s r p k q aged) s r p k wins capped
  refine ⟨_, run, flits'.trans flits, fun head => credit'.trans (credit head), (routed.trans routed').rest⟩

end Sys2Proof.Proofs

/-! ## The slots and the timers of a spine link (R240, R248, R252–R258, R266): O33, O35. -/

namespace Sys2Proof.Proofs
open Sys2Proof.Machine Sys2Proof.Safety

theorem farEnd_ne (e : LinkEnd) : farEnd e ≠ e := by
  revert e; decide

theorem spn_updE_same (s : State) (e : LinkEnd) (f : SpineEnd → SpineEnd) : spn (updE s e f) e = f (spn s e) :=
  (spn_updE ..).trans (if_pos rfl)

theorem updE_updE (s : State) (e : LinkEnd) (f g : SpineEnd → SpineEnd) :
    updE (updE s e f) e g = updE s e (fun x => g (f x)) := by
  simp only [updE, tupd_tupd]

/-! ### Work at one link end, and at both -/

/-- Only the link ends of `which` have changed, and counters and events. -/
def linkFrame (which : LinkEnd → Prop) (s t : State) : Prop :=
  (∀ d, ¬which d → spn t d = spn s d) ∧ t.routers = s.routers ∧ t.nis = s.nis ∧ t.can = s.can ∧ sameRest s t ∧
    onlyReports s t ∧ onlyCounts s t

section Ends
variable {s c : State} (counts : Counts s c) (e : LinkEnd) (f g : SpineEnd → SpineEnd)
include counts

theorem oneEnd_works : spn (updE c e f) e = f (spn s e) ∧ linkFrame (· = e) s (updE c e f) := by
  obtain ⟨v, o, n, evs, rfl⟩ := counts
  exact ⟨spn_updE_same .., fun d other => spn_updE_ne _ _ _ _ (Ne.symm other), rfl, rfl, rfl,
    ⟨rfl, rfl, rfl, rfl, rfl, rfl, rfl, rfl, rfl⟩, rfl, rfl⟩

theorem twoEnds_work : spn (updE (updE c e f) (farEnd e) g) e = f (spn s e) ∧
    spn (updE (updE c e f) (farEnd e) g) (farEnd e) = g (spn s (farEnd e)) ∧
    linkFrame (fun d => d = e ∨ d = farEnd e) s (updE (updE c e f) (farEnd e) g) := by
  obtain ⟨near, others, routers, nis, can, rest, reports, tallies⟩ := oneEnd_works counts e f
  refine ⟨(spn_updE_ne _ _ _ _ (farEnd_ne e)).trans near, ?_, fun d other => ?_, routers, nis, can, rest, reports, tallies⟩
  · rw [spn_updE_same, others _ (farEnd_ne e)]
  · rw [not_or] at other
    exact (spn_updE_ne _ _ _ _ (Ne.symm other.2)).trans (others d other.1)

end Ends

/-! ### One SFU slot -/

section Slot
variable {s : State} {e : LinkEnd} {k : Nat} (runs : endRuns s e = true) (up : (spn s e).state = .up)
  (noNak : (spn s e).nakDue = false) (noNote : (spn s e).poolNote = false) (notFirst : (spn s e).firstLink = false)
  (recent : (spn s e).sinceLink < 8) (between : (spn s (farEnd e)).slots < markerSlots)
include runs up noNak noNote notFirst recent between

theorem slot_sends (ready : ((spn s e).replay.isSome || (!decide (pailCap e ≤ ((spn s e).n - (spn s e).o).toNat) &&
      ((spn s e).tx.isSome || !(spn s e).queue.isEmpty))) = true) :
    exec (.spineRecordSend e k) s = .next (match (spn s e).replay with
      | some q => sendReplay s e q (timeE s e k)
      | none => sendData s e (timeE s e k)) := by
  show execSpineRecordSend e k s = _
  unfold execSpineRecordSend
  dsimp only
  rw [if_neg (by simp [runs, up, Nat.not_le.mpr between]),
    if_neg (by simp only [noNak, noNote, notFirst, ready]; simp; omega)] <;> rfl

theorem slot_sendsData (noReplay : (spn s e).replay = none) (room : ((spn s e).n - (spn s e).o).toNat < pailCap e)
    (waiting : (spn s e).tx.isSome = true ∨ (spn s e).queue ≠ []) :
    ∃ t w, exec (.spineRecordSend e k) s = .next t ∧
      w = sfuOf (dataPrefix (spn s e).n) (dataBody (packSfu (spn s e).compress (spn s e).tx (spn s e).queue).payload) ∧
      (spn t e).n = (spn s e).n + 1 ∧ (spn t e).o = (spn s e).o ∧
      (spn t e).pail.map (·.sfu) = (spn s e).pail.map (·.sfu) ++ [w] ∧
      (spn t e).queue = (packSfu (spn s e).compress (spn s e).tx (spn s e).queue).queue ∧
      spn t (farEnd e) = takeSlot (spn s (farEnd e)) w ∧ linkFrame (fun d => d = e ∨ d = farEnd e) s t := by
  have run := slot_sends (k := k) runs up noNak noNote notFirst recent between (by
    rw [noReplay, decide_eq_false (Nat.not_le.mpr room)]
    simpa using waiting)
  rw [noReplay] at run
  obtain ⟨near, far, frame⟩ := twoEnds_work (((counts_bump s (ctrSpine e + 0) 1).trans (counts_bump ..))) e _ _
  refine ⟨_, _, run, rfl, (congrArg SpineEnd.n near).trans rfl, (congrArg SpineEnd.o near).trans rfl,
    (congrArg (fun x => x.pail.map (·.sfu)) near).trans ?_, (congrArg SpineEnd.queue near).trans rfl, far, frame⟩
  exact List.map_append

theorem slot_replays {q : BitVec 12} {p : PailEnt} (replay : (spn s e).replay = some q)
    (kept : (spn s e).pail.find? (fun p => p.seq == q.toNat) = some p) :
    ∃ t, exec (.spineRecordSend e k) s = .next t ∧
      (spn t e).replay = (if q + 1 = (spn s e).n then none else some (q + 1)) ∧ (spn t e).n = (spn s e).n ∧
      (spn t e).pail = (spn s e).pail ∧ spn t (farEnd e) = takeSlot (spn s (farEnd e)) p.sfu ∧
      linkFrame (fun d => d = e ∨ d = farEnd e) s t := by
  have run := slot_sends (k := k) runs up noNak noNote notFirst recent between (by simp [replay])
  rw [replay] at run
  have sends : sendReplay s e q (timeE s e k) = updE (updE (countE s e 2) e (fun x => noteSent { x with
      replay := if q + 1 = x.n then none else some (q + 1), sinceLink := x.sinceLink + 1 } p.recs (timeE s e k)))
      (farEnd e) (fun x => takeSlot x p.sfu) := by
    rw [sendReplay, kept]
    rfl
  dsimp only at run
  rw [sends] at run
  obtain ⟨near, far, frame⟩ := twoEnds_work (counts_bump s (ctrSpine e + 2) 1) e (fun x => noteSent { x with
      replay := if q + 1 = x.n then none else some (q + 1), sinceLink := x.sinceLink + 1 } p.recs (timeE s e k))
      (fun x => takeSlot x p.sfu)
  exact ⟨_, run, (congrArg SpineEnd.replay near).trans rfl, (congrArg SpineEnd.n near).trans rfl,
    (congrArg SpineEnd.pail near).trans rfl, far, frame⟩

end Slot

/-- Settles O33. -/
theorem slotSendsData : Obligations.SlotSendsData := by
  intro s e k runs up noNak noNote notFirst recent between
  refine ⟨fun noReplay room waiting => ?_, fun q p replay kept => ?_⟩
  · obtain ⟨t, w, run, is, n, o, pail, queue, far, others, rest⟩ :=
      slot_sendsData (k := k) runs up noNak noNote notFirst recent between noReplay room waiting
    exact ⟨t, w, run, is, n, o, pail, queue, far, fun d near away => others d (not_or.mpr ⟨near, away⟩), rest⟩
  · obtain ⟨t, run, again, n, pail, far, others, rest⟩ :=
      slot_replays (k := k) runs up noNak noNote notFirst recent between replay kept
    exact ⟨t, run, again, n, pail, far, fun d near away => others d (not_or.mpr ⟨near, away⟩), rest⟩

/-! ### Timers -/

/-- A link end that begins a replay from its timer. -/
def replayFrom (o : BitVec 12) (now : Nat) (x : SpineEnd) : SpineEnd :=
  { x with timerAt := now, replay := if o = x.n then none else some o, fruitless := x.fruitless + 1 }

/-- A link end that begins a retrain if it is up. -/
def beganRetrain (x : SpineEnd) : SpineEnd :=
  if x.state == .up then { x with state := .retrain, attempts := 0, lanesIn := [], retrainAt := none } else x

theorem startRetrain_eq (s : State) (e : LinkEnd) : startRetrain s e = updE s e beganRetrain := rfl

section Fruitless
variable {c : State} {e : LinkEnd} {o : BitVec 12} {now : Nat}

theorem fruitlessReplay_few (few : ¬4 ≤ (spn c e).fruitless + 1) :
    fruitlessReplay (updE c e (fun x => { x with timerAt := now })) e o = updE c e (replayFrom o now) := by
  unfold fruitlessReplay
  extract_lets u
  have begun : u = updE c e (replayFrom o now) := updE_updE ..
  rw [begun, spn_updE_same]
  exact if_neg few

theorem fruitlessReplay_fourth (many : 4 ≤ (spn c e).fruitless + 1) :
    fruitlessReplay (updE c e (fun x => { x with timerAt := now })) e o =
      updE c e (fun x => beganRetrain { replayFrom o now x with fruitless := 0 }) := by
  unfold fruitlessReplay
  extract_lets u
  have begun : u = updE c e (replayFrom o now) := updE_updE ..
  rw [begun, spn_updE_same]
  refine (if_pos many).trans ?_
  rw [startRetrain_eq, updE_updE, updE_updE]

end Fruitless

section Timers
variable {s : State} {e : LinkEnd} {k : Nat} (runs : endRuns s e = true)
include runs

theorem replayTimeout_replays (up : (spn s e).state = .up) (behind : (spn s e).o ≠ (spn s e).n)
    (still : (spn s e).lastProgress + 512 ≤ timeE s e k) (late : (spn s e).timerAt + 512 ≤ timeE s e k) :
    ∃ t, exec (.replayTimeout e k) s = .next t ∧ (spn t e).replay = some (spn s e).o ∧
      (spn t e).lastProgress = (spn s e).lastProgress ∧ (spn t e).timerAt = timeE s e k ∧
      ((spn s e).fruitless < 3 → (spn t e).fruitless = (spn s e).fruitless + 1 ∧ (spn t e).state = .up) ∧
      ((spn s e).fruitless = 3 → (spn t e).fruitless = 0 ∧ (spn t e).state = .retrain) ∧ linkFrame (· = e) s t := by
  have run : exec (.replayTimeout e k) s = .next (fruitlessReplay (updE (countE s e 6) e
      (fun x => { x with timerAt := timeE s e k })) e (spn s e).o) :=
    congrArg Host.Outcome.next (if_pos (by simp [runs, up, behind]; omega))
  have counts : Counts s (countE s e 6) := counts_bump ..
  have kept : spn (countE s e 6) e = spn s e := by rw [spn, counts.nodes.2.2]
  obtain ⟨near, frame⟩ := oneEnd_works counts e (replayFrom (spn s e).o (timeE s e k))
  by_cases fourth : 4 ≤ (spn s e).fruitless + 1
  · rw [fruitlessReplay_fourth (by rw [kept]; exact fourth)] at run
    obtain ⟨near, frame⟩ := oneEnd_works counts e (fun x => beganRetrain { replayFrom (spn s e).o (timeE s e k) x with fruitless := 0 })
    have is : beganRetrain { replayFrom (spn s e).o (timeE s e k) (spn s e) with fruitless := 0 } =
        { replayFrom (spn s e).o (timeE s e k) (spn s e) with
          fruitless := 0, state := .retrain, attempts := 0, lanesIn := [], retrainAt := none } :=
      if_pos (by simp [replayFrom, up])
    rw [is] at near
    refine ⟨_, run, (congrArg SpineEnd.replay near).trans (if_neg behind), (congrArg SpineEnd.lastProgress near).trans rfl,
      (congrArg SpineEnd.timerAt near).trans rfl, fun few => absurd few (by omega),
      fun _ => ⟨(congrArg SpineEnd.fruitless near).trans rfl, (congrArg SpineEnd.state near).trans rfl⟩, frame⟩
  · rw [fruitlessReplay_few (by rw [kept]; exact fourth)] at run
    refine ⟨_, run, (congrArg SpineEnd.replay near).trans (if_neg behind), (congrArg SpineEnd.lastProgress near).trans rfl,
      (congrArg SpineEnd.timerAt near).trans rfl,
      fun _ => ⟨(congrArg SpineEnd.fruitless near).trans rfl, (congrArg SpineEnd.state near).trans up⟩,
      fun many => absurd many (by omega), frame⟩

end Timers

/-- Settles O35. -/
theorem linkTimers : Obligations.LinkTimers := by
  intro s e k runs
  refine ⟨fun up recovering noNak nak accept => ?_, fun t0 up due => ?_, fun up behind still late => ?_,
    fun down en free idle late => ?_⟩
  · exact congrArg Host.Outcome.next (if_pos (by simp [runs, up, recovering, noNak]; omega))
  · refine congrArg Host.Outcome.next (if_pos ?_)
    rcases due with many | ⟨since, old⟩
    · simp [runs, up, many]
    · simp [runs, up, since, old]
  · exact replayTimeout_replays runs up behind still late
  · exact congrArg Host.Outcome.next (if_pos (by simp [runs, down, en, free, idle, late]))

end Sys2Proof.Proofs

/-! ## What a spine receiver does with an SFU (R254–R265): O34. -/

namespace Sys2Proof.Proofs
open Sys2Proof.Machine Sys2Proof.Safety

theorem linkFrame.trans {which : LinkEnd → Prop} {s t u : State} (first : linkFrame which s t)
    (second : linkFrame which t u) : linkFrame which s u := by
  obtain ⟨others, routers, nis, can, ⟨h1, h2, h3, h4, h5, h6, h7, h8, h9⟩, reports, tallies⟩ := first
  obtain ⟨others', routers', nis', can', ⟨g1, g2, g3, g4, g5, g6, g7, g8, g9⟩, reports', tallies'⟩ := second
  refine ⟨fun d out => (others' d out).trans (others d out), routers'.trans routers, nis'.trans nis, can'.trans can,
    ⟨g1.trans h1, g2.trans h2, g3.trans h3, g4.trans h4, g5.trans h5, g6.trans h6, g7.trans h7, g8.trans h8,
      g9.trans h9⟩, ?_, ?_⟩
  · rw [onlyReports] at *
    rw [reports', reports]
  · rw [onlyCounts] at *
    rw [tallies', tallies]

/-- Work at one link end, with what it leaves of that end. -/
def EndStep (e : LinkEnd) (s t : State) (x : SpineEnd) : Prop := spn t e = x ∧ linkFrame (· = e) s t

section Steps
variable {s t u : State} {e : LinkEnd}

theorem endStep_updE (s : State) (e : LinkEnd) (f : SpineEnd → SpineEnd) : EndStep e s (updE s e f) (f (spn s e)) :=
  oneEnd_works (Counts.refl s) e f

theorem Counts.endStep (counts : Counts s t) : EndStep e s t (spn s e) := by
  obtain ⟨v, o, n, evs, rfl⟩ := counts
  exact ⟨rfl, fun _ _ => rfl, rfl, rfl, rfl, ⟨rfl, rfl, rfl, rfl, rfl, rfl, rfl, rfl, rfl⟩, rfl, rfl⟩

theorem EndStep.trans {x y : SpineEnd} (first : EndStep e s t x) (second : EndStep e t u y) : EndStep e s u y :=
  ⟨second.1, first.2.trans second.2⟩

end Steps

/-! ### A DATA SFU -/

section Data
variable {s : State} {e : LinkEnd}

theorem recsToHub_wire (rs : List RecIn) (s : State) :
    (tget (rtr (rs.foldl (fun s r => recToHub s e r) s) (hubAt e)).ins (endPort e)).wire.map (·.flit) =
      (tget (rtr s (hubAt e)).ins (endPort e)).wire.map (·.flit) ++ rs.map (·.flit) := by
  induction rs generalizing s with
  | nil => simp
  | cons r rs ih =>
    rw [List.foldl_cons, ih, recToHub, rtr_updR_same, updIn]
    dsimp only
    rw [tget_tupd]
    simp

theorem recsToHub_frame (rs : List RecIn) (s : State) :
    (∃ ro, rs.foldl (fun s r => recToHub s e r) s = { s with routers := ro }) ∧
    ∀ r, r ≠ hubAt e → rtr (rs.foldl (fun s r => recToHub s e r) s) r = rtr s r := by
  refine ⟨foldl_updR_frame (fun _ _ => ⟨_, rfl⟩) s, fun r away => ?_⟩
  induction rs generalizing s with
  | nil => rfl
  | cons x rs ih => exact (ih _).trans (rtr_updR_ne _ _ _ _ away.symm)

variable {k : Nat} {dist w : BitVec 512} {rest : List (BitVec 512)} (runs : endRuns s e = true)
  (up : (spn s e).state = .up) (front : (spn s e).lanesIn = w :: rest)
  (locked : ∀ l ∈ (spn s e).lanes, l.inUse = true → l.locked = true)
include runs up front locked

omit runs up front in
theorem lanes_locked : (spn s e).lanes.any (fun l => l.inUse && !l.locked) = false := by
  rw [List.any_eq_false]
  intro l mem
  cases used : l.inUse with
  | false => simp
  | true => simp [locked l mem used]

theorem data_accepted (good : sfuCheck (spn s e).e (w ^^^ dist) = .data) {rs : List RecIn}
    (records : rs = (readRecs 64 ((spn s e).rxBits ++ payloadOf (sfuBody (w ^^^ dist)))).1)
    (room : (rs.filter (·.pool)).foldl (fun n r => n + recUnits r) 0 ≤ (spn s e).poolFree) :
    ∃ t, exec (.dataSfuReceive e k dist) s = .next t ∧ (spn t e).e = (spn s e).e + 1 ∧
      (spn t e).recovering = false ∧ (spn t e).nakDue = false ∧ (spn t e).lanesIn = rest ∧
      (spn t e).ackCount = (spn s e).ackCount + 1 ∧ (spn t e).lastAccept = timeE s e k ∧
      (tget (rtr t (hubAt e)).ins (endPort e)).wire.map (·.flit) =
        (tget (rtr s (hubAt e)).ins (endPort e)).wire.map (·.flit) ++ rs.map (·.flit) ∧
      (∀ d, d ≠ e → spn t d = spn s d) ∧ (∀ r, r ≠ hubAt e → rtr t r = rtr s r) ∧
      t = { s with routers := t.routers, spine := t.spine } := by
  have live : (endRuns s e && (spn s e).state == .up) = true := by simp [runs, up]
  obtain ⟨f, run, is⟩ : ∃ f : SpineEnd → SpineEnd, exec (.dataSfuReceive e k dist) s =
      .next (rs.foldl (fun s r => recToHub s e r) (updE s e f)) ∧ ∀ x, (f x).e = x.e + 1 ∧ (f x).recovering = false ∧
        (f x).nakDue = false ∧ (f x).lanesIn = rest ∧ (f x).ackCount = x.ackCount + 1 ∧ (f x).lastAccept = timeE s e k := by
    apply Exists.intro
    constructor
    · show execDataSfuReceive e k dist s = _
      unfold execDataSfuReceive
      dsimp only
      rw [if_pos live, front]
      dsimp only
      rw [lanes_locked locked, if_neg (by decide), good]
      dsimp only
      rw [← records, if_neg (Nat.not_lt.mpr room)]
    · exact fun x => ⟨rfl, rfl, rfl, rfl, rfl, rfl⟩
  obtain ⟨⟨ro, frame⟩, others⟩ := recsToHub_frame (e := e) rs (updE s e f)
  have wire := recsToHub_wire (e := e) rs (updE s e f)
  have near : spn (rs.foldl (fun s r => recToHub s e r) (updE s e f)) e = f (spn s e) := by
    rw [frame]
    exact spn_updE_same ..
  obtain ⟨seq, recovering, nak, lanes, count, accept⟩ := is (spn s e)
  refine ⟨_, run, ?_, ?_, ?_, ?_, ?_, ?_, wire, fun d away => ?_, others, ?_⟩
  iterate 6 rw [near]; assumption
  · rw [frame]
    exact spn_updE_ne _ _ _ _ (Ne.symm away)
  · rw [frame]
    rfl

theorem data_refused (bad : sfuCheck (spn s e).e (w ^^^ dist) = .bad) :
    ∃ t, exec (.dataSfuReceive e k dist) s = .next t ∧
      spn t e = { offLanes (spn s e) (w ^^^ dist) rest with
        recovering := true, nakDue := (spn s e).nakDue || !(spn s e).recovering } ∧ linkFrame (· = e) s t := by
  have live : (endRuns s e && (spn s e).state == .up) = true := by simp [runs, up]
  have run : exec (.dataSfuReceive e k dist) s = .next (sfuFails s e (w ^^^ dist) rest) := by
    show execDataSfuReceive e k dist s = _
    unfold execDataSfuReceive
    dsimp only
    rw [if_pos live, front]
    dsimp only
    rw [lanes_locked locked, if_neg (by decide), bad]
  have off := endStep_updE s e (fun x => { offLanes x (w ^^^ dist) rest with
    recovering := true, nakDue := x.nakDue || !x.recovering })
  have fails := off.trans (counts_bump _ (ctrSpine e + 3) 1).endStep
  exact ⟨_, run, fails.1.trans off.1, fails.2⟩

end Data

/-! ### A LINK SFU -/

/-- What acknowledgements and credits leave of a link end. -/
def endBase (x : SpineEnd) : Bool × BitVec 12 × BitVec 12 × Bool × Vector Nat 16 × Vector Nat 16 :=
  (x.farPoolOff, x.n, x.e, x.recovering, x.lastSent, x.creditLeaks)

/-- The credits of a link end and what its far end has said of them. -/
def endCredits (x : SpineEnd) : Vector Nat 16 × Vector (BitVec 12) 16 := (x.credit, x.farCount)

section Credits
variable (x : SpineEnd) (now : Nat)

theorem releaseBefore_keeps (q : BitVec 12) : endBase (releaseBefore x q now) = endBase x ∧
    endCredits (releaseBefore x q now) = endCredits x ∧ (releaseBefore x q now).state = x.state := by
  unfold releaseBefore
  split <;> exact ⟨rfl, rfl, rfl⟩

theorem releaseBefore_releases (q : BitVec 12) : (releaseBefore x q now).o = q ∧
    (releaseBefore x q now).lanesIn = x.lanesIn ∧ (releaseBefore x q now).state = x.state := by
  unfold releaseBefore
  split
  · next at_ => exact ⟨at_, rfl, rfl⟩
  · exact ⟨rfl, rfl, rfl⟩

theorem takeCredit_takes (v : SvcId) : endBase (takeCredit x v now) = endBase x ∧
    endCredits (takeCredit x v now) = (tupd x.credit v (· + 1), x.farCount) ∧ (takeCredit x v now).state = x.state := by
  unfold takeCredit
  dsimp only
  split
  · exact ⟨rfl, rfl, rfl⟩
  · split
    · exact releaseBefore_keeps ..
    · exact ⟨rfl, rfl, rfl⟩

theorem takeCredit_times (v : SvcId) (n : Nat) (x : SpineEnd) :
    endBase ((List.range n).foldl (fun x _ => takeCredit x v now) x) = endBase x ∧
    endCredits ((List.range n).foldl (fun x _ => takeCredit x v now) x) = (tupd x.credit v (· + n), x.farCount) ∧
    ((List.range n).foldl (fun x _ => takeCredit x v now) x).state = x.state := by
  induction n with
  | zero => exact ⟨rfl, by simp [endCredits, tupd], rfl⟩
  | succ n ih =>
    rw [List.range_succ, List.foldl_append, List.foldl_cons, List.foldl_nil]
    obtain ⟨base, credits, state⟩ := ih
    obtain ⟨base', credits', state'⟩ := takeCredit_takes ((List.range n).foldl (fun x _ => takeCredit x v now) x) now v
    refine ⟨base'.trans base, ?_, state'.trans state⟩
    obtain ⟨credit, far⟩ := Prod.mk.injEq .. ▸ credits
    rw [credits', credit, far, tupd_tupd]
    rfl

theorem creditsIn_congr (e : LinkEnd) {x y : SpineEnd} (v : SvcId) (c : Nat)
    (same : tget x.farCount v = tget y.farCount v) : creditsIn e x v c = creditsIn e y v c := by
  rw [creditsIn, creditsIn, same]

/-- The credits returned for one spine VC. -/
def takeCreditsOf (e : LinkEnd) (credit : List Nat) (now : Nat) (x : SpineEnd) (v : SvcId) : SpineEnd :=
  let n := creditsIn e x v (credit.getD v.val 0)
  let x := (List.range n).foldl (fun x _ => takeCredit x v now) x
  if diagonal e || n = 0 then x
  else { x with farCount := tupd x.farCount v (fun _ => BitVec.ofNat 12 (credit.getD v.val 0)) }

theorem takeCreditsOf_takes (e : LinkEnd) (credit : List Nat) (v : SvcId) :
    endBase (takeCreditsOf e credit now x v) = endBase x ∧ (takeCreditsOf e credit now x v).state = x.state ∧
    (takeCreditsOf e credit now x v).credit = tupd x.credit v (· + creditsIn e x v (credit.getD v.val 0)) ∧
    ∀ w, w ≠ v → tget (takeCreditsOf e credit now x v).farCount w = tget x.farCount w := by
  obtain ⟨base, credits, state⟩ := takeCredit_times now v (creditsIn e x v (credit.getD v.val 0)) x
  obtain ⟨counts, far⟩ := Prod.mk.injEq .. ▸ credits
  unfold takeCreditsOf
  dsimp only
  split
  · exact ⟨base, state, counts, fun w _ => by rw [far]⟩
  · exact ⟨base, state, counts, fun w other => (tget_tupd_ne _ _ _ _ (Ne.symm other)).trans (by rw [far])⟩

theorem takeCredits_takes (e : LinkEnd) (credit : List Nat) (l : List SvcId) (distinct : l.Nodup) (x : SpineEnd) :
    endBase (l.foldl (takeCreditsOf e credit now) x) = endBase x ∧ (l.foldl (takeCreditsOf e credit now) x).state = x.state ∧
    ∀ v, tget (l.foldl (takeCreditsOf e credit now) x).credit v =
      tget x.credit v + if v ∈ l then creditsIn e x v (credit.getD v.val 0) else 0 := by
  induction l generalizing x with
  | nil => exact ⟨rfl, rfl, fun v => rfl⟩
  | cons a l ih =>
    obtain ⟨out, distinct⟩ := List.nodup_cons.mp distinct
    obtain ⟨base, state, credits⟩ := ih distinct (takeCreditsOf e credit now x a)
    obtain ⟨base', state', count, far⟩ := takeCreditsOf_takes x now e credit a
    refine ⟨base.trans base', state.trans state', fun v => (credits v).trans ?_⟩
    rw [count, tget_tupd_if]
    by_cases own : a = v
    · subst own
      simp [out]
    · have other : v ≠ a := Ne.symm own
      simp only [own, if_false, List.mem_cons, other, false_or, creditsIn_congr e v _ (far v other)]

theorem takeCreditsOf_none (e : LinkEnd) (credit : List Nat) (v : SvcId) (none_ : creditsIn e x v (credit.getD v.val 0) = 0) :
    takeCreditsOf e credit now x v = x := by
  rw [takeCreditsOf, none_]
  simp

theorem takeCredits_none (e : LinkEnd) (credit : List Nat) (none_ : ∀ v : SvcId, creditsIn e x v (credit.getD v.val 0) = 0) :
    takeCredits e x credit now = x := by
  have all (l : List SvcId) : l.foldl (takeCreditsOf e credit now) x = x := by
    induction l with
    | nil => rfl
    | cons a l ih => rw [List.foldl_cons, takeCreditsOf_none x now e credit a (none_ a), ih]
  exact all svcs

end Credits

/-! ### Acknowledgements -/

section Acks
variable (s : State) (e : LinkEnd) (q : BitVec 12) (now : Nat)

/-- Work at one end that leaves its credits and what `endBase` shows. -/
def AckStep (e : LinkEnd) (s t : State) : Prop :=
  ∃ x, EndStep e s t x ∧ endBase x = endBase (spn s e) ∧ endCredits x = endCredits (spn s e)

variable {s e q now} in
theorem AckStep.trans {t u : State} (first : AckStep e s t) (second : AckStep e t u) : AckStep e s u := by
  obtain ⟨x, step, base, credits⟩ := first
  obtain ⟨y, step', base', credits'⟩ := second
  rw [step.1] at base' credits'
  exact ⟨y, step.trans step', base'.trans base, credits'.trans credits⟩

theorem ackStep_refl : AckStep e s s := ⟨_, (Counts.refl s).endStep, rfl, rfl⟩

theorem ackStep_updE {f : SpineEnd → SpineEnd} (base : ∀ x, endBase (f x) = endBase x)
    (credits : ∀ x, endCredits (f x) = endCredits x) : AckStep e s (updE s e f) :=
  ⟨_, endStep_updE s e f, base _, credits _⟩

theorem ackStep_startRetrain : AckStep e s (startRetrain s e) := by
  refine ackStep_updE s e (fun x => ?_) fun x => ?_ <;> split <;> rfl

theorem ackStep_takeAck : AckStep e s (takeAck s e q now) := by
  unfold takeAck
  dsimp only
  split
  · exact ackStep_updE s e (fun x => (releaseBefore_keeps ..).1) fun x => (releaseBefore_keeps ..).2.1
  · exact ⟨_, (counts_bump ..).endStep, rfl, rfl⟩

theorem ackStep_fruitlessReplay : AckStep e s (fruitlessReplay s e q) := by
  unfold fruitlessReplay
  extract_lets u
  have begun : AckStep e s u := ackStep_updE s e (fun _ => rfl) fun _ => rfl
  refine begun.trans ?_
  split
  · refine AckStep.trans ?_ (ackStep_startRetrain ..)
    exact ackStep_updE u e (fun _ => rfl) fun _ => rfl
  · exact ackStep_refl ..

theorem ackStep_takeNak : AckStep e s (takeNak s e q now) := by
  unfold takeNak
  dsimp only
  split
  · exact ⟨_, (counts_bump ..).endStep, rfl, rfl⟩
  split
  · split
    · exact ackStep_updE s e (fun _ => rfl) fun _ => rfl
    · exact ackStep_fruitlessReplay ..
  · exact ackStep_updE s e (fun x => (releaseBefore_keeps x now q).1) fun x => (releaseBefore_keeps x now q).2.1

end Acks

/-- What a LINK SFU does at its end (R256, R261–R263). -/
def linkTaken (s : State) (e : LinkEnd) (w : BitVec 512) (rest : List (BitVec 512)) (l : LinkSfu) (now : Nat) : State :=
  let s := updE s e (fun x => { offLanes x w rest with farPoolOff := l.poolOff })
  let s := match l.ack with
    | some q => takeAck s e q now
    | none => s
  let s := match l.nak with
    | some q => takeNak s e q now
    | none => s
  let s := updE s e (fun x => takeCredits e x l.credit now)
  let lost := leaks (spn s e) l.idle now
  let s := if lost.isEmpty then s
    else startRetrain (updE s e (fun x => { x with
      creditLeaks := lost.foldl (fun c v => tupd c v (· + 1)) x.creditLeaks })) e
  if l.req == 1 then startRetrain s e else s

section Link
variable {s : State} {e : LinkEnd} {k : Nat} {dist w : BitVec 512} {rest : List (BitVec 512)} {l : LinkSfu}

theorem linkTaken_runs (runs : endRuns s e = true)
    (up : (spn s e).state = .up) (front : (spn s e).lanesIn = w :: rest)
    (locked : ∀ l ∈ (spn s e).lanes, l.inUse = true → l.locked = true)
    (link : sfuCheck (spn s e).e (w ^^^ dist) = .link) : exec (.linkSfuReceive e k dist) s =
      .next (linkTaken s e (w ^^^ dist) rest (readLink (diagonal e) (sfuBody (w ^^^ dist))) (timeE s e k)) := by
  have live : (endRuns s e && (spn s e).state == .up) = true := by simp [runs, up]
  show execLinkSfuReceive e k dist s = _
  unfold execLinkSfuReceive
  dsimp only
  rw [if_pos live, front]
  dsimp only
  rw [if_neg (by rw [link, lanes_locked locked]; decide)]
  rfl

theorem beganRetrain_up {x : SpineEnd} (up : x.state = .up) : (beganRetrain x).state = .retrain ∧
    (beganRetrain x).creditLeaks = x.creditLeaks := by
  unfold beganRetrain
  rw [if_pos (by simp [up])]
  exact ⟨rfl, rfl⟩

/-- The leaks that a LINK SFU shows are counted, each once. -/
theorem leaks_counted (x : SpineEnd) (idle : BitVec 16) (now : Nat) {v : SvcId} (leak : v ∈ leaks x idle now) :
    tget ((leaks x idle now).foldl (fun c v => tupd c v (· + 1)) x.creditLeaks) v = tget x.creditLeaks v + 1 := by
  have distinct : (leaks x idle now).Nodup := (List.nodup_finRange 16).filter _
  have counted (l : List SvcId) (c : Vector Nat 16) (distinct : l.Nodup) :
      tget (l.foldl (fun c v => tupd c v (· + 1)) c) v = tget c v + if v ∈ l then 1 else 0 := by
    induction l generalizing c with
    | nil => rfl
    | cons a l ih =>
      obtain ⟨out, distinct⟩ := List.nodup_cons.mp distinct
      rw [List.foldl_cons, ih _ distinct, tget_tupd_if]
      by_cases own : a = v
      · subst own
        simp [out]
      · simp [own, Ne.symm own]
  rw [counted _ _ distinct, if_pos leak]

/-- The end after what the LINK SFU says of acknowledgements. -/
def linkAcked (s : State) (e : LinkEnd) (w : BitVec 512) (rest : List (BitVec 512)) (l : LinkSfu) (now : Nat) : State :=
  let s := updE s e (fun x => { offLanes x w rest with farPoolOff := l.poolOff })
  let s := match l.ack with
    | some q => takeAck s e q now
    | none => s
  match l.nak with
  | some q => takeNak s e q now
  | none => s

/-- What is counted and begun where IDLE_FULL shows leaks (R263). -/
def leaksMet (s : State) (e : LinkEnd) (lost : List SvcId) : State :=
  if lost.isEmpty then s
  else startRetrain (updE s e (fun x => { x with
    creditLeaks := lost.foldl (fun c v => tupd c v (· + 1)) x.creditLeaks })) e

theorem linkTaken_plain (plain : l.req = 0) (w : BitVec 512) (rest : List (BitVec 512)) (now : Nat) :
    linkTaken s e w rest l now = (fun u => leaksMet u e (leaks (spn u e) l.idle now))
      (updE (linkAcked s e w rest l now) e (fun x => takeCredits e x l.credit now)) := by
  unfold linkTaken
  rw [plain]
  rfl

theorem linkAcked_acks (w : BitVec 512) (rest : List (BitVec 512)) (now : Nat) : ∃ x,
    EndStep e s (linkAcked s e w rest l now) x ∧
      endBase x = endBase { spn s e with farPoolOff := l.poolOff } ∧ endCredits x = endCredits (spn s e) := by
  unfold linkAcked
  extract_lets s1 s2
  have off : EndStep e s s1 _ := endStep_updE s e (fun x => { offLanes x w rest with farPoolOff := l.poolOff })
  have acked : AckStep e s1 s2 := by
    simp only [s2]
    split
    · exact ackStep_takeAck ..
    · exact ackStep_refl ..
  have naked : AckStep e s2 (match l.nak with | some q => takeNak s2 e q now | none => s2) := by
    split
    · exact ackStep_takeNak ..
    · exact ackStep_refl ..
  obtain ⟨x, step, base, credits⟩ := acked.trans naked
  rw [off.1] at base credits
  exact ⟨x, off.trans step, base, credits⟩

theorem leaksMet_keeps (u : State) (lost : List SvcId) : ∃ x, EndStep e u (leaksMet u e lost) x ∧
    endCredits x = endCredits (spn u e) ∧ (x.farPoolOff, x.n, x.e) = ((spn u e).farPoolOff, (spn u e).n, (spn u e).e) := by
  unfold leaksMet
  split
  · exact ⟨_, (Counts.refl u).endStep, rfl, rfl⟩
  · refine ⟨_, (endStep_updE u e _).trans (endStep_updE _ e _), ?_⟩
    rw [spn_updE_same]
    split <;> exact ⟨rfl, rfl⟩

theorem linkTaken_takes (plain : l.req = 0) (w : BitVec 512) (rest : List (BitVec 512)) (now : Nat) {t : State}
    (taken : linkTaken s e w rest l now = t) :
    (∀ v, tget (spn t e).credit v = tget (spn s e).credit v + creditsIn e (spn s e) v (l.credit.getD v.val 0)) ∧
    (spn t e).farPoolOff = l.poolOff ∧ (spn t e).n = (spn s e).n ∧ (spn t e).e = (spn s e).e ∧ linkFrame (· = e) s t := by
  rw [linkTaken_plain plain] at taken
  subst taken
  dsimp only
  obtain ⟨x, acked, base, credits⟩ := linkAcked_acks (s := s) (e := e) (l := l) w rest now
  generalize linkAcked s e w rest l now = u at acked
  have taken := endStep_updE u e (fun x => takeCredits e x l.credit now)
  rw [acked.1] at taken
  obtain ⟨base', -, credits'⟩ := takeCredits_takes now e l.credit svcs (List.nodup_finRange 16) x
  obtain ⟨credit, far⟩ := Prod.mk.injEq .. ▸ credits
  have far : x.farCount = (spn s e).farCount := far
  have credit : x.credit = (spn s e).credit := credit
  generalize updE u e _ = u' at taken
  obtain ⟨y, met, credits'', keeps⟩ := leaksMet_keeps (e := e) u' (leaks (spn u' e) l.idle now)
  rw [taken.1] at credits'' keeps
  have frame := (acked.trans (taken.trans met)).2
  have node := met.1
  refine ⟨fun v => ?_, ?_, ?_, ?_, frame⟩
  · rw [node, show y.credit = _ from congrArg Prod.fst credits'']
    refine (credits' v).trans ?_
    rw [credit, if_pos (show v ∈ svcs from List.mem_finRange v), creditsIn_congr e v _ (congrArg (fun c => tget c v) far)]
  all_goals rw [node]
  · exact (congrArg Prod.fst keeps).trans ((congrArg Prod.fst base').trans (congrArg Prod.fst base))
  · exact (congrArg (fun p => p.2.1) keeps).trans ((congrArg (fun p => p.2.1) base').trans (congrArg (fun p => p.2.1) base))
  · exact (congrArg (fun p => p.2.2) keeps).trans
      ((congrArg (fun p => p.2.2.1) base').trans (congrArg (fun p => p.2.2.1) base))

/-- An acknowledgement inside the window, with no credits: the Pail is released up to and with the SFU named. -/
theorem linkTaken_acked (plain : l.req = 0) (up : (spn s e).state = .up) (w : BitVec 512) (rest : List (BitVec 512))
    (now : Nat) {q : BitVec 12} (full : l.idle = 0) (ack : l.ack = some q) (noNak : l.nak = none)
    (inside : inWindow (spn s e) q = true) (noCredit : ∀ v : SvcId, creditsIn e (spn s e) v (l.credit.getD v.val 0) = 0)
    {t : State} (taken : linkTaken s e w rest l now = t) :
    (spn t e).o = (if q = (spn s e).n then q else q + 1) ∧ (spn t e).lanesIn = rest ∧ (spn t e).state = .up := by
  have noLeak (u : State) : leaks (spn u e) l.idle now = [] := by
    rw [full]
    simp [leaks]
  have acked : linkAcked s e w rest l now = updE (updE s e (fun x => { offLanes x w rest with farPoolOff := l.poolOff })) e
      (fun x => releaseBefore x (if q = x.n then x.n else q + 1) now) := by
    rw [linkAcked, ack, noNak]
    refine if_pos ?_
    rw [spn_updE_same]
    exact inside
  rw [linkTaken_plain plain] at taken
  subst taken
  dsimp only
  rw [noLeak, acked]
  have off : spn (updE s e (fun x => { offLanes x w rest with farPoolOff := l.poolOff })) e =
      { offLanes (spn s e) w rest with farPoolOff := l.poolOff } := spn_updE_same ..
  generalize updE s e (fun x => { offLanes x w rest with farPoolOff := l.poolOff }) = u at off
  have far : (releaseBefore (spn u e) (if q = (spn u e).n then (spn u e).n else q + 1) now).farCount = (spn s e).farCount := by
    have credits := (releaseBefore_keeps (spn u e) now (if q = (spn u e).n then (spn u e).n else q + 1)).2.1
    rw [off] at credits
    rw [off]
    exact congrArg Prod.snd credits
  have node : spn (leaksMet (updE (updE u e (fun x => releaseBefore x (if q = x.n then x.n else q + 1) now)) e
      (fun x => takeCredits e x l.credit now)) e []) e =
      releaseBefore (spn u e) (if q = (spn u e).n then (spn u e).n else q + 1) now := by
    rw [leaksMet, if_pos (show ([] : List SvcId).isEmpty = true from rfl), spn_updE_same, spn_updE_same]
    refine takeCredits_none _ now e _ fun v => ?_
    rw [creditsIn_congr e v _ (congrArg (fun c => tget c v) far)]
    exact noCredit v
  obtain ⟨o, lanes, state⟩ := releaseBefore_releases (spn u e) now (if q = (spn u e).n then (spn u e).n else q + 1)
  rw [node]
  refine ⟨o.trans ?_, lanes.trans (by rw [off]; rfl), state.trans (by rw [off]; exact up)⟩
  rw [off]
  by_cases newest : q = (spn s e).n
  · exact (if_pos newest).trans (newest.symm.trans (if_pos newest).symm)
  · exact (if_neg newest).trans (if_neg newest).symm

theorem linkTaken_leaks (plain : l.req = 0) (up : (spn s e).state = .up) (w : BitVec 512) (rest : List (BitVec 512))
    (now : Nat) (noAck : l.ack = none) (noNak : l.nak = none) {v : SvcId} (idle : l.idle.getLsbD v.val = true)
    (old : tget (spn s e).lastSent v + 256 ≤ now) (calm : (spn s e).recovering = false)
    (short : tget (spn s e).credit v + creditsIn e (spn s e) v (l.credit.getD v.val 0) ≠ tget spineDepth v)
    {t : State} (taken : linkTaken s e w rest l now = t) :
    tget (spn t e).creditLeaks v = tget (spn s e).creditLeaks v + 1 ∧ (spn t e).state = .retrain := by
  have acked : linkAcked s e w rest l now = updE s e (fun x => { offLanes x w rest with farPoolOff := l.poolOff }) := by
    rw [linkAcked, noAck, noNak]
  rw [linkTaken_plain plain, acked, updE_updE] at taken
  subst taken
  dsimp only
  have node : spn (updE s e (fun x => takeCredits e { offLanes x w rest with farPoolOff := l.poolOff } l.credit now)) e =
      takeCredits e { offLanes (spn s e) w rest with farPoolOff := l.poolOff } l.credit now := spn_updE_same ..
  generalize updE s e (fun x => takeCredits e { offLanes x w rest with farPoolOff := l.poolOff } l.credit now) = u at node
  obtain ⟨base, state, credits⟩ := takeCredits_takes now e l.credit svcs (List.nodup_finRange 16)
    { offLanes (spn s e) w rest with farPoolOff := l.poolOff }
  have base : endBase (spn u e) = endBase { offLanes (spn s e) w rest with farPoolOff := l.poolOff } := by
    rw [node]
    exact base
  have calm : (spn u e).recovering = false := (congrArg (fun p => p.2.2.2.1) base).trans calm
  have sent : (spn u e).lastSent = (spn s e).lastSent := congrArg (fun p => p.2.2.2.2.1) base
  have counted : (spn u e).creditLeaks = (spn s e).creditLeaks := congrArg (fun p => p.2.2.2.2.2) base
  have state : (spn u e).state = .up := by
    rw [node]
    exact state.trans up
  have credit : tget (spn u e).credit v = tget (spn s e).credit v + creditsIn e (spn s e) v (l.credit.getD v.val 0) := by
    rw [node]
    refine (credits v).trans ?_
    rw [if_pos (show v ∈ svcs from List.mem_finRange v)]
    rfl
  have leak : v ∈ leaks (spn u e) l.idle now := by
    refine List.mem_filter.mpr ⟨List.mem_finRange v, ?_⟩
    rw [idle, sent, calm, credit]
    simpa [old] using short
  rw [leaksMet, if_neg (by simpa using List.ne_nil_of_mem leak), startRetrain_eq, updE_updE, spn_updE_same]
  obtain ⟨retrains, leaked⟩ := beganRetrain_up (x := { spn u e with
    creditLeaks := ((leaks (spn u e) l.idle now).foldl (fun c v => tupd c v (· + 1)) (spn u e).creditLeaks) }) state
  refine ⟨?_, retrains⟩
  rw [leaked, ← counted]
  exact leaks_counted (spn u e) l.idle now leak

end Link

/-- Settles O34. -/
theorem sfusTaken : Obligations.SfusTaken := by
  refine ⟨fun s e k dist w rest runs up front locked => ⟨fun good rs records room =>
      data_accepted runs up front locked good records room, data_refused runs up front locked⟩,
    fun s e k dist w rest l runs up front locked link is plain => ?_⟩
  have run := linkTaken_runs (k := k) runs up front locked link
  rw [← is] at run
  obtain ⟨credits, pool, n, seq, others, rest'⟩ := linkTaken_takes plain (w ^^^ dist) rest (timeE s e k) rfl
  exact ⟨_, run, credits, pool, n, seq, fun q full ack noNak inside noCredit =>
    linkTaken_acked plain up _ _ _ full ack noNak inside noCredit rfl, fun v noAck noNak idle old calm short =>
    linkTaken_leaks plain up _ _ _ noAck noNak idle old calm short rfl, others, rest'⟩

end Sys2Proof.Proofs

/-! ## Lanes that fail, and lane markers (R240, R266, R268, R269): O36. -/

namespace Sys2Proof.Proofs
open Sys2Proof.Machine Sys2Proof.Safety

section Lanes
variable {s : State} {e : LinkEnd} {i : Nat} {l : Lane}

theorem lane_modify {ls : List Lane} (at_ : ls[i]? = some l) (f : Lane → Lane) : (ls.modify i f)[i]? = some (f l) := by
  simp [at_]

theorem lane_modify_ne (ls : List Lane) {j : Nat} (other : j ≠ i) (f : Lane → Lane) : (ls.modify j f)[i]? = ls[i]? := by
  simp [other]

theorem spn_updLane (s : State) (e : LinkEnd) (i : Nat) (f : Lane → Lane) :
    spn (updLane s e i f) e = { spn s e with lanes := (spn s e).lanes.modify i f } := spn_updE_same ..

/-! ### Loss of lock, and too many mismatches -/

variable (runs : endRuns s e = true) (at_ : (spn s e).lanes[i]? = some l) (works : l.failed = false)
include at_ works

theorem lockLost_used (used : l.inUse = true) : lockLost s e i = updE s e (fun x => beganRetrain { x with
    lanes := x.lanes.modify i (fun l => { l with locked := false, failing := l.failing || (spn s e).state == .up })
    lockTimer := x.lockTimer || (spn s e).state == .up || x.state == .retrain }) := by
  unfold lockLost
  rw [at_]
  dsimp only
  rw [works, if_neg (by decide), if_pos used, startRetrain_eq, updLane, updE_updE, updE_updE]

theorem lockLost_spare (spare : l.inUse = false) : lockLost s e i = if (spn s e).state == .up then
      repSpine (updLane s e i (fun l => { l with locked := false, failed := true })) e .laneSpared i
    else updLane s e i (fun l => { l with locked := false }) := by
  unfold lockLost
  rw [at_]
  dsimp only
  rw [works, if_neg (by decide), spare, if_neg (by decide)]

include runs

theorem lock_lost_used (up : (spn s e).state = .up) (used : l.inUse = true) :
    ∃ t, exec (.laneLockLoss e i) s = .next t ∧ (spn t e).state = .retrain ∧ (spn t e).lockTimer = true ∧
      (spn t e).lanes[i]? = some { l with locked := false, failing := true } ∧
      (∀ d, d ≠ e → spn t d = spn s d) ∧ t = { s with spine := t.spine } := by
  refine ⟨_, congrArg Host.Outcome.next ((if_pos runs).trans (lockLost_used at_ works used)), ?_, ?_, ?_,
    fun d other => spn_updE_ne _ _ _ _ (Ne.symm other), rfl⟩
  · rw [spn_updE_same, beganRetrain, if_pos (by simp [up])]
  · rw [spn_updE_same, beganRetrain, if_pos (by simp [up])]
    simp [up]
  · rw [spn_updE_same, beganRetrain, if_pos (by simp [up])]
    exact (lane_modify at_ _).trans (by simp [up])

theorem lock_lost_spare (spare : l.inUse = false) (up : (spn s e).state = .up) :
    ∃ t, exec (.laneLockLoss e i) s = .next t ∧ (spn t e).state = (spn s e).state ∧
      (spn t e).lanes[i]? = some { l with locked := false, failed := true } ∧
      reported s t .laneSpared .spineEnd e.val ∧ (∀ d, d ≠ e → spn t d = spn s d) ∧ onlyReports s t ∧
      t = { s with spine := t.spine, herd := t.herd } := by
  refine ⟨_, congrArg Host.Outcome.next ((if_pos runs).trans ((lockLost_spare at_ works spare).trans (if_pos (by simp [up])))),
    ?_, ?_, reported_report rfl _, fun d other => spn_updE_ne _ _ _ _ (Ne.symm other), rfl, rfl⟩
  · exact (congrArg SpineEnd.state (spn_updLane s e i _) :)
  · exact (congrArg (fun x => x.lanes[i]?) (spn_updLane s e i _) :).trans (lane_modify at_ _)

theorem failing_used (new : l.failing = false) (many : (spn s e).laneErrMax < l.bips.length) (used : l.inUse = true) :
    ∃ t, exec (.laneFailing e i) s = .next t ∧ (spn t e).retrainAt = some (epochR s (hubAt e) + 1) ∧
      (spn t e).lanes[i]? = some { l with failing := true } ∧ (∀ d, d ≠ e → spn t d = spn s d) ∧
      t = { s with spine := t.spine } := by
  have run : exec (.laneFailing e i) s = .next (updE (updLane s e i (fun l => { l with failing := true })) e
      (fun x => { x with retrainAt := some (epochR s (hubAt e) + 1) })) := by
    show execLaneFailing e i s = _
    unfold execLaneFailing
    dsimp only
    rw [if_pos runs, at_]
    dsimp only
    rw [if_neg (by simp [works, new, many]), if_pos used]
  rw [updLane, updE_updE] at run
  refine ⟨_, run, congrArg SpineEnd.retrainAt (spn_updE_same ..), ?_, fun d other => spn_updE_ne _ _ _ _ (Ne.symm other), rfl⟩
  exact (congrArg (fun x => x.lanes[i]?) (spn_updE_same s e _) :).trans (lane_modify at_ _)

theorem failing_spare (new : l.failing = false) (many : (spn s e).laneErrMax < l.bips.length) (spare : l.inUse = false) :
    ∃ t, exec (.laneFailing e i) s = .next t ∧ (spn t e).lanes[i]? = some { l with failed := true } ∧
      reported s t .laneSpared .spineEnd e.val ∧ (∀ d, d ≠ e → spn t d = spn s d) ∧ onlyReports s t ∧
      t = { s with spine := t.spine, herd := t.herd } := by
  have run : exec (.laneFailing e i) s =
      .next (repSpine (updLane s e i (fun l => { l with failed := true })) e .laneSpared i) := by
    show execLaneFailing e i s = _
    unfold execLaneFailing
    dsimp only
    rw [if_pos runs, at_]
    dsimp only
    rw [if_neg (by simp [works, new, many]), spare, if_neg (by decide)]
  refine ⟨_, run, ?_, reported_report rfl _, fun d other => spn_updE_ne _ _ _ _ (Ne.symm other), rfl, rfl⟩
  exact (congrArg (fun x => x.lanes[i]?) (spn_updLane s e i _) :).trans (lane_modify at_ _)

end Lanes

/-! ### Markers -/

/-- Work at an end beside its lane `i`: the parities stand, a link that is up or trains again stays so, and one that
trains again with the lock-loss timer on stays that. -/
def LaneBeside (e : LinkEnd) (i : Nat) (s t : State) : Prop :=
  linkFrame (· = e) s t ∧ (spn t e).sentPar = (spn s e).sentPar ∧ (spn t e).seenPar = (spn s e).seenPar ∧
    (spn t e).lanes[i]? = (spn s e).lanes[i]? ∧
    ((spn s e).state = .up ∨ (spn s e).state = .retrain → (spn t e).state = .up ∨ (spn t e).state = .retrain) ∧
    ((spn s e).state = .retrain → (spn s e).lockTimer = true → (spn t e).state = .retrain ∧ (spn t e).lockTimer = true)

section Markers
variable {s t u : State} {e : LinkEnd} {i j : Nat}

theorem LaneBeside.trans (first : LaneBeside e i s t) (second : LaneBeside e i t u) : LaneBeside e i s u := by
  obtain ⟨frame, sent, seen, lane, live, timed⟩ := first
  obtain ⟨frame', sent', seen', lane', live', timed'⟩ := second
  refine ⟨frame.trans frame', sent'.trans sent, seen'.trans seen, lane'.trans lane, fun h => live' (live h), fun h h' => ?_⟩
  obtain ⟨again, timer⟩ := timed h h'
  exact timed' again timer

theorem Counts.laneBeside (counts : Counts s t) : LaneBeside e i s t := by
  obtain ⟨same, frame⟩ := counts.endStep (e := e)
  rw [LaneBeside, same]
  exact ⟨frame, rfl, rfl, rfl, id, fun h h' => ⟨h, h'⟩⟩

theorem laneBeside_updLane (s : State) (other : j ≠ i) (f : Lane → Lane) : LaneBeside e i s (updLane s e j f) := by
  obtain ⟨same, frame⟩ := endStep_updE s e (fun x => { x with lanes := x.lanes.modify j f })
  have same : spn (updLane s e j f) e = _ := same
  rw [LaneBeside, same]
  exact ⟨frame, rfl, rfl, lane_modify_ne _ other f, id, fun h h' => ⟨h, h'⟩⟩

theorem laneBeside_lockLost (s : State) (other : j ≠ i) : LaneBeside e i s (lockLost s e j) := by
  have same : LaneBeside e i s s := (Counts.refl s).laneBeside
  cases at_ : (spn s e).lanes[j]? with
  | none => rw [lockLost, at_]; exact same
  | some l =>
    cases works : l.failed with
    | true => rw [lockLost, at_]; dsimp only; rw [if_pos works]; exact same
    | false =>
      cases used : l.inUse with
      | true =>
        obtain ⟨near, frame⟩ := endStep_updE s e (fun x => beganRetrain { x with
          lanes := x.lanes.modify j (fun l => { l with locked := false, failing := l.failing || (spn s e).state == .up })
          lockTimer := x.lockTimer || (spn s e).state == .up || x.state == .retrain })
        rw [lockLost_used at_ works used]
        have lane := lane_modify_ne (spn s e).lanes other
          (fun l => { l with locked := false, failing := l.failing || (spn s e).state == .up })
        by_cases up : (spn s e).state = .up
        · rw [beganRetrain, if_pos (by simp [up])] at near
          rw [LaneBeside, near]
          exact ⟨frame, rfl, rfl, lane, fun _ => .inr rfl, fun again => absurd (up.symm.trans again) (by decide)⟩
        · rw [beganRetrain, if_neg (by simp [up])] at near
          rw [LaneBeside, near]
          exact ⟨frame, rfl, rfl, lane, id, fun again timer => ⟨again, by simp [timer]⟩⟩
      | false =>
        rw [lockLost_spare at_ works used]
        split
        · exact (laneBeside_updLane s other _).trans (counts_report ..).laneBeside
        · exact laneBeside_updLane s other _

theorem laneBeside_laneMarker (s : State) (m : MarkerSeen) (other : j ≠ i) : LaneBeside e i s (laneMarker1 s e m j) := by
  unfold laneMarker1
  dsimp only
  split
  · exact (Counts.refl s).laneBeside
  split
  · refine LaneBeside.trans ?_ (laneBeside_updLane _ other _)
    exact (counts_ite s (Counts.refl s) (counts_bump ..)).laneBeside
  · split
    · exact (laneBeside_updLane s other _).trans (laneBeside_lockLost _ other)
    · exact laneBeside_updLane s other _

theorem laneBeside_foldl {f : State → Nat → State} {l : List Nat} (step : ∀ s j, j ≠ i → LaneBeside e i s (f s j))
    (out : i ∉ l) (s : State) : LaneBeside e i s (l.foldl f s) := by
  induction l generalizing s with
  | nil => exact (Counts.refl s).laneBeside
  | cons j l ih =>
    rw [List.mem_cons, not_or] at out
    exact (step s j (Ne.symm out.1)).trans (ih out.2 _)

variable {l : Lane} {m : MarkerSeen} (at_ : (spn s e).lanes[i]? = some l)
include at_

/-- The numbers of the markers among the last 1,024 that failed, when one more has come. -/
def failedMarkers (l : Lane) (ok : Bool) : List Nat :=
  (l.bips.filter (fun j => decide (l.markers + 1 < j + 1024))) ++ (if ok then [] else [l.markers + 1])

/-- A marker that comes is counted, with its mismatch. -/
theorem marker_counted (w : BitVec 32) (is : w = markerWord e (spn s e) i l ^^^ m.dist) (arrived : m.arrived = true)
    (whole : isMarker w i = true) : linkFrame (· = e) s (laneMarker1 s e m i) ∧
      ∃ b, (spn (laneMarker1 s e m i) e).lanes[i]? = some { l with missed := 0, markers := l.markers + 1, bips := b } ∧
        (∀ j ∈ b, l.markers + 1 < j + 1024) ∧ (bits w 16 8 ≠ bipOf e (spn s e).seenPar l → l.markers + 1 ∈ b) ∧
        (bits w 16 8 = bipOf e (spn s e).seenPar l → ∀ j ∈ b, j ∈ l.bips) := by
  generalize good : (bits w 16 8 == bipOf e (spn s e).seenPar l) = ok
  have goes : laneMarker1 s e m i = updLane (if ok then s else countE s e 10) e i (fun x => { x with
      missed := 0, markers := l.markers + 1
      bips := (x.bips.filter (fun j => decide (l.markers + 1 < j + 1024))) ++ (if ok then [] else [l.markers + 1]) }) := by
    unfold laneMarker1
    dsimp only
    rw [at_]
    dsimp only
    rw [← is, arrived, whole, if_pos (by decide), good]
  have counts : Counts s (if ok then s else countE s e 10) := counts_ite s (.refl s) (counts_bump ..)
  rw [goes]
  generalize (if ok then s else countE s e 10) = c at counts
  obtain ⟨same, frame⟩ := counts.endStep (e := e)
  refine ⟨frame.trans (endStep_updE c e _).2, failedMarkers l ok, ?_, fun j mem => ?_, fun differ => ?_, fun agree j mem => ?_⟩
  · rw [spn_updLane, same]
    exact lane_modify at_ _
  · rcases List.mem_append.mp mem with old | new
    · exact of_decide_eq_true (List.mem_filter.mp old).2
    · cases ok <;> simp_all
  · have bad : ok = false := good.symm.trans (beq_false_of_ne differ)
    simp [failedMarkers, bad]
  · have fine : ok = true := good.symm.trans (by simp [agree])
    rw [failedMarkers, fine, if_pos rfl, List.append_nil] at mem
    exact (List.mem_filter.mp mem).1

/-- A marker that does not come: the lane has missed one more. -/
theorem marker_misses (w : BitVec 32) (is : w = markerWord e (spn s e) i l ^^^ m.dist)
    (lost : m.arrived = false ∨ isMarker w i = false) : laneMarker1 s e m i =
      if l.missed = 1 then lockLost (updLane s e i (fun l => { l with missed := l.missed + 1 })) e i
      else updLane s e i (fun l => { l with missed := l.missed + 1 }) := by
  have gone : (m.arrived && isMarker w i) = false := by
    rcases lost with h | h <;> simp [h]
  unfold laneMarker1
  dsimp only
  rw [at_]
  dsimp only
  rw [← is, gone, if_neg (by decide)]

theorem marker_missed (w : BitVec 32) (is : w = markerWord e (spn s e) i l ^^^ m.dist)
    (lost : m.arrived = false ∨ isMarker w i = false) (first : l.missed = 0) :
    linkFrame (· = e) s (laneMarker1 s e m i) ∧
      (spn (laneMarker1 s e m i) e).lanes[i]? = some { l with missed := 1 } := by
  rw [marker_misses at_ w is lost, if_neg (by omega)]
  refine ⟨(endStep_updE s e _).2, ?_⟩
  rw [spn_updLane]
  exact (lane_modify at_ _).trans (by rw [first])

theorem marker_lost (w : BitVec 32) (is : w = markerWord e (spn s e) i l ^^^ m.dist)
    (lost : m.arrived = false ∨ isMarker w i = false) (second : l.missed = 1) (used : l.inUse = true)
    (works : l.failed = false) (live : (spn s e).state = .up ∨ (spn s e).state = .retrain) :
    linkFrame (· = e) s (laneMarker1 s e m i) ∧ (spn (laneMarker1 s e m i) e).state = .retrain ∧
      (spn (laneMarker1 s e m i) e).lockTimer = true ∧
      ∃ l', (spn (laneMarker1 s e m i) e).lanes[i]? = some l' ∧ l'.locked = false := by
  rw [marker_misses at_ w is lost, if_pos second]
  obtain ⟨near, frame⟩ := endStep_updE s e (fun x => { x with lanes := x.lanes.modify i (fun l => { l with missed := l.missed + 1 }) })
  have near : spn (updLane s e i (fun l => { l with missed := l.missed + 1 })) e = _ := near
  have frame : linkFrame (· = e) s (updLane s e i (fun l => { l with missed := l.missed + 1 })) := frame
  generalize updLane s e i (fun l => { l with missed := l.missed + 1 }) = u at near frame
  have at_ : (spn u e).lanes[i]? = some { l with missed := l.missed + 1 } := by
    rw [near]
    exact lane_modify at_ _
  have state : (spn u e).state = (spn s e).state := by rw [near]
  rw [lockLost_used at_ works used]
  refine ⟨frame.trans (endStep_updE u e _).2, ?_⟩
  have lane := lane_modify at_ (fun x => { x with locked := false, failing := x.failing || (spn u e).state == .up })
  rw [spn_updE_same]
  rcases live with up | again
  · rw [beganRetrain, if_pos (by simp [state, up])]
    exact ⟨rfl, by simp [state, up], _, lane, rfl⟩
  · rw [beganRetrain, if_neg (by simp [state, again])]
    exact ⟨state.trans again, by simp [state, again], _, lane, rfl⟩

end Markers

section Fold
variable {s : State} {e : LinkEnd} {i : Nat}

/-- Every lane's marker slot, and lane `i`'s among them. -/
theorem markers_split (seen : List MarkerSeen) (physical : i < physLanes e) (s : State) : ∃ u,
    LaneBeside e i s u ∧ LaneBeside e i (laneMarker1 u e (seenAt seen i) i)
      ((List.range (physLanes e)).foldl (fun s i => laneMarker1 s e (seenAt seen i) i) s) := by
  obtain ⟨before, after, parts⟩ := List.append_of_mem (List.mem_range.mpr physical)
  have distinct : (before ++ i :: after).Nodup := parts ▸ List.nodup_range
  rw [List.nodup_append] at distinct
  obtain ⟨-, later, apart⟩ := distinct
  rw [parts, List.foldl_append, List.foldl_cons]
  refine ⟨_, laneBeside_foldl (fun s j other => laneBeside_laneMarker s _ other) (fun mem => ?_) s,
    laneBeside_foldl (fun s j other => laneBeside_laneMarker s _ other) (List.nodup_cons.mp later).1 _⟩
  exact apart i mem i List.mem_cons_self rfl

theorem markerWord_congr {x y : SpineEnd} (l : Lane) (sent : x.sentPar = y.sentPar) :
    markerWord e x i l = markerWord e y i l := by
  rw [markerWord, markerWord, sent]

variable {l : Lane} (runs : endRuns s e = true) (at_ : (spn s e).lanes[i]? = some l) (works : l.failed = false)
include runs at_ works

theorem laneMarker_does {seen : List MarkerSeen} {w : BitVec 32} (up : (spn s e).state = .up)
    (full : markerSlots ≤ (spn s e).slots) (clear : (spn s e).lanesIn = []) (physical : i < physLanes e)
    (is : w = markerWord e (spn s e) i l ^^^ (seenAt seen i).dist) :
    ∃ t, exec (.laneMarker e seen) s = .next t ∧ (spn t e).slots = 0 ∧ (spn t e).sentPar = 0 ∧ (spn t e).seenPar = 0 ∧
      ((seenAt seen i).arrived = true → isMarker w i = true →
        ∃ b, (spn t e).lanes[i]? = some { l with missed := 0, markers := l.markers + 1, bips := b } ∧
          (∀ j ∈ b, l.markers + 1 < j + 1024) ∧
          (bits w 16 8 ≠ bipOf e (spn s e).seenPar l → l.markers + 1 ∈ b) ∧
          (bits w 16 8 = bipOf e (spn s e).seenPar l → ∀ j ∈ b, j ∈ l.bips)) ∧
      ((seenAt seen i).arrived = false ∨ isMarker w i = false → l.missed = 0 →
        (spn t e).lanes[i]? = some { l with missed := 1 }) ∧
      ((seenAt seen i).arrived = false ∨ isMarker w i = false → l.missed = 1 → l.inUse = true →
        (spn t e).state = .retrain ∧ (spn t e).lockTimer = true ∧
        ∃ l', (spn t e).lanes[i]? = some l' ∧ l'.locked = false) ∧ linkFrame (· = e) s t := by
  have run : exec (.laneMarker e seen) s = .next (updE
      ((List.range (physLanes e)).foldl (fun s i => laneMarker1 s e (seenAt seen i) i) s) e
      (fun x => { x with slots := 0, sentPar := 0, seenPar := 0 })) :=
    congrArg Host.Outcome.next (if_pos (by simp [runs, up, full, clear]))
  obtain ⟨u, ⟨frame, sent, seenPar, lane, live, -⟩, after⟩ := markers_split (e := e) seen physical s
  generalize (List.range (physLanes e)).foldl (fun s i => laneMarker1 s e (seenAt seen i) i) s = v at run after
  obtain ⟨near, last⟩ := endStep_updE v e (fun x => { x with slots := 0, sentPar := 0, seenPar := 0 })
  have at_ : (spn u e).lanes[i]? = some l := lane.trans at_
  have live := live (.inl up)
  rw [← markerWord_congr (e := e) (i := i) l sent] at is
  obtain ⟨frame', -, -, lane', -, timed⟩ := after
  have mid : linkFrame (· = e) u (laneMarker1 u e (seenAt seen i) i) :=
    (laneBeside_laneMarker (i := i + 1) u _ (by omega)).1
  refine ⟨_, run, congrArg SpineEnd.slots near, congrArg SpineEnd.sentPar near, congrArg SpineEnd.seenPar near,
    fun arrived whole => ?_, fun lost first => ?_, fun lost second used => ?_, ((frame.trans mid).trans frame').trans last⟩
  · obtain ⟨-, b, counted, recent, bad, fine⟩ := marker_counted at_ w is arrived whole
    rw [seenPar] at bad fine
    exact ⟨b, (congrArg (fun x => x.lanes[i]?) near).trans (lane'.trans counted), recent, bad, fine⟩
  · obtain ⟨-, missed⟩ := marker_missed at_ w is lost first
    exact (congrArg (fun x => x.lanes[i]?) near).trans (lane'.trans missed)
  · obtain ⟨-, again, timer, l', is', unlocked⟩ := marker_lost at_ w is lost second used works live
    obtain ⟨again, timer⟩ := timed again timer
    exact ⟨(congrArg SpineEnd.state near).trans again, (congrArg SpineEnd.lockTimer near).trans timer, l',
      (congrArg (fun x => x.lanes[i]?) near).trans (lane'.trans is'), unlocked⟩

end Fold

/-- Settles O36. -/
theorem laneFaults : Obligations.LaneFaults := by
  intro s e i l runs at_ works
  refine ⟨lock_lost_used runs at_ works, fun spare down => ?_, lock_lost_spare runs at_ works, failing_used runs at_ works,
    failing_spare runs at_ works, fun seen w => laneMarker_does runs at_ works⟩
  exact congrArg Host.Outcome.next ((if_pos runs).trans ((lockLost_spare at_ works spare).trans (if_neg (by simp [down]))))

end Sys2Proof.Proofs

/-! ## Training, retraining and links declared down (R266–R272): O37. -/

namespace Sys2Proof.Proofs
open Sys2Proof.Machine Sys2Proof.Safety

/-- Work at link ends of `which`, with events and the SPINE_UP vector of the Herdsman. -/
def LinkWork (which : LinkEnd → Prop) (s t : State) : Prop :=
  (∃ sp up evs, t = { s with
    spine := sp, herd := { s.herd with spineUp := up, reports := s.herd.reports ++ evs } }) ∧
  ∀ d, ¬which d → spn t d = spn s d

section Work
variable {which : LinkEnd → Prop} {s t u : State}

theorem LinkWork.trans (first : LinkWork which s t) (second : LinkWork which t u) : LinkWork which s u := by
  obtain ⟨⟨sp, up, evs, rfl⟩, others⟩ := first
  obtain ⟨⟨sp', up', evs', rfl⟩, others'⟩ := second
  exact ⟨⟨sp', up', evs ++ evs', by rw [← List.append_assoc]⟩, fun d out => (others' d out).trans (others d out)⟩

theorem linkWork_report (s : State) (ev : Event) : LinkWork which s (report s ev) := ⟨⟨_, _, [ev], rfl⟩, fun _ _ => rfl⟩

theorem LinkWork.refl (s : State) : LinkWork which s s := ⟨⟨_, _, [], by rw [List.append_nil]⟩, fun _ _ => rfl⟩

theorem linkWork_updE (s : State) {e : LinkEnd} (mine : which e) (f : SpineEnd → SpineEnd) : LinkWork which s (updE s e f) :=
  ⟨⟨_, _, [], by rw [List.append_nil]; rfl⟩, fun _ out => spn_updE_ne _ _ _ _ fun same => out (same ▸ mine)⟩

theorem linkWork_foldl {β : Type} {f : State → β → State} {l : List β} (step : ∀ s x, LinkWork which s (f s x)) (s : State) :
    LinkWork which s (l.foldl f s) := by
  induction l generalizing s with
  | nil => exact .refl s
  | cons x l ih => exact (step s x).trans (ih _)

theorem LinkWork.tells (work : LinkWork which s t) : Tells s t := by
  obtain ⟨⟨sp, up, evs, rfl⟩, -⟩ := work
  exact ⟨evs, rfl⟩

theorem LinkWork.frame (work : LinkWork which s t) : t = { s with spine := t.spine, herd := t.herd } ∧
    t.herd = { s.herd with spineUp := t.herd.spineUp, reports := t.herd.reports } := by
  obtain ⟨⟨sp, up, evs, rfl⟩, -⟩ := work
  exact ⟨rfl, rfl⟩

theorem LinkWork.routers (work : LinkWork which s t) : t.routers = s.routers ∧ t.epochs = s.epochs := by
  obtain ⟨⟨sp, up, evs, rfl⟩, -⟩ := work
  exact ⟨rfl, rfl⟩

end Work

/-- The end that trains, or the far end whose direction starts again with it. -/
def eitherEnd (e d : LinkEnd) : Prop := d = e ∨ d = farEnd e

section Reports
variable {which : LinkEnd → Prop} (s : State) (e : LinkEnd)

theorem spared_told (bad : List Nat) : LinkWork which s (bad.foldl (fun s i => repSpine s e .laneSpared i) s) ∧
    (bad.foldl (fun s i => repSpine s e .laneSpared i) s).spine = s.spine ∧
    (bad.foldl (fun s i => repSpine s e .laneSpared i) s).herd.spineUp = s.herd.spineUp := by
  refine ⟨linkWork_foldl (fun u _ => linkWork_report ..) s, ?_⟩
  induction bad generalizing s with
  | nil => exact ⟨rfl, rfl⟩
  | cons i bad ih => exact ih _

/-- Reporting a mapping leaves the ends as they are, but for the note that the spares are used up. -/
theorem reportLanes_tells (mine : which e) (gone : List Nat) (kept : Option Nat) :
    LinkWork which s (reportLanes s e gone kept) ∧ (∃ b, spn (reportLanes s e gone kept) e = { spn s e with spareNoted := b }) ∧
    (∀ d, d ≠ e → spn (reportLanes s e gone kept) d = spn s d) ∧
    (reportLanes s e gone kept).herd.spineUp = s.herd.spineUp := by
  unfold reportLanes
  extract_lets u
  obtain ⟨told, same, vector⟩ := spared_told (which := which) s e gone
  have told : LinkWork which s u := told
  have vector : u.herd.spineUp = s.herd.spineUp := vector
  have node (d : LinkEnd) : spn u d = spn s d := congrArg (fun v => tget v d) same
  split
  · split
    · exact ⟨told, ⟨_, node e⟩, fun d _ => node d, vector⟩
    · refine ⟨(told.trans (linkWork_updE u mine _)).trans (linkWork_report ..), ⟨true, ?_⟩, fun d other => ?_, vector⟩
      · exact (spn_updE_same u e _).trans (by rw [node])
      · exact (spn_updE_ne _ _ _ _ (Ne.symm other)).trans (node d)
  · exact ⟨told, ⟨_, node e⟩, fun d _ => node d, vector⟩

end Reports

section Train
variable {s : State} {e : LinkEnd} (runs : endRuns s e = true)
include runs

/-! ### Attempts that fail -/

/-- An end whose training has failed. -/
def failedTraining (epoch : Nat) (x : SpineEnd) : SpineEnd := { x with state := .down, lastTry := epoch, attempting := false }

omit runs in
theorem trainFails_down (training : (spn s e).state = .train) :
    trainFails s e = repLink (updE s e (failedTraining (epochR s (hubAt e)))) e .linkDown :=
  if_pos (by simp [training])

theorem training_miswired {seen : List LaneTrain} {far : FarEnd} (training : (spn s e).state = .train)
    (en : (spn s e).en = true) (free : (spn s e).withhold = false) (wrong : far.link.toNat ≠ endLink e) :
    ∃ t, exec (.linkTrainingComplete e seen far) s = .next t ∧ (spn t e).state = .down ∧
      reported s t .linkMiswired .spineEnd e.val ∧ (∀ d, d ≠ e → spn t d = spn s d) ∧ onlyReports s t ∧
      t = { s with spine := t.spine, herd := t.herd } := by
  have run : ∃ detail, exec (.linkTrainingComplete e seen far) s =
      .next (trainFails (repSpine s e .linkMiswired detail) e) := by
    apply Exists.intro
    show execLinkTrainingComplete e seen far s = _
    unfold execLinkTrainingComplete
    dsimp only
    rw [if_neg (by simp [runs, en, free, training]), if_pos (by simp [wrong])]
  obtain ⟨detail, run⟩ := run
  rw [trainFails_down (s := repSpine s e .linkMiswired detail) training] at run
  have told := reported_report (s := s) rfl (mkEvent .linkMiswired .spineEnd e.val (secBit (sectorOf (hubOf (endQuad e))))
    (epochR s (hubOf (endQuad e))) (BitVec.ofNat 32 detail) 0)
  refine ⟨_, run, ?_, reported_then told ⟨[_], rfl⟩, fun d other => spn_updE_ne _ _ _ _ (Ne.symm other), rfl, rfl⟩
  exact (congrArg SpineEnd.state (spn_updE_same (repSpine s e .linkMiswired detail) e _) :)

theorem training_timesOut (training : (spn s e).state = .train) :
    ∃ t, exec (.linkTrainingTimeout e) s = .next t ∧ (spn t e).state = .down ∧
      (spn t e).lastTry = epochR s (hubAt e) ∧ reported s t .linkDown .spineEnd e.val ∧
      (∀ d, d ≠ e → spn t d = spn s d) ∧ onlyReports s t ∧ t = { s with spine := t.spine, herd := t.herd } := by
  refine ⟨_, congrArg Host.Outcome.next ((if_pos (by simp [runs, training])).trans (trainFails_down training)), ?_, ?_,
    reported_report rfl _, fun d other => spn_updE_ne _ _ _ _ (Ne.symm other), rfl, rfl⟩
  · exact (congrArg SpineEnd.state (spn_updE_same s e _) :)
  · exact (congrArg SpineEnd.lastTry (spn_updE_same s e _) :)

/-! ### A full training -/

/-- A transmitter that starts afresh. -/
def freshSent (far : SpineEnd) (now : Nat) (x : SpineEnd) : SpineEnd :=
  { x with
    n := 0, o := 0, pail := [], replay := none, fruitless := 0, lastProgress := now
    credit := if x.state == .train then spineDepth else tabOf (freeCells far), outstanding := tabAll 16 []
    farCount := tabAll 16 0, farPoolOff := false, pailBad := none }

omit runs in
theorem freshTx_eq (s : State) (e : LinkEnd) (now : Nat) :
    freshTx s e now = updE (updE s e (freshSent (spn s (farEnd e)) now)) (farEnd e) rxFresh := rfl

omit runs in
/-- An end that comes up keeps its transmitter, whether its receiver starts afresh or not. -/
theorem toUp_fresh (kept : Bool) (x : SpineEnd) (lanes : List Lane) :
    (toUp (if kept then x else rxFresh x) lanes).n = x.n ∧ (toUp (if kept then x else rxFresh x) lanes).o = x.o ∧
    (toUp (if kept then x else rxFresh x) lanes).pail = x.pail ∧
    (toUp (if kept then x else rxFresh x) lanes).credit = x.credit ∧
    (toUp (if kept then x else rxFresh x) lanes).farPoolOff = x.farPoolOff := by
  cases kept <;> exact ⟨rfl, rfl, rfl, rfl, rfl⟩

/-- What a full training does when the mapping is reported. -/
def trainedUp (s : State) (e : LinkEnd) (lanes : List Lane) (now : Nat) : State :=
  let s := freshTx s e now
  let s := if (spn s (farEnd e)).state == .up then s else updE s e rxFresh
  relayUp (repLink (updE s e (fun x => toUp x lanes)) e .linkUp) e

omit runs in
theorem relayUp_work (which : LinkEnd → Prop) (s : State) (e : LinkEnd) :
    LinkWork which s (relayUp s e) ∧ (relayUp s e).spine = s.spine := by
  unfold relayUp
  dsimp only
  split
  · exact ⟨⟨⟨_, _, [], by rw [List.append_nil]; rfl⟩, fun _ _ => rfl⟩, rfl⟩
  · exact ⟨.refl s, rfl⟩

omit runs in
theorem trainedUp_ends (s : State) (e : LinkEnd) (lanes : List Lane) (now : Nat) :
    LinkWork (eitherEnd e) s (trainedUp s e lanes now) ∧ reported s (trainedUp s e lanes now) .linkUp .spineEnd e.val ∧
    spn (trainedUp s e lanes now) e = toUp (if (spn s (farEnd e)).state == .up
      then freshSent (spn s (farEnd e)) now (spn s e) else rxFresh (freshSent (spn s (farEnd e)) now (spn s e))) lanes ∧
    spn (trainedUp s e lanes now) (farEnd e) = rxFresh (spn s (farEnd e)) := by
  unfold trainedUp
  extract_lets u v
  have far : spn u (farEnd e) = rxFresh (spn s (farEnd e)) := by
    simp only [u]
    rw [freshTx_eq, spn_updE_same, spn_updE_ne _ _ _ _ (Ne.symm (farEnd_ne e))]
  have near : spn u e = freshSent (spn s (farEnd e)) now (spn s e) := by
    simp only [u]
    rw [freshTx_eq, spn_updE_ne _ _ _ _ (farEnd_ne e), spn_updE_same]
  have state : (spn u (farEnd e)).state = (spn s (farEnd e)).state := by
    rw [far]
    rfl
  have work : LinkWork (eitherEnd e) s u :=
    (linkWork_updE s (.inl rfl) _).trans (linkWork_updE _ (.inr rfl) _)
  have work' : LinkWork (eitherEnd e) u v := by
    simp only [v]
    split
    · exact .refl u
    · exact linkWork_updE u (.inl rfl) _
  have near' : spn v e = if (spn s (farEnd e)).state == .up
      then freshSent (spn s (farEnd e)) now (spn s e) else rxFresh (freshSent (spn s (farEnd e)) now (spn s e)) := by
    simp only [v]
    rw [state]
    split
    · exact near
    · rw [spn_updE_same, near]
  have far' : spn v (farEnd e) = rxFresh (spn s (farEnd e)) := by
    simp only [v]
    split
    · exact far
    · rw [spn_updE_ne _ _ _ _ (Ne.symm (farEnd_ne e)), far]
  have told := reported_of_tells ((work.trans work').trans (linkWork_updE v (.inl rfl) (fun x => toUp x lanes))).tells
    (mkEvent .linkUp .spineEnd e.val (secBit (sectorOf (hubOf (endQuad e)))) (epochR v (hubOf (endQuad e)))
      (BitVec.ofNat 32 0) (BitVec.ofNat 128 (linkStatus (spn (updE v e (fun x => toUp x lanes)) e)).toNat))
  obtain ⟨relay, same⟩ := relayUp_work (eitherEnd e) (repLink (updE v e (fun x => toUp x lanes)) e .linkUp) e
  have node (d : LinkEnd) : spn (relayUp (repLink (updE v e (fun x => toUp x lanes)) e .linkUp) e) d =
      spn (updE v e (fun x => toUp x lanes)) d := congrArg (fun w => tget w d) same
  refine ⟨(((work.trans work').trans (linkWork_updE v (.inl rfl) _)).trans (linkWork_report _ _)).trans relay,
    reported_then told relay.tells, ?_, ?_⟩
  · rw [node, spn_updE_same, near']
  · rw [node, spn_updE_ne _ _ _ _ (Ne.symm (farEnd_ne e)), far']

theorem training_completes {seen : List LaneTrain} {far : FarEnd} {lanes : List Lane} {gone : List Nat}
    {kept : Option Nat} (training : (spn s e).state = .train) (en : (spn s e).en = true)
    (free : (spn s e).withhold = false) (fresh : (spn s e).downEpoch = none) (link : far.link.toNat = endLink e)
    (x : far.hubX.toNat = rx (hubAt (farEnd e))) (y : far.hubY.toNat = ry (hubAt (farEnd e)))
    (maps : mapLanes e ((spn s e).lanes.zipIdx.map (fun p =>
      { p.1 with failed := !(seen.any (fun t => t.lane == p.2 && t.good)) })) = some (lanes, gone, kept)) :
    ∃ t, exec (.linkTrainingComplete e seen far) s = .next t ∧ (spn t e).state = .up ∧ (spn t e).lanes = lanes ∧
      (spn t e).n = 0 ∧ (spn t e).o = 0 ∧ (spn t e).pail = [] ∧ (spn t e).credit = spineDepth ∧
      (spn t e).farPoolOff = false ∧ (spn t e).firstLink = true ∧
      spn t (farEnd e) = rxFresh (spn s (farEnd e)) ∧
      ((spn s (farEnd e)).state ≠ .up → (spn t e).e = 0 ∧ (spn t e).poolOff = false ∧ (spn t e).lanesIn = []) ∧
      reported s t .linkUp .spineEnd e.val ∧ (∀ d, d ≠ e → d ≠ farEnd e → spn t d = spn s d) ∧
      t = { s with spine := t.spine, herd := t.herd } ∧
      t.herd = { s.herd with spineUp := t.herd.spineUp, reports := t.herd.reports } := by
  obtain ⟨bad, run⟩ : ∃ bad : List Nat, exec (.linkTrainingComplete e seen far) s = .next (trainedUp
      (reportLanes (bad.foldl (fun s i => repSpine s e .laneSpared i) s) e gone kept) e lanes (timeE s e 0)) := by
    apply Exists.intro
    show execLinkTrainingComplete e seen far s = _
    unfold execLinkTrainingComplete
    dsimp only
    rw [if_neg (by simp [runs, en, free, training]), if_neg (by simp [link, x, y]), maps, fresh]
    rfl
  obtain ⟨spared, same, -⟩ := spared_told (which := eitherEnd e) s e bad
  generalize bad.foldl (fun s i => repSpine s e .laneSpared i) s = u at run spared same
  have node (d : LinkEnd) : spn u d = spn s d := congrArg (fun v => tget v d) same
  obtain ⟨told, ⟨b, own⟩, others, -⟩ := reportLanes_tells (which := eitherEnd e) u e (.inl rfl) gone kept
  have work := spared.trans told
  rw [node] at own
  have far_ : spn (reportLanes u e gone kept) (farEnd e) = spn s (farEnd e) :=
    (others _ (farEnd_ne e)).trans (node _)
  generalize reportLanes u e gone kept = v at run work own far_
  obtain ⟨up, linkUp, near, away⟩ := trainedUp_ends v e lanes (timeE s e 0)
  have ends := work.trans up
  have sent : (freshSent (spn v (farEnd e)) (timeE s e 0) (spn v e)).credit = spineDepth := by
    refine if_pos ?_
    rw [own]
    simp [training]
  obtain ⟨n, o, pail, credit, pool⟩ := toUp_fresh ((spn v (farEnd e)).state == .up)
    (freshSent (spn v (farEnd e)) (timeE s e 0) (spn v e)) lanes
  rw [← near] at n o pail credit pool
  refine ⟨_, run, (congrArg SpineEnd.state near).trans rfl, (congrArg SpineEnd.lanes near).trans rfl, n, o, pail,
    credit.trans sent, pool, (congrArg SpineEnd.firstLink near).trans rfl, away.trans (by rw [far_]), fun down => ?_,
    work.tells.reported linkUp, fun d near far => ends.2 d (by simp [eitherEnd, near, far]), ends.frame.1, ends.frame.2⟩
  rw [near, far_, if_neg (by simpa using down)]
  exact ⟨rfl, rfl, rfl⟩

/-! ### A retrain -/

omit runs in
/-- What R270 makes of the transmitter: it goes on from what the far receiver holds. -/
theorem resume270_ends (s : State) (e : LinkEnd) (now : Nat) : LinkWork (eitherEnd e) s (resume270 s e now) ∧
    spn (resume270 s e now) (farEnd e) = rxTrained (spn s (farEnd e)) ∧
    (spn (resume270 s e now) e).n = (spn s e).n ∧ (spn (resume270 s e now) e).e = (spn s e).e ∧
    (spn (resume270 s e now) e).replay =
      (if (spn s (farEnd e)).e = (spn s e).n then none else some (spn s (farEnd e)).e) ∧
    ∀ v, tget (spn (resume270 s e now) e).credit v =
      freeCells (spn s (farEnd e)) v - unaccepted s e (some (spn s (farEnd e)).e) v := by
  unfold resume270
  extract_lets far f all unsent credits u
  have near : spn (updE u (farEnd e) rxTrained) e = spn u e := spn_updE_ne _ _ _ _ (farEnd_ne e)
  have is : ∃ x, spn u e = x ∧ x.n = (spn s e).n ∧ x.e = (spn s e).e ∧ x.replay = (if f = (spn s e).n then none else some f) ∧
      ∀ v, tget x.credit v = freeCells far v - all v := by
    have released (x : SpineEnd) : ∀ y, y = (if (f - x.o).toNat ≤ (x.n - x.o).toNat then releaseBefore x f now else x) →
        y.n = x.n ∧ y.e = x.e := by
      intro y is
      split at is
      · obtain ⟨base, -, -⟩ := releaseBefore_keeps x now f
        subst is
        exact ⟨congrArg (fun p => p.2.1) base, congrArg (fun p => p.2.2.1) base⟩
      · subst is
        exact ⟨rfl, rfl⟩
    obtain ⟨n, seq⟩ := released (spn s e) _ rfl
    refine ⟨_, spn_updE_same s e _, n, seq, ?_, fun v => tget_tabOf credits v⟩
    exact congrArg (fun m => if f = m then none else some f) n
  obtain ⟨x, is, n, seq, replay, credit⟩ := is
  refine ⟨(linkWork_updE s (.inl rfl) _).trans (linkWork_updE _ (.inr rfl) _), ?_, ?_, ?_, ?_, fun v => ?_⟩
  · rw [spn_updE_same]
    exact congrArg rxTrained (spn_updE_ne _ _ _ _ (Ne.symm (farEnd_ne e)))
  · rw [near, is, n]
  · rw [near, is, seq]
  · rw [near, is, replay]
  · rw [near, is, credit]

omit runs in
theorem unaccepted_congr {s t : State} {e : LinkEnd} (f : Option (BitVec 12)) (v : SvcId) {b : Bool}
    (own : spn t e = { spn s e with spareNoted := b }) (routers : t.routers = s.routers) :
    unaccepted t e f v = unaccepted s e f v := by
  simp only [unaccepted, own, outOf, rtr, routers]

theorem retrain_completes {seen : List LaneTrain} {lanes : List Lane} {gone : List Nat} {kept : Option Nat}
    (again : (spn s e).state = .retrain) (maps : mapLanes e (retrainLanes (spn s e).lanes seen) = some (lanes, gone, kept)) :
    ∃ t, exec (.linkRetrainComplete e seen) s = .next t ∧ (spn t e).state = .up ∧ (spn t e).lanes = lanes ∧
      (spn t e).n = (spn s e).n ∧ (spn t e).e = (spn s e).e ∧ (spn t e).firstLink = true ∧
      (spn t e).replay = (if (spn s (farEnd e)).e = (spn s e).n then none else some (spn s (farEnd e)).e) ∧
      (∀ v, tget (spn t e).credit v =
        freeCells (spn s (farEnd e)) v - unaccepted s e (some (spn s (farEnd e)).e) v) ∧
      spn t (farEnd e) = rxTrained (spn s (farEnd e)) ∧ reported s t .linkRetrain .spineEnd e.val ∧
      (∀ d, d ≠ e → d ≠ farEnd e → spn t d = spn s d) ∧ onlyReports s t ∧
        t = { s with spine := t.spine, herd := t.herd } := by
  obtain ⟨bad, now, run⟩ : ∃ (bad : List Nat) (now : Nat), exec (.linkRetrainComplete e seen) s = .next (repLink
      (updE (resume270 (reportLanes (bad.foldl (fun s i => repSpine s e .laneSpared i) s) e gone kept) e now) e
        (fun x => toUp x lanes)) e .linkRetrain) := by
    apply Exists.intro
    apply Exists.intro
    show execLinkRetrainComplete e seen s = _
    unfold execLinkRetrainComplete
    dsimp only
    rw [if_pos (by simp [runs, again]), maps]
  obtain ⟨spared, same, vector⟩ := spared_told (which := eitherEnd e) s e bad
  generalize bad.foldl (fun s i => repSpine s e .laneSpared i) s = u at run spared same vector
  have node (d : LinkEnd) : spn u d = spn s d := congrArg (fun v => tget v d) same
  obtain ⟨told, ⟨b, own⟩, others, vector'⟩ := reportLanes_tells (which := eitherEnd e) u e (.inl rfl) gone kept
  have work := spared.trans told
  rw [node] at own
  have far_ : spn (reportLanes u e gone kept) (farEnd e) = spn s (farEnd e) :=
    (others _ (farEnd_ne e)).trans (node _)
  generalize reportLanes u e gone kept = v at run work own far_ vector'
  have lit : (resume270 v e now).herd.spineUp = s.herd.spineUp := vector'.trans vector
  obtain ⟨resumed, away, n, seq, replay, credit⟩ := resume270_ends v e now
  rw [far_, own] at replay
  rw [far_] at away credit
  rw [own] at n seq
  generalize resume270 v e now = w at run resumed away n seq replay credit lit
  have ends := (work.trans resumed).trans (linkWork_updE w (.inl rfl) (fun x => toUp x lanes))
  have near : spn (updE w e (fun x => toUp x lanes)) e = toUp (spn w e) lanes := spn_updE_same ..
  have told := reported_of_tells ends.tells (mkEvent .linkRetrain .spineEnd e.val (secBit (sectorOf (hubOf (endQuad e))))
    (epochR (updE w e (fun x => toUp x lanes)) (hubOf (endQuad e))) (BitVec.ofNat 32 0)
    (BitVec.ofNat 128 (linkStatus (spn (updE w e (fun x => toUp x lanes)) e)).toNat))
  have last := ends.trans (linkWork_report (updE w e (fun x => toUp x lanes)) (mkEvent .linkRetrain .spineEnd e.val
    (secBit (sectorOf (hubOf (endQuad e)))) (epochR (updE w e (fun x => toUp x lanes)) (hubOf (endQuad e)))
    (BitVec.ofNat 32 0) (BitVec.ofNat 128 (linkStatus (spn (updE w e (fun x => toUp x lanes)) e)).toNat)))
  refine ⟨_, run, congrArg SpineEnd.state near, congrArg SpineEnd.lanes near, (congrArg SpineEnd.n near).trans n,
    (congrArg SpineEnd.e near).trans seq, congrArg SpineEnd.firstLink near, (congrArg SpineEnd.replay near).trans replay,
    fun c => (congrArg (fun x => tget x.credit c) near).trans ((credit c).trans ?_), ?_, told,
    fun d near far => last.2 d (by simp [eitherEnd, near, far]), ?_, last.frame.1⟩
  · rw [unaccepted_congr _ c own work.routers.1]
  · exact (spn_updE_ne _ _ _ _ (Ne.symm (farEnd_ne e))).trans away
  · exact last.frame.2.trans (congrArg (fun up => ({ s.herd with spineUp := up, reports := _ } : Herd)) lit)

end Train

/-! ### A link declared down (R272) -/

theorem linkOf_of_mem {e : LinkEnd} {l : LinkId} (mem : e ∈ bothEnds l) : linkOf e = l := by
  revert e l; decide

theorem bothEnds_hubs (l : LinkId) {d : LinkEnd} (mem : d ∈ bothEnds l) :
    d ∈ [endIn l.val (linkQuads l.val).1, endIn l.val (linkQuads l.val).2] := by
  revert d l; decide

/-- An end of a link declared down. -/
def downAt (epoch : Nat) (x : SpineEnd) : SpineEnd :=
  { x with
    state := .down, downEpoch := some epoch, lastTry := epoch, lanesIn := [], lockTimer := false, attempting := false
    stopping := false }

/-- A link's bit in a SPINE_UP vector, cleared. -/
def unlit (l : LinkId) (v : BitVec 6) : BitVec 6 := setField v l.val 1 0

theorem getLsbD_unlit (l : LinkId) (v : BitVec 6) : (unlit l v).getLsbD l.val = false :=
  (getLsbD_setField ..).trans ((if_pos (by omega)).trans (by simp))

section Vector
variable (s : State) (l : LinkId)

theorem setSpineUp_down : setSpineUp s l false true = [endIn l.val (linkQuads l.val).1, endIn l.val (linkQuads l.val).2].foldl
    (fun s e => updR s (hubAt e) (fun x => { x with spineUp := unlit l x.spineUp }))
    (updHerd s (fun h => { h with spineUp := unlit l h.spineUp })) := rfl

theorem setSpineUp_frame : ∃ ro, setSpineUp s l false true = { s with
      routers := ro, herd := { s.herd with spineUp := unlit l s.herd.spineUp } } ∧
    ∀ d ∈ bothEnds l, (tget ro (hubAt d)).spineUp.getLsbD l.val = false := by
  refine ⟨_, setSpineUp_down s l, fun d mem => ?_⟩
  have unlit_ (u : State) (a b : LinkEnd) (mem : d = a ∨ d = b) :
      (rtr (updR (updR u (hubAt a) (fun x => { x with spineUp := unlit l x.spineUp })) (hubAt b)
        (fun x => { x with spineUp := unlit l x.spineUp })) (hubAt d)).spineUp.getLsbD l.val = false := by
    rw [rtr_updR]
    split
    · exact getLsbD_unlit ..
    · next away =>
      rw [rtr_updR, if_pos]
      · exact getLsbD_unlit ..
      · rcases mem with rfl | rfl
        · rfl
        · exact absurd rfl away
  exact unlit_ _ _ _ (by simpa using bothEnds_hubs l mem)

/-- Two ends that read DOWN, one after the other, each with its event. -/
theorem twoEnds_down (a b : LinkEnd) (apart : a ≠ b) {t : State} (down : repLink (updE (repLink (updE s a
      (downAt (epochR s (hubAt a)))) a .linkDown) b (downAt (epochR s (hubAt b)))) b .linkDown = t) :
    (∀ d, d = a ∨ d = b → spn t d = downAt (epochR s (hubAt d)) (spn s d) ∧ reported s t .linkDown .spineEnd d.val) ∧
    LinkWork (fun d => d = a ∨ d = b) s t ∧ t.herd.spineUp = s.herd.spineUp := by
  subst down
  have first := reported_report (s := s) (u := updE s a (downAt (epochR s (hubAt a)))) rfl
    (mkEvent .linkDown .spineEnd a.val (secBit (sectorOf (hubOf (endQuad a))))
      (epochR s (hubOf (endQuad a))) (BitVec.ofNat 32 0)
      (BitVec.ofNat 128 (linkStatus (spn (updE s a (downAt (epochR s (hubAt a)))) a)).toNat))
  refine ⟨fun d mem => ?_, ((linkWork_updE s (.inl rfl) _).trans (linkWork_report ..)).trans
    ((linkWork_updE _ (.inr rfl) _).trans (linkWork_report ..)), rfl⟩
  · rcases mem with rfl | rfl
    · refine ⟨?_, reported_then first ⟨[_], rfl⟩⟩
      exact (spn_updE_ne _ _ _ _ apart.symm).trans (spn_updE_same s d _)
    · refine ⟨?_, reported_of_tells ⟨[_], rfl⟩ _⟩
      refine (spn_updE_same _ d _).trans (congrArg _ ?_)
      exact spn_updE_ne _ _ _ _ apart

/-- What declaring a link down does. -/
theorem declareDown_downs {t : State} (down : declareDown s l = t) : t.herd.spineUp.getLsbD l.val = false ∧
    (∀ d ∈ bothEnds l, (spn t d).state = .down ∧ (spn t d).downEpoch = some (epochR s (hubAt d)) ∧
      (spn t d).pail = (spn s d).pail ∧ (rtr t (hubAt d)).spineUp.getLsbD l.val = false ∧
      reported s t .linkDown .spineEnd d.val) ∧
    (∀ d, d ∉ bothEnds l → spn t d = spn s d) ∧
    t = { s with routers := t.routers, spine := t.spine, herd := t.herd } ∧
    t.herd = { s.herd with spineUp := t.herd.spineUp, reports := t.herd.reports } := by
  obtain ⟨ro, lit, hubs⟩ := setSpineUp_frame s l
  unfold declareDown at down
  rw [lit] at down
  have apart : (Fin.ofNat 12 (2 * l.val) : LinkEnd) ≠ Fin.ofNat 12 (2 * l.val + 1) := by
    simpa [bothEnds] using bothEnds_nodup l
  obtain ⟨ends, work, unlit_⟩ := twoEnds_down
    { s with routers := ro, herd := { s.herd with spineUp := unlit l s.herd.spineUp } } _ _ apart down
  obtain ⟨frame, herd⟩ := work.frame
  have routers : t.routers = ro := work.routers.1
  refine ⟨by rw [unlit_]; exact getLsbD_unlit .., fun d mem => ?_, fun d out => ?_, ?_, herd⟩
  · obtain ⟨is, told⟩ := ends d (by simpa [bothEnds] using mem)
    refine ⟨(congrArg SpineEnd.state is).trans rfl, (congrArg SpineEnd.downEpoch is).trans rfl,
      (congrArg SpineEnd.pail is).trans rfl, ?_, told⟩
    rw [rtr, routers]
    exact hubs d mem
  · exact work.2 d (by simpa [bothEnds] using out)
  · rw [routers]
    exact frame

end Vector

/-- Settles O37. -/
theorem trainingAndDown : Obligations.TrainingAndDown := by
  refine ⟨fun s e runs => ⟨fun seen far lanes gone kept => training_completes runs, fun seen far => training_miswired runs,
    training_timesOut runs, fun seen lanes gone kept => retrain_completes runs, fun again few => ?_,
    fun en off far => ?_, fun en up far => ?_⟩, fun s l i which => ?_⟩
  · exact congrArg Host.Outcome.next ((if_pos (by simp [runs, again])).trans (if_neg (by omega)))
  · show execTrainingPatternsSeen e s = _
    simp [execTrainingPatternsSeen, runs, en, off, far]
  · have run : exec (.trainingPatternsSeen e) s = .next (updE s e beganRetrain) := by
      show execTrainingPatternsSeen e s = _
      simp [execTrainingPatternsSeen, runs, en, far, startRetrain_eq]
    refine ⟨_, run, ?_, fun d other => spn_updE_ne _ _ _ _ (Ne.symm other), rfl⟩
    rw [spn_updE_same]
    exact (beganRetrain_up up).1
  · have run : exec i s = .next (declareDown s l) := by
      rcases which with ⟨e, mem, rfl, runs, again, many⟩ | ⟨e, mem, rfl, runs, again, timer⟩ | ⟨e, mem, rfl, runs, live⟩
      · rw [← linkOf_of_mem mem]
        exact congrArg Host.Outcome.next ((if_pos (by simp [runs, again])).trans (if_pos many))
      · rw [← linkOf_of_mem mem]
        exact congrArg Host.Outcome.next (if_pos (by simp [runs, again, timer]))
      · refine congrArg Host.Outcome.next (if_pos (List.any_eq_true.mpr ⟨e, mem, ?_⟩))
        simpa [runs] using live
    exact ⟨_, run, declareDown_downs s l rfl⟩

end Sys2Proof.Proofs

/-! ## What a down link gives back, and links switched off (R273, R275, R276, R91): O38. -/

namespace Sys2Proof.Proofs
open Sys2Proof.Machine Sys2Proof.Safety

/-- Padding of what an end's receiver has begun: its hub keeps its return port, and the end its transmitter. -/
def Padded (e : LinkEnd) (s t : State) : Prop :=
  t = { s with routers := t.routers, spine := t.spine } ∧ (∀ r, r ≠ hubAt e → rtr t r = rtr s r) ∧
  (rtr t (hubAt e)).returned = (rtr s (hubAt e)).returned ∧ (∀ d, d ≠ e → spn t d = spn s d) ∧
  ∃ ded bits, spn t e = { spn s e with dedicated := ded, rxBits := bits }

section Pads
variable {e : LinkEnd} {s t u : State}

theorem Padded.trans (first : Padded e s t) (second : Padded e t u) : Padded e s u := by
  obtain ⟨is, away, kept, others, d, b, own⟩ := first
  obtain ⟨is', away', kept', others', d', b', own'⟩ := second
  refine ⟨?_, fun r out => (away' r out).trans (away r out), kept'.trans kept,
    fun d out => (others' d out).trans (others d out), d', b', ?_⟩
  · rw [is', is]
  · rw [own', own]

theorem padded_refl : Padded e s s := ⟨rfl, fun _ _ => rfl, rfl, fun _ _ => rfl, _, _, rfl⟩

theorem padded_of_wire (s : State) (e : LinkEnd) {f : Router → Router} {g : SpineEnd → SpineEnd}
    (keeps : ∀ r, (f r).returned = r.returned) (only : ∀ x, ∃ ded bits, g x = { x with dedicated := ded, rxBits := bits }) :
    Padded e s (updE (updR s (hubAt e) f) e g) := by
  refine ⟨rfl, fun r out => rtr_updR_ne _ _ _ _ (Ne.symm out),
    (congrArg Router.returned (rtr_updR_same s (hubAt e) f) :).trans (keeps _), fun d out => spn_updE_ne _ _ _ _ (Ne.symm out), ?_⟩
  obtain ⟨ded, bits, is⟩ := only (spn s e)
  exact ⟨ded, bits, (spn_updE_same (updR s (hubAt e) f) e g).trans is⟩

theorem padIn_pads (s : State) (e : LinkEnd) (v : SvcId) : Padded e s (padIn s e v).1 := by
  unfold padIn
  extract_lets i ws
  split
  next left head _ =>
  split
  · exact padded_refl
  · exact padded_of_wire s e (fun _ => rfl) fun _ => ⟨_, _, rfl⟩

theorem padded_of_updE (s : State) (e : LinkEnd) {g : SpineEnd → SpineEnd}
    (only : ∀ x, ∃ ded bits, g x = { x with dedicated := ded, rxBits := bits }) : Padded e s (updE s e g) := by
  obtain ⟨ded, bits, is⟩ := only (spn s e)
  exact ⟨rfl, fun _ _ => rfl, rfl, fun d out => spn_updE_ne _ _ _ _ (Ne.symm out), ded, bits, (spn_updE_same s e g).trans is⟩

theorem padAll_pads (s : State) (e : LinkEnd) : Padded e s (padAll s e).1 := by
  have all (l : List SvcId) (acc : State × Nat) : Padded e acc.1 (l.foldl (fun (acc : State × Nat) v =>
      let (s, k) := padIn acc.1 e v
      (s, acc.2 + k)) acc).1 := by
    induction l generalizing acc with
    | nil => exact padded_refl
    | cons v l ih => exact (padIn_pads acc.1 e v).trans (ih _)
  unfold padAll
  generalize svcs = l
  exact (padded_of_updE s e fun x => ⟨x.dedicated, [], rfl⟩).trans (all l _)

end Pads

section GivenUp
variable {s : State} {e : LinkEnd} {d : Nat} (runs : endRuns s e = true) (down : (spn s e).state = .down)
  (since : (spn s e).downEpoch = some d)

/-- A transmitter that gives up what it holds. -/
def gaveAll (owned : Bool) (x : SpineEnd) : SpineEnd := { emptyTx x with returning := owned }

/-- The end holds nothing after it has given up, the receiver's pads and the event. -/
theorem gaveUp (owned : Bool) {u : State} (pads : Padded e (updE s e (gaveAll owned)) u) (ret disc pad : Nat) :
    (rtr (repReturn u e ret disc pad) (hubAt e)).returned = (rtr s (hubAt e)).returned ∧
    (spn (repReturn u e ret disc pad) e).pail = [] ∧ (spn (repReturn u e ret disc pad) e).queue = [] ∧
    (spn (repReturn u e ret disc pad) e).tx = none ∧ (spn (repReturn u e ret disc pad) e).downEpoch = none ∧
    reported s (repReturn u e ret disc pad) .linkReturn .spineEnd e.val ∧
    (∀ d, d ≠ e → spn (repReturn u e ret disc pad) d = spn s d) ∧
    (∀ r, r ≠ hubAt e → rtr (repReturn u e ret disc pad) r = rtr s r) ∧ onlyReports s (repReturn u e ret disc pad) ∧
    repReturn u e ret disc pad = { s with
      routers := (repReturn u e ret disc pad).routers, spine := (repReturn u e ret disc pad).spine
      herd := (repReturn u e ret disc pad).herd } := by
  obtain ⟨is, away, kept, others, ded, bits, own⟩ := pads
  have herd : u.herd = s.herd := by rw [is]; rfl
  rw [spn_updE_same] at own
  refine ⟨kept, (congrArg SpineEnd.pail own :), (congrArg SpineEnd.queue own :), (congrArg SpineEnd.tx own :),
    (congrArg SpineEnd.downEpoch own :), reported_report (congrArg Herd.reports herd) _,
    fun d out => (others d out).trans (spn_updE_ne _ _ _ _ (Ne.symm out)), away, ?_, ?_⟩
  · exact congrArg (fun h : Herd => ({ h with reports := _ } : Herd)) herd
  · exact congrArg (fun v : State => ({ v with herd := _ } : State)) is

include runs down since

theorem return_expires (readable : endReadable s (farEnd e) = true)
    (past : d + (spn s e).returnWait ≤ epochR s (hubAt e)) : ∃ t, exec (.returnWaitExpiry e) s = .next t ∧
      (rtr t (hubAt e)).returned = (rtr s (hubAt e)).returned ++
        ((sortRecs (spn s e).pailBad (pendingRecs (spn s e) (spn s (farEnd e)).e) []).filter (·.2.2)).map (·.2.1) ∧
      (spn t e).pail = [] ∧ (spn t e).queue = [] ∧ (spn t e).tx = none ∧ (spn t e).downEpoch = none ∧
      reported s t .linkReturn .spineEnd e.val ∧ (∀ d, d ≠ e → spn t d = spn s d) ∧
      (∀ r, r ≠ hubAt e → rtr t r = rtr s r) ∧ onlyReports s t ∧
      t = { s with routers := t.routers, spine := t.spine, herd := t.herd } := by
  obtain ⟨ret, disc, v, returned, run⟩ : ∃ ret disc v,
      v = updR s (hubAt e) (fun r => { r with returned := r.returned ++
        ((sortRecs (spn s e).pailBad (pendingRecs (spn s e) (spn s (farEnd e)).e) []).filter (·.2.2)).map (·.2.1) }) ∧
      exec (.returnWaitExpiry e) s = .next (repReturn (padAll (updE v e (gaveAll (ownersLeft s e))) e).1 e ret disc
        (padAll (updE v e (gaveAll (ownersLeft s e))) e).2) := by
    apply Exists.intro
    apply Exists.intro
    refine ⟨_, rfl, ?_⟩
    show execReturnWaitExpiry e s = _
    unfold execReturnWaitExpiry
    dsimp only
    rw [if_pos (by simp [runs, down, readable]), since]
    dsimp only
    rw [if_neg (Nat.not_lt.mpr past)]
    rfl
  obtain ⟨hub, pail, queue, tx, epoch, told, others, away, only, is⟩ :=
    gaveUp (s := v) (ownersLeft s e) (padAll_pads _ e) ret disc (padAll (updE v e (gaveAll (ownersLeft s e))) e).2
  have rest : v = { s with routers := v.routers } := by rw [returned]; rfl
  have own : (rtr v (hubAt e)).returned = (rtr s (hubAt e)).returned ++
      ((sortRecs (spn s e).pailBad (pendingRecs (spn s e) (spn s (farEnd e)).e) []).filter (·.2.2)).map (·.2.1) := by
    rw [returned, rtr_updR_same]
  have beside (r : RouterId) (out : r ≠ hubAt e) : rtr v r = rtr s r := by
    rw [returned, rtr_updR_ne _ _ _ _ (Ne.symm out)]
  clear returned
  obtain ⟨ro, rfl⟩ : ∃ ro, v = { s with routers := ro } := ⟨_, rest⟩
  exact ⟨_, run, hub.trans own, pail, queue, tx, epoch, told, others, fun r out => (away r out).trans (beside r out), only, is⟩

theorem return_unread (dark : endReadable s (farEnd e) = false)
    (past : d + (spn s e).returnWait + 4 ≤ epochR s (hubAt e)) : ∃ t, exec (.returnETimeout e) s = .next t ∧
      (rtr t (hubAt e)).returned = (rtr s (hubAt e)).returned ∧
      (spn t e).pail = [] ∧ (spn t e).queue = [] ∧ (spn t e).tx = none ∧ (spn t e).downEpoch = none ∧
      reported s t .linkReturn .spineEnd e.val ∧ (∀ d, d ≠ e → spn t d = spn s d) ∧
      (∀ r, r ≠ hubAt e → rtr t r = rtr s r) ∧ onlyReports s t ∧
      t = { s with routers := t.routers, spine := t.spine, herd := t.herd } := by
  obtain ⟨disc, run⟩ : ∃ disc, exec (.returnETimeout e) s =
      .next (repReturn (padAll (updE s e (gaveAll (ownersLeft s e))) e).1 e 0 disc
        (padAll (updE s e (gaveAll (ownersLeft s e))) e).2) := by
    apply Exists.intro
    show execReturnETimeout e s = _
    unfold execReturnETimeout
    dsimp only
    rw [if_pos (by simp [runs, down, dark]), since]
    dsimp only
    rw [if_neg (Nat.not_lt.mpr past)]
    rfl
  exact ⟨_, run, gaveUp (ownersLeft s e) (padAll_pads _ e) 0 disc _⟩

end GivenUp

/-! ### A link switched off (R276) -/

/-- An end that drains. -/
def draining (x : SpineEnd) : SpineEnd := { x with stopping := true }

section Off
variable (s : State) (l : LinkId)

/-- Training starts at no end that is not enabled. -/
theorem startTraining_disabled {s : State} {e : LinkEnd} (off : (spn s e).en = false) : startTraining s e = s := by
  have same : tupd s.spine e (fun x => if x.state == .off && x.en then
      { x with state := .train, lanesIn := [], stopping := false } else x) = tupd s.spine e id :=
    tupd_congr (if_neg (by simp [show (tget s.spine e).en = false from off]))
  refine (congrArg (fun sp => ({ s with spine := sp } : State)) same).trans ?_
  exact congrArg (fun sp => ({ s with spine := sp } : State)) (Vector.set_getElem_self ..)

theorem startTrainings_disabled {ends : List LinkEnd} (off : ∀ e ∈ ends, (spn s e).en = false) :
    ends.foldl startTraining s = s := by
  induction ends with
  | nil => rfl
  | cons e ends ih =>
    rw [List.foldl_cons, startTraining_disabled (off e List.mem_cons_self)]
    exact ih fun d mem => off d (List.mem_cons_of_mem _ mem)

theorem drainedEnd_congr {s t : State} {e : LinkEnd} (own : spn t e = draining (spn s e)) (routers : t.routers = s.routers) :
    drainedEnd t e = drainedEnd s e := by
  simp only [drainedEnd, ownersLeft, outOf, rtr, own, routers, draining]

/-- The ends of a link, all drained and all off. -/
def allOff : State := (bothEnds l).foldl (fun s e => updE s e lanesOff) ((bothEnds l).foldl (fun s e => updE s e draining)
  (updHerd s (fun h => { h with spineUp := unlit l h.spineUp })))

theorem allOff_ends : (∀ d ∈ bothEnds l, spn (allOff s l) d = lanesOff (draining (spn s d))) ∧
    (∀ d, d ∉ bothEnds l → spn (allOff s l) d = spn s d) ∧
    ∃ sp, allOff s l = { s with spine := sp, herd := { s.herd with spineUp := unlit l s.herd.spineUp } } := by
  have distinct := bothEnds_nodup l
  unfold allOff
  generalize bothEnds l = ends at distinct
  obtain ⟨mine, others⟩ := spn_foldl_updE (fun _ => draining) distinct
    (updHerd s (fun h => { h with spineUp := unlit l h.spineUp }))
  obtain ⟨sp, frame⟩ := foldl_updE_frame (fun _ => draining) ends
    (updHerd s (fun h => { h with spineUp := unlit l h.spineUp }))
  generalize ends.foldl (fun s e => updE s e draining) (updHerd s (fun h => { h with spineUp := unlit l h.spineUp })) = u
    at mine others frame
  obtain ⟨mine', others'⟩ := spn_foldl_updE (fun _ => lanesOff) distinct u
  obtain ⟨sp', frame'⟩ := foldl_updE_frame (fun _ => lanesOff) ends u
  exact ⟨fun d mem => (mine' d mem).trans (congrArg lanesOff (mine d mem)), fun d out => (others' d out).trans (others d out),
    sp', by rw [frame', frame]; rfl⟩

variable {s l}

theorem linkEnOff_turnsOff (drained : ∀ d ∈ bothEnds l, endRuns s d = true ∧ (spn s d).en = false ∧ drainedEnd s d = true) :
    linkEnOff s l = allOff s l := by
  have live : (bothEnds l).all (fun e => endRuns s e && (!(spn s e).en || (spn s e).stopping)) = true :=
    List.all_eq_true.mpr fun d mem => by simp [drained d mem]
  refine (if_pos live).trans ?_
  have empty : (bothEnds l).all (drainedEnd ((bothEnds l).foldl (fun s e => updE s e draining)
      (updHerd s (fun h => { h with spineUp := unlit l h.spineUp })))) = true := by
    refine List.all_eq_true.mpr fun d mem => ?_
    obtain ⟨-, -, drained⟩ := drained d mem
    obtain ⟨sp, frame⟩ := foldl_updE_frame (fun _ => draining) (bothEnds l)
      (updHerd s (fun h => { h with spineUp := unlit l h.spineUp }))
    refine (drainedEnd_congr ((spn_foldl_updE (fun _ => draining) (bothEnds_nodup l) _).1 d mem :) ?_).trans drained
    rw [frame]
  refine (if_pos empty).trans ?_
  have idle : (bothEnds l).foldl startTraining (allOff s l) = allOff s l := startTrainings_disabled (allOff s l) fun d mem => by
    rw [(allOff_ends s l).1 d mem]
    exact (drained d mem).2.1
  have either (c : Prop) [Decidable c] : (if c then (bothEnds l).foldl startTraining (allOff s l) else allOff s l) =
      allOff s l := by
    rw [idle, ite_self]
  exact either _

end Off

/-- A hub without a route for a packet that waits. -/
theorem noRoute_told {s : State} {q : QuadId} (runs : routerRuns s (hubOf q) = true) (live : s.recov.die = none)
    (stuck : noRoute s (hubOf q) ≠ [])
    (unsaid : s.herd.reports.any (fun ev => ev.code == .spineNoRoute && ev.num == (hubOf q).val) = false) :
    ∃ quad, exec (.spineNoRoute q) s = .next (repRouter s (hubOf q) .spineNoRoute quad) := by
  obtain ⟨quad, more, is⟩ := List.exists_cons_of_ne_nil stuck
  refine ⟨quad, ?_⟩
  show execSpineNoRoute q s = _
  unfold execSpineNoRoute
  dsimp only
  rw [if_pos (by simp [runs, live]), is]
  exact congrArg Host.Outcome.next (if_neg (by rw [unsaid]; simp))

/-- Settles O38. -/
theorem linkTakesPacketsBack : Obligations.LinkTakesPacketsBack := by
  refine ⟨fun s e d runs down since => ⟨return_expires runs down since, return_unread runs down since⟩,
    fun s l drained => ?_, fun s q runs live stuck unsaid => ?_⟩
  · obtain ⟨mine, others, sp, is⟩ := allOff_ends s l
    refine ⟨_, congrArg Host.Outcome.next (linkEnOff_turnsOff drained), ?_, fun d mem => by rw [mine d mem]; rfl, others, ?_, ?_⟩
    · rw [is]
      exact getLsbD_unlit ..
    · rw [is]
    · rw [is]
  · obtain ⟨quad, run⟩ := noRoute_told runs live stuck unsaid
    exact ⟨_, run, reported_report rfl _, rfl, rfl⟩

end Sys2Proof.Proofs

/-! ## What work that a target NI offers and answers leaves alone (R170, R184, R187, R296). -/

namespace Sys2Proof.Proofs
open Sys2Proof.Machine Sys2Proof.Safety

section Target
variable {α : Type} {P : State → α} {s : State} {n : Slot} [Besides n P]

@[simp] theorem view_sendRsp (p : Packet) : view P (sendRsp s n p) = view P s := view_updN _

@[simp] theorem view_offerPkt (t : Taken) (p : Packet) : view P (offerPkt s n t p) = view P s := view_updN _

@[simp] theorem view_sendAfter (stamps : List Nat) (p : Packet) : view P (sendAfter s n stamps p) = view P s := view_updN _

@[simp] theorem view_offerRuns (p : Packet) (rs : List LineRes) (whole : Status) (after : List Nat) (runs : List (Nat × Nat)) :
    view P (offerRuns s n p rs whole after runs) = view P s := by
  cases runs with
  | nil => exact view_sendAfter ..
  | cons => exact view_offerPkt ..

@[simp] theorem view_refreshOrder : view P (refreshOrder s n) = view P s := view_updN _

@[simp] theorem view_dropDiscarded : view P (dropDiscarded s n) = view P s := by
  unfold dropDiscarded
  dsimp only
  split
  · rfl
  · rw [view_refreshOrder, view_updN]

@[simp] theorem view_atomStart (p : Packet) (staged : Option (GroupId × Nat)) : view P (atomStart s n p staged) = view P s := by
  simp [atomStart]

variable [Unaware P]

omit [Besides n P] in
@[simp] theorem view_logJudges (src : Nat) (js : List Judge) : view P (logJudges s n src js) = view P s := by
  refine view_foldl fun u j => ?_
  cases j with
  | refuse => exact view_repCurd ..
  | ordinary | stage | serve | wait => rfl

@[simp] theorem view_offerRead (p : InPkt) (js : List Judge) : view P (offerRead s n p js) = view P s := by
  simp [offerRead]

@[simp] theorem view_serveWaiting : view P (serveWaiting s n) = view P s := by
  refine view_foldl fun u p => ?_
  split
  · rfl
  · next js _ =>
    show view P (if delivers (nif (updN u n _) n) n then offerRead (updN u n _) n p js else sendRsp (updN u n _) n _) = _
    rw [view_ite, view_offerRead, view_sendRsp, view_updN, ite_self]

@[simp] theorem view_breakLocks (ev : EventCode) (p : LockEnt → Bool) : view P (breakLocks s n ev p) = view P s := by
  unfold breakLocks
  dsimp only
  refine (view_foldl fun u e => view_repNi ..).trans (view_updN _)

@[simp] theorem view_takeGeneration (o : Slot) : view P (takeGeneration s n o) = view P s := by
  unfold takeGeneration
  dsimp only
  split <;> simp

variable [Stored n P] [Fed n P]

@[simp] theorem view_takeGroupState (g : GroupId) : view P (takeGroupState s n g) = view P s := by
  unfold takeGroupState
  dsimp only
  (repeat' split) <;> simp [updG]

@[simp] theorem view_catchUpNi : view P (catchUpNi s n) = view P s := by
  unfold catchUpNi
  split
  · rfl
  · simp

end Target

end Sys2Proof.Proofs

/-! ## Milk rounds (R334, R335, R37, R465): O48. -/

namespace Sys2Proof.Proofs
open Sys2Proof.Machine Sys2Proof.Safety

/-! ### Work of one row steward -/

/-- Only the milk round of `sec` has changed, to `x`. -/
def RoundStep (sec : SectorId) (s t : State) (x : MilkRound) : Prop :=
  round t sec = x ∧ (∀ q, q ≠ sec → round t q = round s q) ∧ t = { s with herd := { s.herd with rounds := t.herd.rounds } }

section Rounds
variable {sec : SectorId} {s t u : State} {x y : MilkRound}

theorem RoundStep.trans (first : RoundStep sec s t x) (second : RoundStep sec t u y) : RoundStep sec s u y := by
  obtain ⟨-, others, is⟩ := first
  obtain ⟨own, others', is'⟩ := second
  exact ⟨own, fun q out => (others' q out).trans (others q out), by rw [is', is]⟩

theorem roundStep_refl : RoundStep sec s s (round s sec) := ⟨rfl, fun _ _ => rfl, rfl⟩

theorem roundStep_updRound (s : State) (sec : SectorId) (f : MilkRound → MilkRound) :
    RoundStep sec s (updRound s sec f) (f (round s sec)) :=
  ⟨(tget_tupd ..), fun _ out => tget_tupd_ne _ _ _ _ (Ne.symm out), rfl⟩

theorem awaitFrame_awaits (s : State) (sec : SectorId) (f : Frame) (ws : List (BitVec 32)) :
    ∃ aw, RoundStep sec s (awaitFrame s sec f ws) { round s sec with awaited := aw } ∧ ∃ a ∈ aw, a.1 = f.tag := by
  unfold awaitFrame
  split
  · next known =>
    obtain ⟨a, mem, same⟩ := List.any_eq_true.mp known
    exact ⟨_, roundStep_refl, a, mem, by simpa using same⟩
  · exact ⟨_, roundStep_updRound .., _, List.mem_append_right _ (List.mem_singleton_self _), rfl⟩

end Rounds

/-! ### Stops -/

section Stops
variable {s : State} {sec : SectorId} (runs : herdRuns s = true) (reached : sectorOk s sec = true)
include runs reached

theorem takeFrame_acts {stop : StopId} {ws dist : List (BitVec 32)} {op : Nat}
    {act : State → RouterId → Frame → State × Status × List (BitVec 32)} {f : Frame} (whole : distort ws dist = ws)
    (reads : readFrame ws = some f) (is : f.op = op) (dst : f.dst = stop.val ∨ f.dst = 15) (low : stop.val < 12)
    (live : routerRuns s (stopRouter sec stop.val) = true)
    (clocked : s.aon.gated.getLsbD (clusterOf (stopRouter sec stop.val)).val = false) :
    takeFrame s sec stop ws dist op act =
      answerFrame (act (awaitFrame s sec f ws) (stopRouter sec stop.val) f).1 sec stop.val f.tag
        (act (awaitFrame s sec f ws) (stopRouter sec stop.val) f).2.1
        (act (awaitFrame s sec f ws) (stopRouter sec stop.val) f).2.2 := by
  obtain ⟨aw, ⟨-, -, frame⟩, -⟩ := awaitFrame_awaits s sec f ws
  have live' : routerRuns (awaitFrame s sec f ws) (stopRouter sec stop.val) = true := by
    rw [frame]
    exact live
  have idle : ungate (awaitFrame s sec f ws) (clusterOf (stopRouter sec stop.val)) = awaitFrame s sec f ws :=
    if_neg (by rw [frame]; exact Bool.eq_false_iff.mp clocked)
  have here : f.dst = stop.val ∨ f.dst = 15 ∧ stop.val < 12 := dst.imp_right fun all => ⟨all, low⟩
  unfold takeFrame
  rw [if_neg (by simp [stewardRuns, runs, reached]), whole, reads]
  dsimp only
  rw [if_pos is, if_neg (by simp [is, here]), if_neg (by simp only [stopSteward]; omega), idle, if_neg (by simp [live'])]

theorem mgRd_answers {stop : StopId} {ws dist : List (BitVec 32)} {f : Frame} (whole : distort ws dist = ws)
    (reads : readFrame ws = some f) (is : f.op = opMgRd) (dst : f.dst = stop.val ∨ f.dst = 15) (low : stop.val < 12)
    (live : routerRuns s (stopRouter sec stop.val) = true)
    (clocked : s.aon.gated.getLsbD (clusterOf (stopRouter sec stop.val)).val = false) :
    ∃ t, exec (.mgRd sec stop ws dist) s = .next t ∧
      (round t sec).toSteward = (round s sec).toSteward ++
        [writeFrame { op := opMgResp, dst := stopSteward, src := stop.val, tag := f.tag
                      second := BitVec.ofNat 32 (stCode (frameRead s (stopRouter sec stop.val) f).1 * 2 ^ 28)
                      data := (frameRead s (stopRouter sec stop.val) f).2 }] ∧
      (∃ a ∈ (round t sec).awaited, a.1 = f.tag) ∧
      (∀ q, q ≠ sec → round t q = round s q) ∧ t = { s with herd := { s.herd with rounds := t.herd.rounds } } := by
  have acts := takeFrame_acts runs reached (act := fun s r f => (s, frameRead s r f)) whole reads is dst low live clocked
  obtain ⟨aw, awaits, a, mem, tag⟩ := awaitFrame_awaits s sec f ws
  have same : frameRead (awaitFrame s sec f ws) (stopRouter sec stop.val) f = frameRead s (stopRouter sec stop.val) f := by
    rw [awaits.2.2]
    rfl
  rw [same] at acts
  have was := awaits.1
  obtain ⟨own, others, frame⟩ := awaits.trans (roundStep_updRound (awaitFrame s sec f ws) sec (fun x => { x with
    toSteward := x.toSteward ++ [writeFrame { op := opMgResp, dst := stopSteward, src := stop.val, tag := f.tag
                                              second := BitVec.ofNat 32
                                                (stCode (frameRead s (stopRouter sec stop.val) f).1 * 2 ^ 28)
                                              data := (frameRead s (stopRouter sec stop.val) f).2 }] }))
  rw [was] at own
  exact ⟨_, congrArg Host.Outcome.next acts, (congrArg MilkRound.toSteward own).trans rfl,
    ⟨a, (congrArg (fun x => a ∈ x.awaited) own).mpr mem, tag⟩, others, frame⟩

omit runs reached in
theorem adPlace_unit {r : RouterId} {f : Frame} {i : ItemInfo} {p : CfgPlace} (place : adPlace r f = some (i, p)) :
    ∃ u, p.unit = some u := by
  unfold adPlace at place
  split at place
  · next u i' _ _ =>
    dsimp only at place
    generalize (if i'.port then adIndex f / 4096 else 0) = port at place
    generalize (if i'.port then adIndex f % 4096 else adIndex f) = index at place
    obtain ⟨-, is⟩ := Option.ite_none_right_eq_some.mp place
    obtain ⟨-, rfl⟩ := Prod.mk.inj (Option.some.inj is)
    exact ⟨u, rfl⟩
  · cases place

omit runs reached in
/-- What a write of an item makes of its entry, at a stop. -/
theorem frameWrite_writes {u : State} {r : RouterId} {f : Frame} {i : ItemInfo} {p : CfgPlace} {v : Nat}
    (place : adPlace r f = some (i, p)) (fits : f.data.length = wordCount i.bytes)
    (value : itemValue (adSpace f) p.index (ofWords f.data) = some v) (noMap : adSpace f ≠ itBankMap)
    (noList : adSpace f ≠ itGateList) :
    frameWrite u r f = (cfgPut u (adSet f) (adSpace f) p.num p.port p.index v, .ok) := by
  obtain ⟨unit, named⟩ := adPlace_unit place
  have item : frameItem u f p = (mapsWritten (cfgPut u (adSet f) (adSpace f) p.num p.port p.index v) (adSpace f) [(p, 0)], .ok) := by
    unfold frameItem
    rw [value]
    dsimp only
    rw [named, if_neg (by simp [noMap]), if_neg (by simp [noList])]
  unfold frameWrite
  rw [place]
  exact (if_pos fits).trans (item.trans (congrArg (·, Status.ok) (if_neg noMap)))

theorem mgWr_writes {stop : StopId} {ws dist : List (BitVec 32)} {f : Frame} {i : ItemInfo} {p : CfgPlace} {v : Nat}
    (whole : distort ws dist = ws)
    (reads : readFrame ws = some f) (is : f.op = opMgWr) (dst : f.dst = stop.val ∨ f.dst = 15) (low : stop.val < 12)
    (live : routerRuns s (stopRouter sec stop.val) = true)
    (clocked : s.aon.gated.getLsbD (clusterOf (stopRouter sec stop.val)).val = false)
    (place : adPlace (stopRouter sec stop.val) f = some (i, p)) (fits : f.data.length = wordCount i.bytes)
    (value : itemValue (adSpace f) p.index (ofWords f.data) = some v) (noMap : adSpace f ≠ itBankMap)
    (noList : adSpace f ≠ itGateList) (wfA : swf cfgBoot s.cfgA = true) (wfB : swf cfgBoot s.cfgB = true) :
    ∃ t, exec (.mgWr sec stop ws dist) s = .next t ∧ cfgGet t (adSet f) (adSpace f) p.num p.port p.index = v ∧
      (if adSet f then t.cfgA = s.cfgA ∧ otherEntries s.cfgB t.cfgB (cfgKey (adSpace f) p.num p.port p.index)
       else t.cfgB = s.cfgB ∧ otherEntries s.cfgA t.cfgA (cfgKey (adSpace f) p.num p.port p.index)) ∧
      t = { s with cfgA := t.cfgA, cfgB := t.cfgB, herd := { s.herd with rounds := t.herd.rounds } } := by
  have acts := takeFrame_acts runs reached (act := fun s r f =>
    let (t, st) := frameWrite s r f
    (t, st, [])) whole reads is dst low live clocked
  obtain ⟨aw, ⟨-, -, frame⟩, -⟩ := awaitFrame_awaits s sec f ws
  generalize awaitFrame s sec f ws = u at acts frame
  rw [frameWrite_writes place fits value noMap noList] at acts
  obtain ⟨a, b, put⟩ := cfgPut_frame u (adSet f) (adSpace f) p.num p.port p.index v
  have sets : u.cfgA = s.cfgA ∧ u.cfgB = s.cfgB := by rw [frame]; exact ⟨rfl, rfl⟩
  have entry := cfgGet_cfgPut (s := u) (by rw [sets.1]; exact wfA) (by rw [sets.2]; exact wfB) (adSet f) (adSpace f)
    p.num p.port p.index v
  have others := cfgPut_others u (adSet f) (adSpace f) p.num p.port p.index v
  rw [sets.1, sets.2] at others
  generalize cfgPut u (adSet f) (adSpace f) p.num p.port p.index v = w at acts put entry others
  refine ⟨_, congrArg Host.Outcome.next acts, entry, others, ?_⟩
  rw [put, frame]
  rfl

theorem badFrame_counted {stop : StopId} {ws dist : List (BitVec 32)} {i : Instr}
    (is : i = .mgRd sec stop ws dist ∨ i = .mgWr sec stop ws dist) (bad : readFrame (distort ws dist) = none) :
    ∃ t, exec i s = .next t ∧ tget (round t sec).badFrames stop = tget (round s sec).badFrames stop + 1 ∧
      (round t sec).toSteward = (round s sec).toSteward ∧
      (∀ q, q ≠ sec → round t q = round s q) ∧ t = { s with herd := { s.herd with rounds := t.herd.rounds } } := by
  have taken (op : Nat) (act : State → RouterId → Frame → State × Status × List (BitVec 32)) :
      ∃ aw, RoundStep sec s (takeFrame s sec stop ws dist op act) { round s sec with
        awaited := aw, badFrames := tupd (round s sec).badFrames stop (· + 1) } := by
    unfold takeFrame
    rw [if_neg (by simp [stewardRuns, runs, reached]), bad]
    extract_lets u
    have sent : ∃ aw, RoundStep sec s u { round s sec with awaited := aw } := by
      simp only [u]
      split
      · split
        · next f _ _ =>
          obtain ⟨aw, step, -⟩ := awaitFrame_awaits s sec f ws
          exact ⟨aw, step⟩
        · exact ⟨_, roundStep_refl⟩
      · exact ⟨_, roundStep_refl⟩
    obtain ⟨aw, step⟩ := sent
    have last := step.trans (roundStep_updRound u sec (fun x => { x with badFrames := tupd x.badFrames stop (· + 1) }))
    rw [step.1] at last
    exact ⟨aw, last⟩
  have counts {t : State} {aw : List (BitVec 8 × List (BitVec 32) × Nat)} (step : RoundStep sec s t { round s sec with
      awaited := aw, badFrames := tupd (round s sec).badFrames stop (· + 1) }) :
      tget (round t sec).badFrames stop = tget (round s sec).badFrames stop + 1 ∧
      (round t sec).toSteward = (round s sec).toSteward ∧
      (∀ q, q ≠ sec → round t q = round s q) ∧ t = { s with herd := { s.herd with rounds := t.herd.rounds } } := by
    obtain ⟨own, others, frame⟩ := step
    rw [own]
    exact ⟨tget_tupd .., rfl, others, frame⟩
  rcases is with rfl | rfl
  · obtain ⟨aw, step⟩ := taken opMgRd _
    exact ⟨_, rfl, counts step⟩
  · obtain ⟨aw, step⟩ := taken opMgWr _
    exact ⟨_, rfl, counts step⟩

/-! ### The row steward -/

theorem mgResp_taken {ws dist : List (BitVec 32)} {rest : List (List (BitVec 32))} {f : Frame}
    (front : (round s sec).toSteward = ws :: rest) (whole : distort ws dist = ws) (reads : readFrame ws = some f)
    (is : f.op = opMgResp) (dst : f.dst = stopSteward) : ∃ t, exec (.mgResp sec dist) s = .next t ∧
      (round t sec).awaited = (round s sec).awaited.filter (fun a => a.1 != f.tag) ∧ (round t sec).toSteward = rest ∧
      (∀ q, q ≠ sec → round t q = round s q) ∧ t = { s with herd := { s.herd with rounds := t.herd.rounds } } := by
  have run : exec (.mgResp sec dist) s = .next (updRound (updRound s sec (fun x => { x with toSteward := rest })) sec
      (fun x => { x with awaited := x.awaited.filter (fun a => a.1 != f.tag) })) := by
    show execMgResp sec dist s = _
    unfold execMgResp
    rw [if_pos (by simp [stewardRuns, runs, reached]), front]
    dsimp only
    rw [whole, reads]
    exact congrArg Host.Outcome.next (if_pos ⟨is, dst⟩)
  have first := roundStep_updRound s sec (fun x => { x with toSteward := rest })
  obtain ⟨own, others, frame⟩ := first.trans (roundStep_updRound _ sec (fun x => { x with
    awaited := x.awaited.filter (fun a => a.1 != f.tag) }))
  rw [first.1] at own
  exact ⟨_, run, congrArg MilkRound.awaited own, congrArg MilkRound.toSteward own, others, frame⟩

section Events
variable {ws dist : List (BitVec 32)} {f : Frame} (whole : distort ws dist = ws) (reads : readFrame ws = some f)
include whole reads

theorem token_returns (token : isToken f = true) (onTheWay : 0 < (round s sec).tokens) :
    ∃ t, exec (.mgEvent sec ws dist) s = .next t ∧ (round t sec).token = s.herd.epoch ∧
      (round t sec).tokens = (round s sec).tokens - 1 ∧
      (∀ q, q ≠ sec → round t q = round s q) ∧ t = { s with herd := { s.herd with rounds := t.herd.rounds } } := by
  have run : exec (.mgEvent sec ws dist) s = .next (updRound (updRound (updRound s sec (fun x => { x with
      tokens := x.tokens - 1 })) sec (fun x => { x with agentSent := x.agentSent.filter (fun a => a.1 != ws) })) sec
      (fun x => { x with token := s.herd.epoch })) := by
    show execMgEvent sec ws dist s = _
    unfold execMgEvent
    rw [whole, reads]
    dsimp only
    rw [if_neg (by simp [stewardRuns, runs, reached]; omega), if_pos (by simp [token])]
    exact congrArg Host.Outcome.next (if_pos token)
  have first := roundStep_updRound s sec (fun x => { x with tokens := x.tokens - 1 })
  have second := first.trans (roundStep_updRound _ sec (fun x => { x with
    agentSent := x.agentSent.filter (fun a => a.1 != ws) }))
  rw [first.1] at second
  obtain ⟨own, others, frame⟩ := second.trans (roundStep_updRound _ sec (fun x => { x with token := s.herd.epoch }))
  rw [second.1] at own
  exact ⟨_, run, congrArg MilkRound.token own, congrArg MilkRound.tokens own, others, frame⟩

theorem event_passedOn {ev : EventCode} (is : f.op = opMgEvent) (words : f.data ≠ []) (low : f.src < 12)
    (named : eventOf (field f.second 16 16) = some ev) : ∃ t, exec (.mgEvent sec ws dist) s = .next t ∧
      reported s t ev .router (stopRouter sec f.src).val ∧ (∀ a ∈ (round t sec).agentSent, a.1 ≠ ws) ∧
      t = { s with herd := t.herd } := by
  have noToken : isToken f = false := by simp [isToken, words]
  obtain ⟨detail, run⟩ : ∃ record, exec (.mgEvent sec ws dist) s = .next (repRouter (updRound s sec (fun x => { x with
      agentSent := x.agentSent.filter (fun a => a.1 != ws) })) (stopRouter sec f.src) ev 0 record) := by
    apply Exists.intro
    show execMgEvent sec ws dist s = _
    unfold execMgEvent
    rw [whole, reads]
    dsimp only
    rw [if_neg (by simp [stewardRuns, runs, reached, noToken]), if_neg (by simp [noToken])]
    unfold stewardTakes
    rw [if_neg (by simp [noToken]), if_neg (by simp [is, words]), named]
    exact congrArg Host.Outcome.next (if_pos low)
  refine ⟨_, run, reported_report rfl _, fun a mem => ?_, rfl⟩
  have own : (round (repRouter (updRound s sec (fun x => { x with agentSent := x.agentSent.filter (fun a => a.1 != ws) }))
      (stopRouter sec f.src) ev 0 detail) sec).agentSent = (round s sec).agentSent.filter (fun a => a.1 != ws) :=
    (congrArg MilkRound.agentSent (roundStep_updRound s sec (fun x => { x with
      agentSent := x.agentSent.filter (fun a => a.1 != ws) })).1 :)
  rw [own] at mem
  simpa using (List.mem_filter.mp mem).2

end Events

theorem frame_timesOut {tag tag' : BitVec 8} {ws : List (BitVec 32)} {k : Nat}
    (waits : (round s sec).awaited.find? (fun a => a.1 == tag) = some (tag', ws, k)) :
    ∃ t, exec (.mgFrameTimeout sec tag) s = .next t ∧
      (k < 2 → (round t sec).sent = (round s sec).sent ++ [ws] ∧ (round t sec).lost = (round s sec).lost) ∧
      (2 ≤ k → (round t sec).lost = true ∧ (round t sec).tokenStopped = true) ∧
      (∀ q, q ≠ sec → round t q = round s q) ∧ t = { s with herd := { s.herd with rounds := t.herd.rounds } } := by
  have run : exec (.mgFrameTimeout sec tag) s = .next (if 2 ≤ k then updRound s sec (fun x => { x with
      awaited := x.awaited.filter (fun a => a.1 != tag), tokenStopped := true, lost := true })
    else updRound s sec (fun x => { x with
      awaited := updFirst (fun a => a.1 == tag) (fun _ => (tag, ws, k + 1)) x.awaited, sent := x.sent ++ [ws] })) := by
    show execMgFrameTimeout sec tag s = _
    unfold execMgFrameTimeout
    rw [if_neg (by simp [stewardRuns, runs, reached]), waits]
  by_cases third : 2 ≤ k
  · rw [if_pos third] at run
    obtain ⟨own, others, frame⟩ := roundStep_updRound s sec (fun x => { x with
      awaited := x.awaited.filter (fun a => a.1 != tag), tokenStopped := true, lost := true })
    exact ⟨_, run, fun few => absurd third (Nat.not_le.mpr few),
      fun _ => ⟨(congrArg MilkRound.lost own :), (congrArg MilkRound.tokenStopped own :)⟩, others, frame⟩
  · rw [if_neg third] at run
    obtain ⟨own, others, frame⟩ := roundStep_updRound s sec (fun x => { x with
      awaited := updFirst (fun a => a.1 == tag) (fun _ => (tag, ws, k + 1)) x.awaited, sent := x.sent ++ [ws] })
    exact ⟨_, run, fun _ => ⟨(congrArg MilkRound.sent own :), (congrArg MilkRound.lost own :)⟩, fun many => absurd many third,
      others, frame⟩

/-- The milk round of a lost row steward. -/
def lostRound (now : Nat) (x : MilkRound) : MilkRound :=
  { x with
    reachable := false, lost := false, tokenStopped := false, resetAt := now, awaited := [], toSteward := [], tokens := 0
    agentSent := [], sent := [], dirty := x.dirty || writeMissed x }

omit runs reached in
theorem abortEntry_steady {u : State} (steady : u.aon.modeReq = none) : abortEntry u = u := by
  rw [abortEntry, steady]

theorem stewardLost_runs {silent : Bool}
    (why : silent = true ∨ (round s sec).lost = true ∨ (round s sec).token + 4 ≤ s.herd.epoch)
    (steady : s.aon.modeReq = none) : exec (.stewardLost sec silent) s = .next (updRound (report s
      (mkEvent .stewardLost .sector sec.val 0 s.herd.epoch 0 0)) sec (lostRound s.herd.epoch)) := by
  have reach : (round s sec).reachable = true := reached
  show execStewardLost sec silent s = _
  unfold execStewardLost
  dsimp only
  rw [if_neg (by simp [runs]), if_neg (by simp [reach]), if_pos (by simpa [or_assoc] using why)]
  exact congrArg Host.Outcome.next (abortEntry_steady (u := updRound (report s _) sec (lostRound s.herd.epoch)) steady)

theorem steward_lost {silent : Bool}
    (why : silent = true ∨ (round s sec).lost = true ∨ (round s sec).token + 4 ≤ s.herd.epoch)
    (steady : s.aon.modeReq = none) : ∃ t, exec (.stewardLost sec silent) s = .next t ∧ sectorOk t sec = false ∧
      (round t sec).resetAt = s.herd.epoch ∧ reported s t .stewardLost .sector sec.val ∧
      (∀ q, q ≠ sec → round t q = round s q) ∧
      t = { s with herd := { s.herd with rounds := t.herd.rounds, reports := t.herd.reports } } := by
  obtain ⟨own, others, -⟩ := roundStep_updRound (report s (mkEvent .stewardLost .sector sec.val 0 s.herd.epoch 0 0)) sec
    (lostRound s.herd.epoch)
  exact ⟨_, stewardLost_runs runs reached why steady, congrArg MilkRound.reachable own, congrArg MilkRound.resetAt own,
    reported_report (s := s) rfl _, others, rfl⟩

end Stops

/-! ### A sector that returns (R37) -/

theorem map_tupd {α β : Type} {k : Nat} (v : Vector α k) (i : Fin k) {f : α → α} {g : α → β} (same : ∀ x, g (f x) = g x) :
    (tupd v i f).map g = v.map g := by
  rw [tupd, Vector.map_set, same]
  exact (congrArg (fun x => (v.map g).set i x) (Vector.getElem_map g _).symm).trans (Vector.set_getElem_self _)

/-- What the return of a sector makes known, and which sectors are reached. -/
def relayed (s : State) : (Vector Bool 8 × Vector (BitVec 8) 192 × Vector (BitVec 8) 192 × BitVec 6 × Nat) ×
    Vector (BitVec 6 × Nat) 96 :=
  ((s.herd.rounds.map (·.reachable), s.herd.gens, s.herd.gensLate, s.herd.spineUp, s.herd.govLevel),
    s.routers.map (fun x => (x.spineUp, x.govLevel)))

theorem lossTo_memAnswer (s : State) (tag : Nat) (st : Status) (lstat : BitVec 16) : LossTo s (memAnswer s tag st lstat) := by
  unfold memAnswer
  split
  · next b _ =>
    exact LossTo.trans (lossTo_of_silent (s.herd.memBusy.filter fun c => c.tag != b.tag) s.herd.memOut s.herd.rings
      s.herd.started s.herd.groups s.dip s.can s.crock) (lossTo_answered _ _ _ _)
  · exact .refl s

theorem LossTo.relayed {s t : State} (loss : LossTo s t) : Proofs.relayed t = Proofs.relayed s := by
  obtain ⟨mb, mo, ri, st, gr, ev, d, c, k, rfl⟩ := loss
  rfl

section Relayed
variable (s : State)

theorem relayed_catchUpNi (n : Slot) : view relayed (catchUpNi s n) = view relayed s :=
  have : Unaware relayed := ⟨fun _ _ => rfl, fun _ _ _ _ => rfl, fun _ _ => rfl⟩
  have : Besides n relayed := ⟨fun _ _ => rfl⟩
  have : Fed n relayed := ⟨fun _ _ _ _ => rfl⟩
  have : Stored n relayed :=
    ⟨fun _ _ => rfl, fun _ _ _ _ => rfl, fun _ s tag st l => (lossTo_memAnswer s tag st l).relayed⟩
  view_catchUpNi

theorem relayed_resendSels (p : CtrUnit → Bool) : view relayed (resendSels s p) = view relayed s := by
  unfold resendSels
  dsimp only
  refine (view_foldl fun u g => ?_).trans rfl
  unfold sendSel
  split
  · rfl
  · exact (apply_ite _ _ _ _).trans (ite_self _)

theorem relayed_armed (r : RouterId) (a : Option (Nat × Bool)) :
    view relayed (updR s r (fun x => { x with armed := a })) = view relayed s :=
  congrArg (Prod.mk _) (map_tupd s.routers r fun _ => rfl)

theorem relayed_mendSplit (sec : SectorId) : view relayed (mendSplit s sec) = view relayed s := by
  unfold mendSplit
  extract_lets rs u v
  have calm : view relayed u = view relayed s := by
    simp only [u]
    rw [view_ite, view_foldl fun w r => relayed_armed w r none, ite_self]
  have split_ : view relayed v = view relayed s := by
    refine Eq.trans ?_ calm
    exact congrArg (fun m => ((m, u.herd.gens, u.herd.gensLate, u.herd.spineUp, u.herd.govLevel), _))
      (map_tupd u.herd.rounds sec fun _ => rfl)
  split
  · exact split_
  · exact (view_foldl fun w r => relayed_armed w r _).trans split_

end Relayed

/-- A router that has what the Herdsman relays. -/
def upToDate (s : State) (r : RouterId) : Prop :=
  (rtr s r).spineUp = s.herd.spineUp ∧ (rtr s r).govLevel = s.herd.govLevel

theorem upToDate_congr {s t : State} (same : view relayed t = view relayed s) (r : RouterId) :
    upToDate t r ↔ upToDate s r := by
  obtain ⟨herd, routers⟩ := Prod.mk.inj same
  simp only [Prod.mk.injEq] at herd
  obtain ⟨-, -, -, spine, gov⟩ := herd
  have own := congrArg (fun v => tget v r) routers
  simp only [tget, Fin.getElem_fin, Vector.getElem_map, Prod.mk.injEq] at own
  unfold upToDate
  rw [spine, gov]
  exact Iff.of_eq (congrArg₂ And (congrArg (· = _) own.1) (congrArg (· = _) own.2))

/-! ### The routers of the sector -/

section Routers
variable (s : State)

/-- Gated clusters start, and nothing of the Herdsman changes. -/
def Awake (s t : State) : Prop := t.herd = s.herd ∧ ∀ r, routerRuns s r = true → routerRuns t r = true

theorem awake_ungate (c : ClusterId) : Awake s (ungate s c) := by
  unfold ungate
  split
  · obtain ⟨ro, frame⟩ := foldl_updR_frame (l := clusterRouters c) (f := fun s r => updR s r (fun x => { x with
      govLevel := s.herd.govLevel, govNext := none })) (fun _ _ => ⟨_, rfl⟩)
      (updAon s (fun a => { a with gated := a.gated &&& ~~~ (1#24 <<< c.val) }))
    rw [frame]
    refine ⟨rfl, fun r live => ?_⟩
    simp only [routerRuns, clusterRuns, clocksRun, updAon, ungatedBit, Bool.and_eq_true, Bool.not_eq_true',
      Bool.and_eq_false_iff] at live ⊢
    exact ⟨⟨⟨live.1.1.1, .inr live.1.1.2⟩, live.1.2⟩, live.2⟩
  · exact ⟨rfl, fun _ live => live⟩

theorem awake_foldl (l : List RouterId) : Awake s (l.foldl (fun s r => ungate s (clusterOf r)) s) := by
  induction l generalizing s with
  | nil => exact ⟨rfl, fun _ live => live⟩
  | cons r l ih =>
    obtain ⟨herd, live⟩ := awake_ungate s (clusterOf r)
    obtain ⟨herd', live'⟩ := ih (ungate s (clusterOf r))
    exact ⟨herd'.trans herd, fun r is => live' r (live r is)⟩

/-- A running router takes up what the Herdsman relays. -/
def takeUp (s : State) (r : RouterId) : State :=
  if routerRuns s r then updR s r (fun x => { x with
    spineUp := s.herd.spineUp, govLevel := s.herd.govLevel, govNext := none }) else s

theorem takeUp_frame (r : RouterId) : ∃ ro, takeUp s r = { s with routers := ro } := by
  unfold takeUp
  split
  · exact ⟨_, rfl⟩
  · exact ⟨_, rfl⟩

theorem takeUp_keeps (r : RouterId) {q : RouterId} (has : upToDate s q) : upToDate (takeUp s r) q := by
  unfold takeUp
  split
  · by_cases same : r = q
    · subst same
      exact ⟨congrArg Router.spineUp (rtr_updR_same ..), congrArg Router.govLevel (rtr_updR_same ..)⟩
    · rw [upToDate, rtr_updR_ne _ _ _ _ same]
      exact has
  · exact has

theorem takeUp_takes {r : RouterId} (live : routerRuns s r = true) : upToDate (takeUp s r) r := by
  rw [takeUp, if_pos live]
  exact ⟨congrArg Router.spineUp (rtr_updR_same ..), congrArg Router.govLevel (rtr_updR_same ..)⟩

theorem takeUps_take (l : List RouterId) : (∃ ro, l.foldl takeUp s = { s with routers := ro }) ∧
    ∀ q, upToDate s q ∨ (q ∈ l ∧ routerRuns s q = true) → upToDate (l.foldl takeUp s) q := by
  induction l generalizing s with
  | nil => exact ⟨⟨_, rfl⟩, fun q has => has.resolve_right (by simp)⟩
  | cons r l ih =>
    obtain ⟨ro, first⟩ := takeUp_frame s r
    obtain ⟨⟨ro', rest⟩, all⟩ := ih (takeUp s r)
    refine ⟨⟨ro', by rw [List.foldl_cons, rest, first]⟩, fun q has => all q ?_⟩
    have live : routerRuns (takeUp s r) q = routerRuns s q := by rw [first]; rfl
    rw [live]
    rcases has with has | ⟨mem, runs⟩
    · exact .inl (takeUp_keeps s r has)
    · rcases List.mem_cons.mp mem with rfl | mem
      · exact .inl (takeUp_takes s runs)
      · exact .inr ⟨mem, runs⟩

end Routers

/-- The Herdsman has passed on the generations that the sector missed. -/
def gensPassed (sec : SectorId) (h : Herd) : Herd :=
  { h with
    gens := tmap h.gens (fun o g => if slotSector o == sec then g + tget h.gensLate o else g)
    gensLate := tmap h.gensLate (fun o g => if slotSector o == sec then 0 else g) }

theorem sector_returns {s : State} {sec : SectorId} (runs : herdRuns s = true) (missed : sectorOk s sec = false) :
    ∃ t, exec (.sectorReturn sec) s = .next t ∧ sectorOk t sec = true ∧
      (∀ o, slotSector o = sec → tget t.herd.gens o = tget s.herd.gens o + tget s.herd.gensLate o ∧
        tget t.herd.gensLate o = 0) ∧
      (∀ r, sectorOf r = sec → routerRuns s r = true → (rtr t r).spineUp = s.herd.spineUp ∧
        (rtr t r).govLevel = s.herd.govLevel) := by
  refine ⟨_, congrArg Host.Outcome.next (if_neg (by simp [runs, missed])), ?_⟩
  extract_lets late s1 s2 s3 s4 s5 s6
  obtain ⟨herd, live⟩ : Awake s1 s2 := awake_foldl s1 _
  obtain ⟨⟨ro, routers⟩, taken⟩ := takeUps_take s2 (sectorRouters sec)
  have routers : s3 = { s2 with routers := ro } := routers
  have fresh (r : RouterId) (here : sectorOf r = sec) (runs : routerRuns s r = true) : upToDate s3 r :=
    taken r (.inr ⟨List.mem_filter.mpr ⟨List.mem_finRange r, by simp [here]⟩, live r runs⟩)
  have same : view relayed s4 = view relayed s3 := view_foldl fun u n => relayed_catchUpNi u n
  have last : view relayed (mendSplit s6 sec) = view relayed s5 :=
    (relayed_mendSplit s6 sec).trans (relayed_resendSels s5 _)
  have herd3 : s3.herd = gensPassed sec s.herd := by
    rw [routers]
    exact herd
  obtain ⟨known, -⟩ := Prod.mk.inj same
  obtain ⟨ends, -⟩ := Prod.mk.inj last
  simp only [Prod.mk.injEq] at known ends
  obtain ⟨-, gens, gensLate, spineUp, govLevel⟩ := known
  obtain ⟨rounds, gens', gensLate', spineUp', govLevel'⟩ := ends
  rw [herd3] at gens gensLate spineUp govLevel
  refine ⟨?_, fun o here => ⟨?_, ?_⟩, fun r here runs => ?_⟩
  · have own := congrArg (fun v => tget v sec) rounds
    simp only [tget, Fin.getElem_fin, Vector.getElem_map] at own
    exact own.trans (congrArg MilkRound.reachable (roundStep_updRound s4 sec _).1)
  · exact (congrArg (fun v => tget v o) (gens'.trans gens)).trans ((tget_tmap ..).trans (if_pos (by simp [here])))
  · exact (congrArg (fun v => tget v o) (gensLate'.trans gensLate)).trans ((tget_tmap ..).trans (if_pos (by simp [here])))
  · have now : upToDate (mendSplit s6 sec) r :=
      (upToDate_congr last r).mpr (show upToDate s4 r from (upToDate_congr same r).mpr (fresh r here runs))
    exact ⟨now.1.trans (spineUp'.trans spineUp), now.2.trans (govLevel'.trans govLevel)⟩

/-- Settles O48. -/
theorem milkRounds : Obligations.MilkRounds := by
  intro s sec runs
  refine ⟨fun stop ws dist f ok whole reads is dst low live clocked => mgRd_answers runs ok whole reads is dst low live clocked,
    fun stop ws dist f i p v ok whole reads is dst low live clocked place fits value noMap noList wfA wfB =>
      mgWr_writes runs ok whole reads is dst low live clocked place fits value noMap noList wfA wfB,
    fun stop ws dist i ok is bad => badFrame_counted runs ok is bad,
    fun ws dist rest f ok front whole reads is dst => mgResp_taken runs ok front whole reads is dst,
    fun ws dist f ok whole reads => ⟨token_returns runs ok whole reads, fun ev => event_passedOn runs ok whole reads⟩,
    fun tag tag' ws k ok => frame_timesOut runs ok, fun silent ok => steward_lost runs ok, sector_returns runs⟩

end Sys2Proof.Proofs

/-! ## Fences and tags that end, and commits taken up by a member (R140, R141, R163, R193): O21, O23. -/

namespace Sys2Proof.Proofs
open Sys2Proof.Machine Sys2Proof.Safety

/-! ### Work of one NI -/

/-- Only NI `n` has worked, and it is now `x`. -/
def NiStep (n : Slot) (s t : State) (x : NI) : Prop := nif t n = x ∧ niFrame n s t

section Steps
variable {n : Slot} {s t u : State} {x y : NI}

theorem niFrame_trans (first : niFrame n s t) (second : niFrame n t u) : niFrame n s u := by
  obtain ⟨others, routers, spine, ⟨r1, r2, r3, r4, r5, r6, r7, r8, r9⟩, reports, counts, tallies⟩ := first
  obtain ⟨others', routers', spine', ⟨q1, q2, q3, q4, q5, q6, q7, q8, q9⟩, reports', counts', tallies'⟩ := second
  refine ⟨fun m out => (others' m out).trans (others m out), routers'.trans routers, spine'.trans spine,
    ⟨q1.trans r1, q2.trans r2, q3.trans r3, q4.trans r4, q5.trans r5, q6.trans r6, q7.trans r7, q8.trans r8, q9.trans r9⟩,
    ?_, ?_, ?_⟩
  · rw [onlyReports, reports', reports]
  · rw [onlyCounts, counts', counts]
  · rw [onlyTallies, tallies', tallies]

theorem NiStep.trans (first : NiStep n s t x) (second : NiStep n t u y) : NiStep n s u y :=
  ⟨second.1, niFrame_trans first.2 second.2⟩

theorem niStep_refl (s : State) (n : Slot) : NiStep n s s (nif s n) :=
  ⟨rfl, fun _ _ => rfl, rfl, rfl, ⟨rfl, rfl, rfl, rfl, rfl, rfl, rfl, rfl, rfl⟩, rfl, rfl, rfl⟩

theorem niStep_updN (s : State) (n : Slot) (f : NI → NI) : NiStep n s (updN s n f) (f (nif s n)) :=
  ⟨nif_updN_same .., fun _ out => nif_updN_ne _ _ _ _ (Ne.symm out), rfl, rfl,
    ⟨rfl, rfl, rfl, rfl, rfl, rfl, rfl, rfl, rfl⟩, rfl, rfl, rfl⟩

theorem Counts.niStep (counts : Counts s t) (n : Slot) : NiStep n s t (nif s n) := by
  obtain ⟨v, o, k, evs, rfl⟩ := counts
  exact ⟨rfl, fun _ _ => rfl, rfl, rfl, ⟨rfl, rfl, rfl, rfl, rfl, rfl, rfl, rfl, rfl⟩, rfl, rfl, rfl⟩

/-- One more change of the NI. -/
theorem NiStep.updN (step : NiStep n s t x) (f : NI → NI) : NiStep n s (updN t n f) (f x) :=
  step.trans (by
    have := niStep_updN t n f
    rwa [step.1] at this)

theorem NiStep.counts (step : NiStep n s t x) (counts : Counts t u) : NiStep n s u x :=
  step.trans (by
    have := counts.niStep n
    rwa [step.1] at this)

theorem NiStep.ite {c : Prop} [Decidable c] (yes : NiStep n s t x) (no : NiStep n s u x) :
    NiStep n s (if c then t else u) x := by
  split
  · exact yes
  · exact no

/-- An NI without requests has none after work that brings none. -/
theorem NiStep.idle (step : NiStep n s t x) (fifo : x.reqFifo = (nif s n).reqFifo) (store : x.store = (nif s n).store)
    (idle : storeIdle s n) : storeIdle t n := by
  obtain ⟨own, -, -, -, -, reports, -, tallies⟩ := step
  exact storeIdle_congr (by rw [own, fifo]) (by rw [own, store]) (congrArg Herd.memOut reports :)
    (congrArg Can.memOut tallies :) idle

/-- The responses that remain when discarded ones have left. -/
theorem NiStep.dropDiscarded (step : NiStep n s t x) : ∃ (gone : List Nat) (order : _) (ooo : _), NiStep n s (dropDiscarded t n) { x with
    reqs := x.reqs.filter (fun r => !gone.contains r.num), order := order, rspOoo := ooo } := by
  unfold Machine.dropDiscarded
  dsimp only
  split
  · refine ⟨[], x.order, x.rspOoo, ?_⟩
    have all : x.reqs.filter (fun r => !([] : List Nat).contains r.num) = x.reqs := List.filter_eq_self.mpr (by simp)
    rw [all]
    exact step
  · have gone := step.updN (fun x => { x with
      reqs := x.reqs.filter (fun r => !(discardedNow (nif t n)).contains r.num)
      order := tmap x.order (fun _ l => l.filter (fun q => !(discardedNow (nif t n)).contains q)) })
    exact ⟨_, _, _, gone.updN _⟩

end Steps

/-! ### Fences (R163) -/

theorem takeLost_counts (x : NI) (f : Fence) : ∃ lost, (takeLost x f).2 = { x with lostStores := lost } := by
  unfold takeLost
  split
  · split <;> exact ⟨_, rfl⟩
  · exact ⟨_, rfl⟩

/-- An NI whose fence has completed. -/
def fenced (f : Fence) (x : NI) : NI :=
  { (takeLost x f).2 with
    fences := (takeLost x f).2.fences.filter (fun g => g.req != f.req)
    reqs := (takeLost x f).2.reqs.map (fun r => if r.num = f.req then
      { r with aux := BitVec.ofNat 16 (takeLost x f).1, whole := if (takeLost x f).1 = 0 then .ok else .lost
               lines := [some (noLine .ok .ok (fDest r.head))] } else r) }

section Master
variable {s : State} {n : Slot} (runs : niRuns s n = true) (isOpen : (nif s n).closed = false)
include runs

theorem fence_completes {f : Fence} (isOpen : (nif s n).closed = false) (idle : storeIdle s n)
    (first : (nif s n).fences.find? (fun q => q.wait.isEmpty) = some f) :
    ∃ t, exec (.fenceComplete n) s = .next t ∧
      (nif t n).fences = (nif s n).fences.filter (fun q => q.req != f.req) ∧
      (nif t n).lostStores = (takeLost (nif s n) f).2.lostStores ∧
      (∀ r ∈ (nif t n).reqs, r.num = f.req → r.aux = BitVec.ofNat 16 (takeLost (nif s n) f).1 ∧
        r.whole = (if (takeLost (nif s n) f).1 = 0 then Status.ok else .lost)) ∧ niFrame n s t := by
  have run : exec (.fenceComplete n) s = .next (processStore (if (takeLost (nif s n) f).1 = 0
      then dropDiscarded (updN s n (fun _ => fenced f (nif s n))) n
      else countN (dropDiscarded (updN s n (fun _ => fenced f (nif s n))) n) n 0x0B) n) := by
    show execFenceComplete n s = _
    unfold execFenceComplete
    dsimp only
    rw [if_pos (by simp [runs, isOpen]), first]
    rfl
  obtain ⟨gone, order, ooo, dropped⟩ := (niStep_updN s n (fun _ => fenced f (nif s n))).dropDiscarded
  have step := dropped.ite (c := (takeLost (nif s n) f).1 = 0) (dropped.counts (counts_countN _ n 0x0B none none 1))
  obtain ⟨lost, kept⟩ := takeLost_counts (nif s n) f
  have fenced_ : fenced f (nif s n) = { nif s n with
      lostStores := lost
      fences := (nif s n).fences.filter (fun g => g.req != f.req)
      reqs := (nif s n).reqs.map (fun r => if r.num = f.req then
        { r with aux := BitVec.ofNat 16 (takeLost (nif s n) f).1
                 whole := if (takeLost (nif s n) f).1 = 0 then .ok else .lost
                 lines := [some (noLine .ok .ok (fDest r.head))] } else r) } := by
    rw [fenced, kept]
  have idle := step.idle (by rw [fenced_]) (by rw [fenced_]) idle
  rw [processStore_idle idle] at run
  obtain ⟨own, frame⟩ := step
  refine ⟨_, run, ?_, ?_, fun r mem num => ?_, frame⟩
  · rw [own, fenced_]
  · rw [own, fenced_, kept]
  · rw [own, fenced_] at mem
    obtain ⟨q, -, rfl⟩ := List.mem_map.mp (List.mem_filter.mp mem).1
    by_cases mine : q.num = f.req
    · rw [if_pos mine]
      exact ⟨rfl, rfl⟩
    · rw [if_neg mine] at num
      exact absurd num mine

/-! ### Tags (R140, R141) -/

/-- What stands before an NI to be worked on. -/
def intake (x : NI) := (x.reqFifo, x.store)

omit runs in
theorem markInexact_keeps (x : NI) (canon : List (GroupId × Nat)) : ∃ gr, markInexact x canon = { x with groups := gr } := by
  induction canon generalizing x with
  | nil => exact ⟨_, rfl⟩
  | cons c canon ih =>
    obtain ⟨gr, rest⟩ := ih { x with groups := tupd x.groups c.1 (fun q => { q with
      inexact := if q.inexact.contains c.2 then q.inexact else q.inexact ++ [c.2]
      close := q.close.map (fun w => if lepLe c.2 w.lep then { w with inexact := true } else w) }) }
    exact ⟨gr, rest⟩

omit runs in
/-- A tag declared lost is quarantined; nothing else happens to the tags or to what waits. -/
theorem declareLost_quarantines (x : NI) (t : TagEnt) : intake (declareLost x t) = intake x ∧
    (declareLost x t).tags = x.tags.map (fun e => if e.tag = t.tag then { e with quarantined := true } else e) := by
  unfold declareLost
  extract_lets y z w v
  have one : intake z = intake x ∧ z.tags = x.tags := by
    simp only [z, countLost]
    split <;> exact ⟨rfl, rfl⟩
  have two : intake w = intake x ∧ w.tags = x.tags := by
    simp only [w]
    split
    · exact one
    · obtain ⟨gr, is⟩ := markInexact_keeps z t.canon
      rw [is]
      exact one
  have three : intake v = intake x ∧ v.tags = x.tags.map (fun e => if e.tag = t.tag then { e with quarantined := true } else e) :=
    ⟨two.1, congrArg (List.map _) two.2⟩
  split
  · exact three
  · exact three

section Tags
variable {tag : TagId} {e : TagEnt} (isOpen : (nif s n).closed = false)
  (known : (nif s n).tags.find? (fun q => decide (q.tag = tag.val)) = some e) (idle : storeIdle s n)
include known idle

include isOpen in
theorem tag_quarantined (notHerd : n ≠ herdSlot) (injected : e.injected = true) (free : e.quarantined = false)
    (ages : ageHeld (nif s n) e = false) (old : e.epoch + cfgN s n itStoreLoss 0 + 1 ≤ epochN s n) :
    ∃ t, exec (.tagLost n tag) s = .next t ∧
      (∀ q ∈ (nif t n).tags, q.tag = e.tag → q.quarantined = true) ∧
      (nif t n).tags.map (·.tag) = (nif s n).tags.map (·.tag) ∧ niFrame n s t := by
  have run : exec (.tagLost n tag) s = .next (processStore (dropDiscarded (updN (countN s n 0x07) n
      (fun x => declareLost x e)) n) n) := by
    show execTagLost n tag s = _
    unfold execTagLost
    dsimp only
    rw [if_pos (by simp [runs, isOpen]), known]
    dsimp only
    rw [if_pos (by simp [injected, free, ages, old]), if_neg (by simp [notHerd])]
  obtain ⟨gone, order, ooo, step⟩ := ((Counts.niStep (counts_countN s n 0x07 none none 1) n).updN
    (fun x => declareLost x e)).dropDiscarded
  obtain ⟨kept, tags⟩ := declareLost_quarantines (nif s n) e
  have idle := step.idle (congrArg Prod.fst kept) (congrArg Prod.snd kept) idle
  rw [processStore_idle idle] at run
  obtain ⟨own, frame⟩ := step
  have own : (nif _ n).tags = _ := (congrArg NI.tags own).trans tags
  refine ⟨_, run, fun q mem same => ?_, ?_, frame⟩
  · rw [own] at mem
    obtain ⟨p, -, rfl⟩ := List.mem_map.mp mem
    split
    · rfl
    · next other => exact absurd (by rwa [if_neg other] at same) other
  · rw [own, List.map_map]
    refine List.map_congr_left fun q _ => ?_
    dsimp only [Function.comp]
    split <;> rfl

theorem quarantine_ends (quarantined : e.quarantined = true)
    (old : e.epoch + 2 * cfgN s n itStoreLoss 0 + 1 ≤ epochN s n) : ∃ t, exec (.quarantineEnd n tag) s = .next t ∧
      (nif t n).tags = (nif s n).tags.filter (fun q => q.tag != e.tag) ∧ niFrame n s t := by
  have step := niStep_updN s n (fun x => dropTag x e.tag)
  have run : exec (.quarantineEnd n tag) s = .next (processStore (updN s n (fun x => dropTag x e.tag)) n) := by
    show execQuarantineEnd n tag s = _
    unfold execQuarantineEnd
    dsimp only
    rw [if_pos runs, known]
    exact congrArg Host.Outcome.next (if_pos (by simp [quarantined, old]))
  rw [processStore_idle (step.idle rfl rfl idle)] at run
  exact ⟨_, run, congrArg NI.tags step.1, step.2⟩

end Tags
end Master

/-- Settles O21. -/
theorem fencesAndTagsEnd : Obligations.FencesAndTagsEnd :=
  ⟨fun _ _ _ runs isOpen idle first => fence_completes runs isOpen idle first,
    fun _ _ _ _ runs isOpen notHerd idle known =>
      ⟨tag_quarantined runs isOpen known idle notHerd, quarantine_ends runs known idle⟩⟩

/-! ### A member's commits (R193) -/

/-- A group of a member whose due commits, at epoch `now`, are taken up. -/
def committed (now : Nat) (q : NiGroup) : NiGroup :=
  { q with
    cm := (q.cmNext.filter (fun c => decide (c.2 ≤ now))).foldl (fun m c => if lepLt m c.1 then c.1 else m) q.cm
    cmNext := q.cmNext.filter (fun c => !decide (c.2 ≤ now)) }

section Member
variable {s : State} {n : Slot} {g : GroupId} (runs : niRuns s n = true) (active : (grpOf (nif s n) g).state = .active)

theorem updG_group (f : NiGroup → NiGroup) : grpOf (nif (updG s n g f) n) g = f (grpOf (nif s n) g) :=
  (congrArg (fun x => grpOf x g) (nif_updN_same ..)).trans (tget_tupd ..)

theorem updG_others (f : NiGroup → NiGroup) {h : GroupId} (other : h ≠ g) :
    grpOf (nif (updG s n g f) n) h = grpOf (nif s n) h :=
  (congrArg (fun x => grpOf x h) (nif_updN_same ..)).trans (tget_tupd_ne _ _ _ _ (Ne.symm other))

theorem updG_congr {f f' : NiGroup → NiGroup} (same : f (grpOf (nif s n) g) = f' (grpOf (nif s n) g)) :
    updG s n g f = updG s n g f' :=
  congrArg (fun v => ({ s with nis := v } : State)) (tupd_congr
    (congrArg (fun v => ({ nif s n with groups := v } : NI)) (tupd_congr same)))

include runs active

theorem memberCommit_runs {c : Nat × Nat} (mem : c ∈ (grpOf (nif s n) g).cmNext) (due : c.2 ≤ epochN s n) :
    exec (.curdMemberCommit n g) s = .next (processStore (updG s n g (committed (epochN s n))) n) := by
  have some_ : (grpOf (nif s n) g).cmNext.filter (fun c => decide (c.2 ≤ epochN s n)) ≠ [] :=
    List.ne_nil_of_mem (List.mem_filter.mpr ⟨mem, by simp [due]⟩)
  show execCurdMemberCommit n g s = _
  unfold execCurdMemberCommit
  dsimp only
  rw [if_pos (by simp only [runs, active]; simpa using some_)]
  exact congrArg (fun v => Host.Outcome.next (processStore v n)) (updG_congr rfl)

theorem memberCommit_commits {c : Nat × Nat} (mem : c ∈ (grpOf (nif s n) g).cmNext) (due : c.2 ≤ epochN s n) :
    ∃ u, exec (.curdMemberCommit n g) s = .next (processStore u n) ∧
      (grpOf (nif u n) g).cm = ((grpOf (nif s n) g).cmNext.filter (fun c => decide (c.2 ≤ epochN s n))).foldl
        (fun m c => if lepLt m c.1 then c.1 else m) (grpOf (nif s n) g).cm ∧
      (∀ d, d ∈ (grpOf (nif u n) g).cmNext ↔ d ∈ (grpOf (nif s n) g).cmNext ∧ epochN s n < d.2) ∧
      (∀ h, h ≠ g → grpOf (nif u n) h = grpOf (nif s n) h) ∧ u = { s with nis := u.nis } ∧ otherNis n s u := by
  have own := updG_group (s := s) (n := n) (g := g) (committed (epochN s n))
  refine ⟨_, memberCommit_runs runs active mem due, congrArg NiGroup.cm own, fun d => ?_, fun h => updG_others _, rfl,
    (niStep_updN s n _).2.1⟩
  rw [show (grpOf (nif _ n) g).cmNext = _ from congrArg NiGroup.cmNext own]
  simp [committed]

theorem memberCommit_one {l q : Nat} (idle : storeIdle s n) (one : (grpOf (nif s n) g).cmNext = [(l, q)])
    (due : q ≤ epochN s n) (later : lepLt (grpOf (nif s n) g).cm l = true) :
    ∃ t, exec (.curdMemberCommit n g) s = .next t ∧ (grpOf (nif t n) g).cm = l ∧ (grpOf (nif t n) g).cmNext = [] ∧
      (∀ h, h ≠ g → grpOf (nif t n) h = grpOf (nif s n) h) ∧ niFrame n s t := by
  have run := memberCommit_runs runs active (c := (l, q)) (by rw [one]; exact List.mem_singleton_self _) due
  have step : NiStep n s (updG s n g (committed (epochN s n))) _ := niStep_updN s n _
  rw [processStore_idle (step.idle rfl rfl idle)] at run
  have own := updG_group (s := s) (n := n) (g := g) (committed (epochN s n))
  have is : (committed (epochN s n) (grpOf (nif s n) g)).cm = l ∧ (committed (epochN s n) (grpOf (nif s n) g)).cmNext = [] := by
    simp [committed, one, due, later]
  exact ⟨_, run, (congrArg NiGroup.cm own).trans is.1, (congrArg NiGroup.cmNext own).trans is.2, fun h => updG_others _, step.2⟩

omit runs active in
theorem memberCommit_waits (early : ∀ c ∈ (grpOf (nif s n) g).cmNext, epochN s n < c.2) :
    exec (.curdMemberCommit n g) s = .next s := by
  have none_ : (grpOf (nif s n) g).cmNext.filter (fun c => decide (c.2 ≤ epochN s n)) = [] :=
    List.filter_eq_nil_iff.mpr fun c mem => by simpa using early c mem
  exact congrArg Host.Outcome.next (if_neg (by rw [none_]; simp))

end Member

/-- Settles O23. -/
theorem memberCommits : Obligations.MemberCommits := fun _ _ _ runs active =>
  ⟨fun _ mem due => memberCommit_commits runs active mem due, fun _ _ => memberCommit_one runs active, memberCommit_waits⟩

end Sys2Proof.Proofs

/-! ## Responses at the master: O20. -/

namespace Sys2Proof.Proofs
open Sys2Proof.Machine Sys2Proof.Safety

/-! ### Work of one NI at its local port -/

/-- Only NI `n` has worked, with its router, and it is now `x`. -/
def PortStep (n : Slot) (s t : State) (x : NI) : Prop :=
  nif t n = x ∧ otherNis n s t ∧ t.spine = s.spine ∧ sameRest s t ∧ onlyReports s t ∧ onlyCounts s t ∧ t.can = s.can

theorem counts_logLocalParities (s : State) (n : Slot) (h : Flit) (bad : List Nat) :
    Counts s (logLocalParities s n h bad) :=
  counts_foldl (f := fun s _ => logLocalParity s n h) (fun s _ => counts_report s _) s

section Port
variable {n : Slot} {s t u : State} {x y : NI}

theorem PortStep.trans (first : PortStep n s t x) (second : PortStep n t u y) : PortStep n s u y := by
  obtain ⟨-, others, spine, ⟨r1, r2, r3, r4, r5, r6, r7, r8, r9⟩, reports, counts, can⟩ := first
  obtain ⟨own, others', spine', ⟨q1, q2, q3, q4, q5, q6, q7, q8, q9⟩, reports', counts', can'⟩ := second
  refine ⟨own, fun m out => (others' m out).trans (others m out), spine'.trans spine,
    ⟨q1.trans r1, q2.trans r2, q3.trans r3, q4.trans r4, q5.trans r5, q6.trans r6, q7.trans r7, q8.trans r8, q9.trans r9⟩,
    ?_, ?_, can'.trans can⟩
  · rw [onlyReports, reports', reports]
  · rw [onlyCounts, counts', counts]

theorem portStep_refl (s : State) (n : Slot) : PortStep n s s (nif s n) :=
  ⟨rfl, fun _ _ => rfl, rfl, ⟨rfl, rfl, rfl, rfl, rfl, rfl, rfl, rfl, rfl⟩, rfl, rfl, rfl⟩

theorem PortStep.updN (step : PortStep n s t x) (f : NI → NI) : PortStep n s (updN t n f) (f x) := by
  refine step.trans ⟨?_, fun _ out => nif_updN_ne _ _ _ _ (Ne.symm out), rfl,
    ⟨rfl, rfl, rfl, rfl, rfl, rfl, rfl, rfl, rfl⟩, rfl, rfl, rfl⟩
  rw [nif_updN_same, step.1]

theorem PortStep.counts (step : PortStep n s t x) (counts : Counts t u) : PortStep n s u x := by
  refine step.trans ⟨?_, ?_⟩
  · rw [nif, counts.nodes.2.1]
    exact step.1
  · obtain ⟨can, rest, reports, tallies⟩ := counts.rest
    obtain ⟨-, nis, spine⟩ := counts.nodes
    exact ⟨fun m _ => by rw [nif, nif, nis], spine, rest, reports, tallies, can⟩

/-- An NI whose ejection buffer has lost its front. -/
def ejected (vc : VcId) (len : Nat) (x : NI) : NI :=
  { x with
    ej := tupd x.ej vc (fun l => l.drop len)
    ejGate := tupd x.ejGate vc (fun l => if (ejBad x vc).isSome then l else l.drop 1) }

theorem PortStep.ejPop (step : PortStep n s t x) (vc : VcId) (len : Nat) :
    PortStep n s (ejPop t n vc len) (ejected vc len x) :=
  (step.updN (ejected vc len)).trans (by
    have own := (step.updN (ejected vc len)).1
    exact ⟨own, fun _ _ => rfl, rfl, ⟨rfl, rfl, rfl, rfl, rfl, rfl, rfl, rfl, rfl⟩, rfl, rfl, rfl⟩)

theorem PortStep.checkFlit (step : PortStep n s t x) (fixed tag : Nat) (bad : List Nat) :
    PortStep n s (bad.foldl (fun s w => repNi (countN s n 0x06) n .dataUncorrectable (w * 2 ^ 16 + tag))
      (countNFix (Machine.updN t n (fun x => { x with corrected := x.corrected + fixed })) n 5 fixed))
      { x with corrected := x.corrected + fixed } :=
  ((step.updN (fun x => { x with corrected := x.corrected + fixed })).counts (u := countNFix _ n 5 fixed)
    (counts_bump ..)).counts (counts_foldl (fun s _ => (counts_countN s n 0x06 none none 1).trans (counts_report ..)) _)

/-- The check of one flit of a packet. -/
def checkStep (n : Slot) (op : BitVec 6) (len : Nat) (quiet : List Nat) (acc : State × Packet) (f : Flit × Nat) :
    State × Packet :=
  ((if quiet.contains f.2 then [] else (checkData op len f.2 (clearUnused op len f.2 f.1)).2.2).foldl (fun s w =>
      repNi (countN s n 0x06) n .dataUncorrectable (w * 2 ^ 16 + fTag f.1))
      (countNFix (Machine.updN acc.1 n (fun x => { x with
        corrected := x.corrected + (checkData op len f.2 (clearUnused op len f.2 f.1)).2.1 })) n 5
        (checkData op len f.2 (clearUnused op len f.2 f.1)).2.1),
    acc.2 ++ [(checkData op len f.2 (clearUnused op len f.2 f.1)).1])

theorem checkOut_steps (s : State) (n : Slot) (pkt : Packet) (quiet : List Nat) : checkOut s n pkt quiet =
    pkt.zipIdx.foldl (checkStep n (fOp (hd pkt)) (pkt.length - 1) quiet) (s, []) := rfl

/-- Checking flits counts corrections, and logs. -/
theorem PortStep.checkSteps (op : BitVec 6) (len : Nat) (quiet : List Nat) (l : List (Flit × Nat)) {acc : State × Packet}
    (step : PortStep n s acc.1 x) :
    ∃ c, PortStep n s (l.foldl (checkStep n op len quiet) acc).1 { x with corrected := c } := by
  induction l generalizing acc x with
  | nil => exact ⟨_, step⟩
  | cons f l ih =>
    have one : PortStep n s (checkStep n op len quiet acc f).1 { x with
        corrected := x.corrected + (checkData op len f.2 (clearUnused op len f.2 f.1)).2.1 } := step.checkFlit _ _ _
    obtain ⟨c, rest⟩ := ih one
    exact ⟨c, rest⟩

theorem PortStep.checkOut (step : PortStep n s t x) (pkt : Packet) (quiet : List Nat) :
    ∃ c, PortStep n s (checkOut t n pkt quiet).1 { x with corrected := c } := by
  rw [checkOut_steps]
  exact PortStep.checkSteps _ _ _ _ (acc := (t, [])) step

theorem PortStep.checkIn (step : PortStep n s t x) (pkt : Packet) :
    ∃ c, PortStep n s (checkIn t n pkt).1 { x with corrected := c } := by
  unfold Machine.checkIn
  exact (step.counts (counts_logLocalParities t n (hd pkt) _)).checkOut _ _

theorem PortStep.idle (step : PortStep n s t x) (same : intake x = intake (nif s n)) (idle : storeIdle s n) :
    storeIdle t n := by
  obtain ⟨own, -, -, -, reports, -, can⟩ := step
  exact storeIdle_congr (by rw [own]; exact congrArg Prod.fst same) (by rw [own]; exact congrArg Prod.snd same)
    (congrArg Herd.memOut reports :) (congrArg Can.memOut can :) idle

end Port

/-! ### A response meets its tag (R114, R141) -/

/-- What a response that needs nothing more makes of the NI. -/
def answered_ (e : TagEnt) (rsp : Packet) (x : NI) : NI :=
  fillReq (pidDone (dropTag x e.tag) e.pid) e (if isLock (fOp e.head) then fAux (hd rsp) else 0) (pieceLine e rsp)

section Response
variable {s : State} {n : Slot} {e : TagEnt}

theorem takeResponse_plain (u : State) (rsp : Packet) (canon : e.canon = []) (orphan : e.orphan = false)
    (posted : e.posted = false) (own : e.own = false) : takeResponse u n e rsp = updN u n (answered_ e rsp) := by
  have same : updN u n (fun x => markInexact x e.canon) = u := by
    rw [canon]
    exact congrArg (fun v => ({ u with nis := v } : State)) (Vector.set_getElem_self _)
  unfold takeResponse
  dsimp only
  rw [same, ite_self, if_neg (by simp [canon]), if_neg (by simp [posted])]
  have grant : orphanGrant e rsp = false := by simp [orphanGrant, orphan]
  rw [grant, posted, own]
  rfl

/-- The lines of its request that a response brings stand filled. -/
theorem answered_fills (x : NI) (rsp : Packet) : ∀ r ∈ (answered_ e rsp x).reqs, r.num = e.req →
    ∀ i, e.base ≤ i → i < e.base + e.nlines → i < r.lines.length → e.codes.getD (i - e.base) .ok = .ok →
      ∃ l, r.lines[i]? = some (some l) := by
  intro r mem num i low high short code
  obtain ⟨q, -, rfl⟩ := List.mem_map.mp mem
  by_cases mine : q.num = e.req
  · rw [if_pos mine] at short ⊢
    simp only [List.length_map, List.length_zipIdx] at short
    have line : ∃ l, pieceLine e rsp (i - e.base) = some l := ⟨_, if_neg (by rw [code]; decide)⟩
    obtain ⟨l, line⟩ := line
    refine ⟨l, ?_⟩
    simp only [List.getElem?_map, List.getElem?_zipIdx, List.getElem?_eq_getElem short, Option.map_some, Nat.zero_add]
    rw [if_pos (by simp [low, high]), line]
    rfl
  · rw [if_neg mine] at num
    exact absurd num mine

/-- No response has been discarded, and none is. -/
theorem dropDiscarded_none {u : State} (kept : ∀ r ∈ (nif u n).reqs, r.discard = false) : dropDiscarded u n = u := by
  have none_ : discardedNow (nif u n) = [] := by
    rw [discardedNow, List.filter_eq_nil_iff.mpr fun r mem => by simp [kept r mem]]
    rfl
  exact if_pos (by rw [none_]; rfl)

theorem ejBad_of_front {x : NI} {vc : VcId} {rsp : Packet} (front : ejFront x vc = some rsp) : ejBad x vc = none := by
  unfold ejFront at front
  unfold ejBad
  split at front
  · cases front
  · obtain ⟨⟨par, -⟩, -⟩ := Option.ite_none_right_eq_some.mp front
    exact if_pos par

/-- The ejection buffer and the identities of the requests are not of the response's concern. -/
theorem answered_keeps (x : NI) (rsp : Packet) : (answered_ e rsp x).ej = x.ej ∧
    (answered_ e rsp x).tags = x.tags.filter (fun q => q.tag != e.tag) ∧ intake (answered_ e rsp x) = intake x ∧
    (answered_ e rsp x).reqs.map (fun r => (r.num, r.discard)) = x.reqs.map (fun r => (r.num, r.discard)) := by
  refine ⟨rfl, rfl, rfl, List.map_map.trans (List.map_congr_left fun r _ => ?_)⟩
  dsimp only [Function.comp]
  split <;> rfl

theorem response_taken {vc : VcId} {rsp : Packet} (runs : niRuns s n = true) (which : vc = 2 ∨ vc = 3 ∨ vc = 5)
    (front : ejFront (nif s n) vc = some rsp) (idle : storeIdle s n) (inner : isHostLink n.val = false)
    (kept : ∀ r ∈ (nif s n).reqs, r.discard = false)
    (known : (nif s n).tags.find? (fun q => decide (q.tag = fTag (hd rsp)) && q.injected) = some e)
    (live : e.quarantined = false) (canon : e.canon = []) (orphan : e.orphan = false) (posted : e.posted = false)
    (own : e.own = false) : ∃ t, exec (.responseArrival n vc) s = .next t ∧
      (nif t n).tags = (nif s n).tags.filter (fun q => q.tag != e.tag) ∧
      (nif t n).reqs.map (·.num) = (nif s n).reqs.map (·.num) ∧
      (∀ r ∈ (nif t n).reqs, r.num = e.req → ∀ i, e.base ≤ i → i < e.base + e.nlines → i < r.lines.length →
        e.codes.getD (i - e.base) .ok = .ok → ∃ l, r.lines[i]? = some (some l)) ∧
      tget (nif t n).ej vc = (tget (nif s n).ej vc).drop rsp.length ∧
      otherNis n s t ∧ t.spine = s.spine ∧ sameRest s t ∧ onlyReports s t ∧ onlyCounts s t ∧ t.can = s.can := by
  have clean_ : ejBad (nif s n) vc = none := ejBad_of_front front
  have run : exec (.responseArrival n vc) s = .next (processStore (dropDiscarded (takeResponse
      (checkIn (ejPop s n vc rsp.length) n rsp).1 n e (checkIn (ejPop s n vc rsp.length) n rsp).2) n) n) := by
    show execResponseArrival n vc s = _
    unfold execResponseArrival withFront
    rw [if_pos (by rcases which with rfl | rfl | rfl <;> simp [runs]), clean_, front]
    dsimp only
    rw [known]
    dsimp only
    rw [live, if_neg (by simp), if_neg (by simp [laneRoom, inner]), putTally, if_neg (by simp [inner])]
  obtain ⟨c, checked⟩ := ((portStep_refl s n).ejPop vc rsp.length).checkIn rsp
  rw [takeResponse_plain _ _ canon orphan posted own] at run
  generalize (checkIn (ejPop s n vc rsp.length) n rsp).1 = u at run checked
  generalize (checkIn (ejPop s n vc rsp.length) n rsp).2 = rsp' at run
  obtain ⟨ej, tags, same, reqs⟩ := answered_keeps (e := e) { ejected vc rsp.length (nif s n) with corrected := c } rsp'
  have fills := answered_fills (e := e) { ejected vc rsp.length (nif s n) with corrected := c } rsp'
  have step := checked.updN (answered_ e rsp')
  generalize answered_ e rsp' { ejected vc rsp.length (nif s n) with corrected := c } = y at step ej tags same reqs fills
  have all : ∀ r ∈ (nif (updN u n (answered_ e rsp')) n).reqs, r.discard = false := by
    rw [step.1]
    intro r mem
    have : (r.num, r.discard) ∈ (nif s n).reqs.map (fun r => (r.num, r.discard)) := reqs ▸ List.mem_map.mpr ⟨r, mem, rfl⟩
    obtain ⟨q, mem, is⟩ := List.mem_map.mp this
    exact (Prod.mk.inj is).2 ▸ kept q mem
  rw [dropDiscarded_none all, processStore_idle (step.idle same idle)] at run
  obtain ⟨is, rest⟩ := step
  refine ⟨_, run, (congrArg NI.tags is).trans tags, ?_, ?_, ?_, rest⟩
  · rw [is]
    have nums := congrArg (List.map Prod.fst) reqs
    rwa [List.map_map, List.map_map] at nums
  · rw [is]
    exact fills
  · rw [is, ej]
    exact tget_tupd ..

end Response

/-! ### A response is delivered (R131, R139) -/

theorem NiStep.refreshOrder {n : Slot} {s t : State} {x : NI} (step : NiStep n s t x) :
    ∃ ooo, NiStep n s (refreshOrder t n) { x with rspOoo := ooo } := ⟨_, step.updN _⟩

section Delivery
variable {s : State} {n : Slot} {r : ReqEnt} (runs : niRuns s n = true) (isOpen : (nif s n).closed = false)
  (awake : (nif s n).reset = false) (notHerd : n ≠ herdSlot) (idle : storeIdle s n)
  (first : (nif s n).reqs.find? (fun q => !q.discard && mayDeliver (nif s n) q && (nextLines q).isSome) = some r)
include runs isOpen awake notHerd idle first

omit idle in
/-- The response written at the endpoint port. -/
theorem delivery_runs : exec (.responseDelivery n) s = .next (
    if r.done + nextCount r < r.lines.length then
      processStore (updN (updN (countN s n 0x04) n (fun x => putOut x (.rsp (deliverPkt r ((nextLines r).getD []))))) n
        (fun x => { x with reqs := x.reqs.map (fun q => if q.num = r.num then { q with done := q.done + nextCount q } else q) })) n
    else retireReq (updN (countN s n 0x04) n (fun x => putOut x (.rsp (deliverPkt r ((nextLines r).getD []))))) n r) := by
  show execResponseDelivery n s = _
  unfold execResponseDelivery
  dsimp only
  have written : (if (nif s n).reset then s else updN (countN s n 0x04) n
      (fun x => putOut x (.rsp (deliverPkt r ((nextLines r).getD []))))) =
      updN (countN s n 0x04) n (fun x => putOut x (.rsp (deliverPkt r ((nextLines r).getD [])))) := if_neg (by simp [awake])
  rw [if_pos (by simp [runs, isOpen]), first]
  dsimp only
  rw [written, if_neg notHerd]

theorem response_delivered : ∃ t, exec (.responseDelivery n) s = .next t ∧
    (nif t n).out = (nif s n).out ++ [.rsp (deliverPkt r ((nextLines r).getD []))] ∧
    (r.lines.length ≤ r.done + nextCount r →
      (nif t n).reqs = (nif s n).reqs.filter (fun q => q.num != r.num)) ∧
    (r.done + nextCount r < r.lines.length →
      ∃ q ∈ (nif t n).reqs, q.num = r.num ∧ q.done = r.done + nextCount r) ∧ niFrame n s t := by
  have run := delivery_runs runs isOpen awake notHerd first
  have written := ((niStep_refl s n).counts (counts_countN s n 0x04 none none 1)).updN
    (fun x => putOut x (.rsp (deliverPkt r ((nextLines r).getD []))))
  by_cases more : r.done + nextCount r < r.lines.length
  · rw [if_pos more] at run
    have step := written.updN (fun x => { x with
      reqs := x.reqs.map (fun q => if q.num = r.num then { q with done := q.done + nextCount q } else q) })
    rw [processStore_idle (step.idle rfl rfl idle)] at run
    obtain ⟨is, frame⟩ := step
    refine ⟨_, run, congrArg NI.out is, fun last => absurd more (Nat.not_lt.mpr last), fun _ => ?_, frame⟩
    have mem := List.mem_map_of_mem (f := fun q : ReqEnt => if q.num = r.num then { q with done := q.done + nextCount q } else q)
      (List.mem_of_find?_eq_some first)
    rw [if_pos rfl] at mem
    exact ⟨_, (congrArg (_ ∈ ·) (congrArg NI.reqs is)).mpr mem, rfl, rfl⟩
  · rw [if_neg more] at run
    obtain ⟨ooo, step⟩ := (written.updN (fun x => { x with
      reqs := x.reqs.filter (fun q => q.num != r.num)
      order := tmap x.order (fun _ l => l.filter (· != r.num)) })).refreshOrder
    rw [retireReq, processStore_idle (step.idle rfl rfl idle)] at run
    obtain ⟨is, frame⟩ := step
    exact ⟨_, run, congrArg NI.out is, fun _ => congrArg NI.reqs is, fun more_ => absurd more_ more, frame⟩

end Delivery

/-- Settles O20. -/
theorem responsesTakenAndDelivered : Obligations.ResponsesTakenAndDelivered :=
  ⟨fun _ _ _ _ _ runs which front idle inner kept known live canon orphan posted own =>
      response_taken runs which front idle inner kept known live canon orphan posted own,
    fun _ _ _ runs isOpen awake notHerd idle first => response_delivered runs isOpen awake notHerd idle first⟩

end Sys2Proof.Proofs

/-! ## Closes and commits on their way (R188–R193): O22, O24. -/

namespace Sys2Proof.Proofs
open Sys2Proof.Machine Sys2Proof.Safety

/-- Where all elements but one leave the state alone, that one alone acts. -/
theorem foldl_only {σ β : Type} {f : σ → β → σ} {a : β} {l : List β} (distinct : l.Nodup) (mem : a ∈ l) {s : σ}
    (before : ∀ x, x ≠ a → f s x = s) (after : ∀ x, x ≠ a → f (f s a) x = f s a) : l.foldl f s = f s a := by
  have still (l : List β) (out : a ∉ l) : l.foldl f (f s a) = f s a := by
    induction l with
    | nil => rfl
    | cons x l ih =>
      rw [List.foldl_cons, after x fun same => out (same ▸ List.mem_cons_self)]
      exact ih fun mem => out (List.mem_cons_of_mem _ mem)
  induction l with
  | nil => cases mem
  | cons x l ih =>
    obtain ⟨out, distinct⟩ := List.nodup_cons.mp distinct
    rw [List.foldl_cons]
    rcases List.mem_cons.mp mem with rfl | mem
    · exact still l out
    · rw [before x fun same => out (same ▸ mem)]
      exact ih distinct mem

theorem withFront_front {s : State} {n : Slot} {vc : VcId} {pkt : Packet} {act : Packet → State}
    (front : ejFront (nif s n) vc = some pkt) : withFront s n vc act = act pkt := by
  unfold withFront
  rw [ejBad_of_front front, front]

/-! ### A member's closes (R188, R189, R191) -/

section Close
variable {s : State} {n : Slot} {g : GroupId} (runs : niRuns s n = true) (isOpen : (nif s n).closed = false)
  (reach : herdReachable s = true)

/-- An NI that has sent a close. -/
def closeSent (n : Slot) (g : GroupId) (c : CloseWait) (x : NI) : NI :=
  closeAnswer { queueSkm x (closePkt n g c.inexact c.lep) with
    groups := tupd (queueSkm x (closePkt n g c.inexact c.lep)).groups g (fun q => { q with
      k := c.lep, close := none, lastInexact := c.inexact }) } c.req .ok (if c.inexact then 1 else 0)

theorem closeSent_answers (c : CloseWait) (x : NI) : ∀ r ∈ (closeSent n g c x).reqs, r.num = c.req →
    r.whole = .ok ∧ r.aux = (if c.inexact then 1 else 0) := by
  intro r mem num
  obtain ⟨q, -, rfl⟩ := List.mem_map.mp mem
  by_cases mine : q.num = c.req
  · rw [if_pos mine]
    exact ⟨rfl, rfl⟩
  · rw [if_neg mine] at num
    exact absurd num mine

theorem closeSent_group (c : CloseWait) (x : NI) : grpOf (closeSent n g c x) g = { grpOf x g with
    k := c.lep, close := none, lastInexact := c.inexact } := tget_tupd ..

theorem closeSent_keeps (c : CloseWait) (x : NI) : (closeSent n g c x).reqFifo = x.reqFifo ∧
    (closeSent n g c x).store = x.store ∧
    (closeSent n g c x).skmQ = x.skmQ ++ [(x.nextPid, closePkt n g c.inexact c.lep)] := ⟨rfl, rfl, rfl⟩

include runs isOpen reach

theorem close_injected {c : CloseWait} (idle : storeIdle s n) (held : (grpOf (nif s n) g).close = some c)
    (ready : c.wait = []) (window : lepLe c.lep (lepAdd (grpOf (nif s n) g).cm 16) = true) :
    ∃ t, exec (.epochCloseInject n g) s = .next t ∧ (grpOf (nif t n) g).k = c.lep ∧
      (grpOf (nif t n) g).close = none ∧
      (nif t n).skmQ = (nif s n).skmQ ++ [((nif s n).nextPid, closePkt n g c.inexact c.lep)] ∧
      (∀ r ∈ (nif t n).reqs, r.num = c.req → r.whole = .ok ∧ r.aux = (if c.inexact then 1 else 0)) ∧
      niFrame n s t := by
  have run : exec (.epochCloseInject n g) s =
      .next (processStore (dropDiscarded (updN s n (closeSent n g c)) n) n) := by
    show execEpochCloseInject n g s = _
    unfold execEpochCloseInject
    dsimp only
    rw [if_pos (by simp [runs, isOpen, reach]), held]
    exact congrArg Host.Outcome.next (if_pos (by simp [ready, window]))
  obtain ⟨gone, order, ooo, step⟩ := (niStep_updN s n (closeSent n g c)).dropDiscarded
  obtain ⟨fifo, store, skm⟩ := closeSent_keeps (n := n) (g := g) c (nif s n)
  have answers := closeSent_answers (n := n) (g := g) c (nif s n)
  have group := closeSent_group (n := n) (g := g) c (nif s n)
  generalize closeSent n g c (nif s n) = x at step fifo store skm answers group
  rw [processStore_idle (step.idle fifo store idle)] at run
  obtain ⟨is, frame⟩ := step
  have own : grpOf (nif (dropDiscarded (updN s n (closeSent n g c)) n) n) g = _ :=
    (congrArg (fun x => grpOf x g) is).trans group
  refine ⟨_, run, congrArg NiGroup.k own, congrArg NiGroup.close own, (congrArg NI.skmQ is).trans skm, fun r mem => ?_, frame⟩
  rw [is] at mem
  exact answers r (List.mem_filter.mp mem).1

/-- An NI repeats the close of a group whose K is above its C. -/
def repeatClose (n : Slot) (s : State) (g : GroupId) : State :=
  let q := grpOf (nif s n) g
  if q.member && q.state == .active && lepLt q.cm q.k then
    updN s n (fun x => queueSkm x (closePkt n g q.lastInexact q.k))
  else s

theorem close_repeated (due : (nif s n).repeatDue = true) (only : ∀ h, h ≠ g → (grpOf (nif s n) h).member = false)
    (member : (grpOf (nif s n) g).member = true) (active : (grpOf (nif s n) g).state = .active)
    (above : lepLt (grpOf (nif s n) g).cm (grpOf (nif s n) g).k = true) :
    ∃ t, exec (.closeRepeat n) s = .next t ∧
      (nif t n).skmQ = (nif s n).skmQ ++ [((nif s n).nextPid,
        closePkt n g (grpOf (nif s n) g).lastInexact (grpOf (nif s n) g).k)] ∧
      (nif t n).repeatDue = false ∧ niFrame n s t := by
  have run : exec (.closeRepeat n) s = .next ((List.finRange 32).foldl (repeatClose n)
      (updN s n (fun x => { x with repeatDue := false }))) :=
    congrArg Host.Outcome.next (if_pos (by simp [runs, isOpen, reach, due]))
  have noted := niStep_updN s n (fun x => { x with repeatDue := false })
  generalize updN s n (fun x => { x with repeatDue := false }) = u at run noted
  have groups (h : GroupId) : grpOf (nif u n) h = grpOf (nif s n) h := (congrArg (fun x => grpOf x h) noted.1 :)
  have sent : repeatClose n u g = updN u n (fun x => queueSkm x (closePkt n g (grpOf (nif s n) g).lastInexact
      (grpOf (nif s n) g).k)) := by
    unfold repeatClose
    dsimp only
    rw [groups]
    exact if_pos (by simp [member, active, above])
  have step := noted.updN (fun x => queueSkm x (closePkt n g (grpOf (nif s n) g).lastInexact (grpOf (nif s n) g).k))
  rw [← sent] at step
  have idle (h : GroupId) (other : h ≠ g) (v : State) (same : grpOf (nif v n) h = grpOf (nif s n) h) :
      repeatClose n v h = v := by
    unfold repeatClose
    dsimp only
    rw [same]
    exact if_neg (by simp [only h other])
  rw [foldl_only (List.nodup_finRange 32) (List.mem_finRange g) (fun h other => idle h other u (groups h))
    (fun h other => idle h other _ (congrArg (fun x => grpOf x h) step.1 :))] at run
  exact ⟨_, run, (congrArg NI.skmQ step.1 :), (congrArg NI.repeatDue step.1 :), step.2⟩

end Close

/-! ### A close reaches the coordinator (R191) -/

section Coordinator
variable {s : State} {g : GroupId} {pkt : Packet}

theorem updCo_group (u : State) (g : GroupId) (f : CoGroup → CoGroup) :
    tget (updCo u g f).herd.groups g = f (tget u.herd.groups g) := tget_tupd ..

theorem close_arrives {n : Slot} (runs : niRuns s herdSlot = true) (front : ejFront (nif s herdSlot) 6 = some pkt)
    (one : pkt.length = 1) (clean_ : pkt = (checkIn (ejPop s herdSlot 6 1) herdSlot pkt).2)
    (op : fOp (hd pkt) = opEpochClose) (src : fSrc (hd pkt) = n.val)
    (group : (Fin.ofNat 32 (field (word (hd pkt) 0) 0 5) : GroupId) = g) (active : (tget s.herd.groups g).state = .active)
    (member : (tget s.herd.groups g).members.getLsbD n.val = true)
    (above : lepLt (tget (tget s.herd.groups g).ks n) (field (word (hd pkt) 0) 16 48) = true) :
    ∃ t, exec .epochCloseArrival s = .next t ∧
      tget (tget t.herd.groups g).ks n = field (word (hd pkt) 0) 16 48 ∧
      (∀ m, m ≠ n → tget (tget t.herd.groups g).ks m = tget (tget s.herd.groups g).ks m) ∧
      otherNis herdSlot s t ∧ t.spine = s.spine ∧ sameRest s t ∧ t.can = s.can := by
  have run : exec .epochCloseArrival s = .next _ := congrArg Host.Outcome.next ((if_neg (by simp [runs])).trans
    ((withFront_front front).trans (if_neg (by simp [op]))))
  obtain ⟨c, -, others, spine, rest, reports, -, can⟩ := ((portStep_refl s herdSlot).ejPop 6 pkt.length).checkIn pkt
  have groups : (checkIn (ejPop s herdSlot 6 pkt.length) herdSlot pkt).1.herd.groups = s.herd.groups := by
    rw [reports]
  have from_ : (Fin.ofNat 192 (fSrc (hd pkt)) : Slot) = n := by
    rw [src]
    exact Fin.ext (Nat.mod_eq_of_lt n.isLt)
  rw [← show pkt.length = 1 from one] at clean_
  dsimp only at run
  generalize checkIn (ejPop s herdSlot 6 pkt.length) herdSlot pkt = r at run clean_ others spine rest can groups
  obtain ⟨u, p⟩ := r
  obtain rfl : pkt = p := clean_
  dsimp only at run others spine rest can groups
  rw [group, from_, groups, if_pos (by simp [active, member])] at run
  refine ⟨_, run, ?_, fun m other => ?_, others, spine, rest, can⟩
  · rw [updCo_group, groups]
    dsimp only
    rw [tget_tupd, if_pos above]
  · rw [updCo_group, groups]
    dsimp only
    rw [tget_tupd_ne _ _ _ _ (Ne.symm other)]

end Coordinator

/-- Settles O22. -/
theorem epochCloseSent : Obligations.EpochCloseSent := fun _ _ _ _ runs isOpen reach =>
  ⟨fun idle => close_injected runs isOpen reach idle, fun due only => close_repeated runs isOpen reach due only,
    fun _ runs' front one clean_ => close_arrives runs' front one clean_⟩

/-! ### Commits (R192, R193) -/

section Commit
variable {s : State} {n : Slot} {g : GroupId} {pkt : Packet} {l q : Nat}

/-- A group changes, and in one case something of the NI beside its groups. -/
theorem updG_then {u t : State} {c : Prop} [Decidable c] {F : NiGroup → NiGroup} {f : NI → NI}
    (is : t = if c then updN (updG u n g F) n f else updG u n g F) (keeps : ∀ x, (f x).groups = x.groups) :
    grpOf (nif t n) g = F (grpOf (nif u n) g) ∧ otherNis n u t ∧ t = { u with nis := t.nis } := by
  have others : otherNis n u (updG u n g F) := fun m out => nif_updN_ne _ _ _ _ (Ne.symm out)
  split at is
  · rw [is]
    refine ⟨?_, fun m out => (nif_updN_ne _ _ _ _ (Ne.symm out)).trans (others m out), rfl⟩
    rw [nif_updN_same, grpOf, keeps]
    exact updG_group F
  · rw [is]
    exact ⟨updG_group F, others, rfl⟩

theorem commit_received (runs : niRuns s n = true) (front : ejFront (nif s n) 6 = some pkt) (one : pkt.length = 1)
    (clean_ : pkt = (checkIn (ejPop s n 6 1) n pkt).2) (op : fOp (hd pkt) = opCmCommit)
    (group : (Fin.ofNat 32 (field (word (hd pkt) 0) 0 5) : GroupId) = g) (lep : field (word (hd pkt) 0) 16 48 = l)
    (rel : field (word (hd pkt) 1) 0 48 = q) (active : (grpOf (nif s n) g).state = .active)
    (noCm : (grpOf (nif s n) g).cmNext = []) (noRel : (grpOf (nif s n) g).relNext = [])
    (cm : lepLt (grpOf (nif s n) g).cm l = true) (ct : lepLt (grpOf (nif s n) g).ct l = true)
    (through : lepLt (grpOf (nif s n) g).through l = true) : ∃ t, exec (.cmCommit n) s = .next t ∧
      ((grpOf (nif s n) g).member = true → (grpOf (nif t n) g).cmNext = [(l, max (q + 1) (epochN s n + 1))]) ∧
      ((grpOf (nif s n) g).target = true → (grpOf (nif t n) g).relNext = [(l, max q (epochN s n + 1))]) ∧
      (grpOf (nif t n) g).cm = (grpOf (nif s n) g).cm ∧ (grpOf (nif t n) g).ct = (grpOf (nif s n) g).ct ∧
      otherNis n s t ∧ t.spine = s.spine ∧ sameRest s t ∧ t.can = s.can := by
  have run : exec (.cmCommit n) s = .next _ := congrArg Host.Outcome.next ((if_neg (by simp [runs])).trans
    ((withFront_front front).trans (if_neg (by simp [op]))))
  obtain ⟨c, is, others, spine, rest, -, -, can⟩ := ((portStep_refl s n).ejPop 6 pkt.length).checkIn pkt
  have same : grpOf (nif (checkIn (ejPop s n 6 pkt.length) n pkt).1 n) g = grpOf (nif s n) g :=
    (congrArg (fun x => grpOf x g) is :)
  have now : epochN (checkIn (ejPop s n 6 pkt.length) n pkt).1 n = epochN s n :=
    congrArg (fun v => tget v (slotCluster n)) rest.1
  rw [← show pkt.length = 1 from one] at clean_
  dsimp only at run
  clear is
  generalize checkIn (ejPop s n 6 pkt.length) n pkt = r at run clean_ others spine rest can same now
  obtain ⟨u, p⟩ := r
  obtain rfl : pkt = p := clean_
  dsimp only at run others spine rest can same now
  have top : lepLt (if lepLt (grpOf (nif s n) g).ct (grpOf (nif s n) g).through then (grpOf (nif s n) g).through
      else (grpOf (nif s n) g).ct) l = true := by
    split
    · exact through
    · exact ct
  rw [group, lep, rel, same, now, if_neg (by simp [active])] at run
  obtain ⟨t, run, is⟩ : ∃ t, exec (.cmCommit n) s = .next t ∧ t = _ := ⟨_, run, rfl⟩
  obtain ⟨own, others', frame⟩ := updG_then is fun _ => rfl
  rw [same] at own
  simp only [noCm, noRel, cm, top, List.all_nil, List.nil_append, Bool.and_true] at own
  refine ⟨t, run, fun member => ?_, fun target => ?_, (congrArg NiGroup.cm own :), (congrArg NiGroup.ct own :),
    fun m out => (others' m out).trans (others m out), ?_⟩
  · rw [own, member]
    rfl
  · rw [own, target]
    rfl
  · rw [frame]
    exact ⟨spine, rest, can⟩

end Commit

/-! ### A commit sent again (R192) -/

/-- NI 188 queues a packet of VC 6 for each of some slots. -/
def queueAll (s : State) (pkt : Slot → Packet) (ds : List Slot) : State :=
  ds.foldl (fun s d => updN s herdSlot (fun x => queueSkm x (pkt d))) s

theorem queueAll_queues (pkt : Slot → Packet) (ds : List Slot) (s : State) :
    (nif (queueAll s pkt ds) herdSlot).skmQ.map (·.2) = (nif s herdSlot).skmQ.map (·.2) ++ ds.map pkt ∧
    otherNis herdSlot s (queueAll s pkt ds) ∧ queueAll s pkt ds = { s with nis := (queueAll s pkt ds).nis } := by
  induction ds generalizing s with
  | nil => exact ⟨(List.append_nil _).symm, fun _ _ => rfl, rfl⟩
  | cons d ds ih =>
    obtain ⟨skm, others, frame⟩ := ih (updN s herdSlot (fun x => queueSkm x (pkt d)))
    refine ⟨skm.trans ?_, fun m out => (others m out).trans (nif_updN_ne _ _ _ _ (Ne.symm out)), frame⟩
    rw [nif_updN_same, queueSkm, List.map_append, List.append_assoc]
    rfl

/-- The coordinator sends a group's latest commit again. -/
def repeatCommit (s : State) (g : GroupId) : State :=
  let c := tget s.herd.groups g
  match (if c.state == .active then c.lastCommit else none) with
  | some (l, q, i) => (sendCommit s g l q i).getD s
  | none => s

section Repeat
variable {s : State} {g : GroupId} {l q : Nat} {i : Bool}

theorem repeatCommit_idle {h : GroupId} (off : (tget s.herd.groups h).state = .disabled) : repeatCommit s h = s := by
  unfold repeatCommit
  dsimp only
  rw [if_neg (by simp [off])]

theorem repeatCommit_sends (active : (tget s.herd.groups g).state = .active)
    (last : (tget s.herd.groups g).lastCommit = some (l, q, i))
    (fits : (maskSlots ((tget s.herd.groups g).members ||| (tget s.herd.groups g).targets)).length ≤ s.herd.commitLeft) :
    repeatCommit s g = queueAll (updHerd s (fun h => { h with commitLeft := h.commitLeft -
        (maskSlots ((tget s.herd.groups g).members ||| (tget s.herd.groups g).targets)).length }))
      (fun d => commitPkt d g l q i) (maskSlots ((tget s.herd.groups g).members ||| (tget s.herd.groups g).targets)) := by
  unfold repeatCommit sendCommit
  dsimp only
  rw [if_pos (by simp [active]), last]
  dsimp only
  rw [if_pos fits]
  rfl

theorem commit_repeated (runs : herdRuns s = true) (reach : herdReachable s = true) (tick : s.herd.epoch % 64 = 0)
    (only : ∀ h, h ≠ g → (tget s.herd.groups h).state = .disabled) (active : (tget s.herd.groups g).state = .active)
    (last : (tget s.herd.groups g).lastCommit = some (l, q, i))
    (fits : (maskSlots ((tget s.herd.groups g).members ||| (tget s.herd.groups g).targets)).length ≤ s.herd.commitLeft) :
    ∃ t, exec .commitRepeat s = .next t ∧
      (nif t herdSlot).skmQ.map (·.2) = (nif s herdSlot).skmQ.map (·.2) ++
        (maskSlots ((tget s.herd.groups g).members ||| (tget s.herd.groups g).targets)).map
          (fun d => commitPkt d g l q i) ∧
      tget t.herd.groups g = tget s.herd.groups g ∧ otherNis herdSlot s t ∧ t.routers = s.routers ∧ sameRest s t := by
  have run : exec .commitRepeat s = .next ((List.finRange 32).foldl repeatCommit s) :=
    congrArg Host.Outcome.next (if_pos (by simp [runs, reach, tick]))
  have sends := repeatCommit_sends active last fits
  obtain ⟨skm, others, frame⟩ := queueAll_queues (fun d => commitPkt d g l q i)
    (maskSlots ((tget s.herd.groups g).members ||| (tget s.herd.groups g).targets))
    (updHerd s (fun h => { h with commitLeft := h.commitLeft -
      (maskSlots ((tget s.herd.groups g).members ||| (tget s.herd.groups g).targets)).length }))
  rw [← sends] at skm others frame
  have groups : (repeatCommit s g).herd.groups = s.herd.groups := by rw [frame]; rfl
  rw [foldl_only (List.nodup_finRange 32) (List.mem_finRange g) (fun h other => repeatCommit_idle (only h other))
    (fun h other => repeatCommit_idle (by rw [groups]; exact only h other))] at run
  refine ⟨_, run, skm, by rw [groups], others, ?_, ?_⟩
  · rw [frame]
    rfl
  · rw [frame]
    exact ⟨rfl, rfl, rfl, rfl, rfl, rfl, rfl, rfl, rfl⟩

end Repeat

/-- Settles O24. -/
theorem commitsTravel : Obligations.CommitsTravel :=
  ⟨fun _ _ _ _ _ _ runs front one clean_ op group lep rel active noCm noRel cm ct through =>
      commit_received runs front one clean_ op group lep rel active noCm noRel cm ct through,
    fun _ _ _ _ _ runs reach tick only active last fits => commit_repeated runs reach tick only active last fits⟩

end Sys2Proof.Proofs

/-! ## Inbound queues: arrival, discard and gaps (R103, R114, R135–R138): O14. -/

namespace Sys2Proof.Proofs
open Sys2Proof.Machine Sys2Proof.Safety

/-! ### What the checks at ejection keep -/

/-- Work on a flit that keeps its ORD bit. -/
def KeepsOrd (f : Flit → Flit) : Prop := ∀ x, fOrd (f x) = fOrd x

theorem fOrd_setPoison (b : Bool) : KeepsOrd (fun f => setPoison f b) := by
  intro f
  have bit := getLsbD_setField f.ctl (if isHead f then 5 else 90) 1 b.toNat 31
  refine bit.trans (if_neg ?_)
  split <;> omega

theorem fOrd_foldl {β γ : Type} {step : Flit × γ → β → Flit × γ} (keeps : ∀ acc b, fOrd (step acc b).1 = fOrd acc.1)
    (l : List β) (acc : Flit × γ) : fOrd (l.foldl step acc).1 = fOrd acc.1 := by
  induction l generalizing acc with
  | nil => rfl
  | cons b l ih => exact (ih _).trans (keeps acc b)

theorem fOrd_clearUnused (op : BitVec 6) (len i : Nat) : KeepsOrd (clearUnused op len i) := by
  intro f
  unfold clearUnused
  generalize List.range 8 = l
  have all (g : Flit) : fOrd (l.foldl (fun g w => if usedWord op (isWide op f) len i w then g
      else { g with dat := setField g.dat (64 * w) 64 0, chk := setField g.chk (8 * w) 8 0 }) g) = fOrd g := by
    induction l generalizing g with
    | nil => rfl
    | cons w l ih =>
      refine (ih _).trans ?_
      dsimp only
      split <;> rfl
  exact all f

theorem fOrd_checkData (op : BitVec 6) (len i : Nat) : KeepsOrd (fun f => (checkData op len i f).1) := by
  intro f
  refine fOrd_foldl (fun acc w => ?_) _ _
  dsimp only
  split
  · split
    · rfl
    · rfl
    · exact fOrd_setPoison true acc.1
  · rfl

theorem parityPoison_keeps (len i : Nat) (fs : List Flit) (bad : List Nat) :
    (parityPoison len i fs bad).1.map fOrd = fs.map fOrd := by
  induction fs generalizing i bad with
  | nil => rfl
  | cons f fs ih =>
    unfold parityPoison
    dsimp only
    rw [List.map_cons, List.map_cons, ih]
    congr 1
    generalize (if decide (0 < i) && decide (i ≤ len) && bodyBad len i f then bad ++ [i] else bad) = bad
    split
    · rfl
    · exact fOrd_setPoison true f

theorem checkSteps_keep (n : Slot) (op : BitVec 6) (len : Nat) (quiet : List Nat) (l : List (Flit × Nat))
    (acc : State × Packet) : (l.foldl (checkStep n op len quiet) acc).2.map fOrd = acc.2.map fOrd ++ l.map (fun f => fOrd f.1) := by
  induction l generalizing acc with
  | nil => exact (List.append_nil _).symm
  | cons f l ih =>
    have one : fOrd (checkData op len f.2 (clearUnused op len f.2 f.1)).1 = fOrd f.1 :=
      (fOrd_checkData op len f.2 _).trans (fOrd_clearUnused op len f.2 _)
    refine (ih _).trans ?_
    rw [checkStep, List.map_append, List.map_cons, List.map_cons, List.map_nil, one, List.append_assoc]
    rfl

/-- The checks keep a packet's length and its ORD bits. -/
theorem checkIn_keeps (s : State) (n : Slot) (pkt : Packet) : (checkIn s n pkt).2.map fOrd = pkt.map fOrd := by
  unfold checkIn
  dsimp only
  rw [checkOut_steps, checkSteps_keep]
  refine (List.nil_append _).trans (Eq.trans ?_ (parityPoison_keeps (fLen (hd pkt)) 0 pkt []))
  exact (List.map_map (f := Prod.fst) (g := fOrd)).symm.trans (congrArg _ (List.zipIdx_map_fst ..))

theorem length_checkIn (s : State) (n : Slot) (pkt : Packet) : (checkIn s n pkt).2.length = pkt.length := by
  have := congrArg List.length (checkIn_keeps s n pkt)
  rwa [List.length_map, List.length_map] at this

theorem fOrd_checkIn (s : State) (n : Slot) (pkt : Packet) : fOrd (hd (checkIn s n pkt).2) = fOrd (hd pkt) := by
  have := checkIn_keeps s n pkt
  generalize (checkIn s n pkt).2 = p at this
  cases p with
  | nil =>
    cases pkt with
    | nil => rfl
    | cons g pkt => cases this
  | cons f p =>
    cases pkt with
    | nil => cases this
    | cons g pkt => exact (List.cons.inj this).1

/-! ### An unordered packet is queued (R103, R114) -/

theorem counts_gateRecord (s : State) (n : Slot) (outb : Bool) (h : Flit) (dest : Nat) (kind : GKind)
    (ans : List (Nat × Nat × GAns)) : Counts s (gateRecord s n outb h dest kind ans) := by
  unfold gateRecord
  dsimp only
  split
  · exact .refl s
  · exact (counts_bump s _ _).trans (counts_report ..)

/-- Region `i` of a gate's set is checked for errors. -/
def gateStep (n : Slot) (set : Fin 2) (s : State) (i : Fin 32) : State :=
  if gRegionBad s n set i && !(nif s n).gateEcc.contains (set, i) then
    repNi (updN s n (fun x => { x with gateEcc := x.gateEcc ++ [(x.gateActive, i)] })) n .gateEcc (set.val * 256 + i.val)
  else s

theorem gateEccLog_steps (s : State) (n : Slot) :
    gateEccLog s n = (List.finRange 32).foldl (gateStep n (nif s n).gateActive) s := by
  unfold gateEccLog
  generalize List.finRange 32 = l
  rfl

theorem PortStep.gateStep {n : Slot} {s t : State} {x : NI} (step : PortStep n s t x) (set : Fin 2) (i : Fin 32) :
    ∃ g, PortStep n s (gateStep n set t i) { x with gateEcc := g } := by
  unfold Proofs.gateStep
  split
  · exact ⟨_, (step.updN (fun x => { x with gateEcc := x.gateEcc ++ [(x.gateActive, i)] })).counts (counts_report _ _)⟩
  · exact ⟨_, step⟩

theorem PortStep.gateSteps {n : Slot} {s : State} (set : Fin 2) (l : List (Fin 32)) : ∀ {t : State} {x : NI},
    PortStep n s t x → ∃ g, PortStep n s (l.foldl (Proofs.gateStep n set) t) { x with gateEcc := g } := by
  induction l with
  | nil => exact fun step => ⟨_, step⟩
  | cons i l ih =>
    intro t x step
    obtain ⟨g, one⟩ := step.gateStep set i
    obtain ⟨h, rest⟩ := ih one
    exact ⟨h, rest⟩

theorem PortStep.gateEccLog {n : Slot} {s t : State} {x : NI} (step : PortStep n s t x) :
    ∃ g, PortStep n s (gateEccLog t n) { x with gateEcc := g } := by
  rw [gateEccLog_steps]
  exact step.gateSteps _ _

theorem PortStep.of_updN {n : Slot} {s t u : State} {x : NI} {f : NI → NI} (is : t = Machine.updN u n f)
    (step : PortStep n s u x) :
    PortStep n s t (f x) := is ▸ step.updN f

/-- The credits of the flits that leave the ejection buffer go back. -/
theorem returning_ejPop (s : State) (n : Slot) (vc : VcId) (len : Nat) :
    tget (tget (rtr (ejPop s n vc len) (routerOf n)).outs (localPort n)).returning vc =
      tget (tget (rtr s (routerOf n)).outs (localPort n)).returning vc + len := by
  have one : rtr (ejPop s n vc len) (routerOf n) = updOut (rtr s (routerOf n)) (localPort n) (fun o => { o with
      returning := tupd o.returning vc (· + len) }) := rtr_updR_same (updN s n (ejected vc len)) _ _
  rw [one, updOut, tget_tupd, tget_tupd]

theorem routers_checkIn (s : State) (n : Slot) (pkt : Packet) : (checkIn s n pkt).1.routers = s.routers :=
  have : Unaware State.routers := ⟨fun _ _ => rfl, fun _ _ _ _ => rfl, fun _ _ => rfl⟩
  have : Besides n State.routers := ⟨fun _ _ => rfl⟩
  view_checkIn (P := State.routers) pkt

theorem routers_gates (s : State) (n : Slot) (outb : Bool) (h : Flit) (dest : Nat) (kind : GKind)
    (ans : List (Nat × Nat × GAns)) : (gateRecord (gateEccLog s n) n outb h dest kind ans).routers = s.routers :=
  have : Unaware State.routers := ⟨fun _ _ => rfl, fun _ _ _ _ => rfl, fun _ _ => rfl⟩
  have : Besides n State.routers := ⟨fun _ _ => rfl⟩
  (view_gateRecord (P := State.routers) ..).trans view_gateEccLog

section Arrival
variable {s : State} {n : Slot} {vc : VcId} {pkt : Packet}

theorem inbound_queued (runs : niRuns s n = true) (which : vc = 0 ∨ vc = 1 ∨ vc = 4)
    (front : ejFront (nif s n) vc = some pkt) (open_ : (nif s n).discarding = false) (free : fOrd (hd pkt) = false)
    (room : inqRoom (nif s n) (vc == 4) false pkt.length = true) (inner : isHostLink n.val = false) :
    ∃ t p, exec (.inboundRequest n vc) s = .next t ∧ (nif t n).inq = (nif s n).inq ++ [p] ∧ p.early = false ∧
      p.cream = (vc == 4) ∧ p.pkt = (checkIn s n pkt).2 ∧
      p.codes = (gateInbound s n vc p.pkt).map (fun a => a.2.2.code) ∧
      tget (nif t n).ej vc = (tget (nif s n).ej vc).drop pkt.length ∧
      tget (tget (rtr t (routerOf n)).outs (localPort n)).returning vc =
        tget (tget (rtr s (routerOf n)).outs (localPort n)).returning vc + pkt.length ∧
      otherNis n s t ∧ t.spine = s.spine ∧ sameRest s t ∧ onlyReports s t ∧ onlyCounts s t ∧ t.can = s.can := by
  have run : exec (.inboundRequest n vc) s = .next _ := congrArg Host.Outcome.next
    ((if_pos (by rcases which with rfl | rfl | rfl <;> simp [runs])).trans ((withFront_front front).trans
      (if_neg (by simp [open_]))))
  have ord := fOrd_checkIn s n pkt
  have len := length_checkIn s n pkt
  have routers := routers_checkIn s n pkt
  obtain ⟨c, checked⟩ := (portStep_refl s n).checkIn pkt
  dsimp only at run
  generalize checkIn s n pkt = r at run ord len checked routers
  obtain ⟨u, p⟩ := r
  dsimp only at run ord len checked routers
  have free_ : ordCheck (nif s n) (hd p) = .deliver none := if_pos (by rw [ord, free]; rfl)
  rw [free_, len] at run
  dsimp only at run
  have early : (OrdOut.deliver none == OrdOut.early) = false := rfl
  have noTally (v : State) (words : List (BitVec 24)) : putTally v n true words = v := if_neg (by simp [inner])
  rw [early, room, if_neg (by simp [laneRoom, inner]), if_neg Bool.false_ne_true] at run
  simp only [noTally, ite_self] at run
  obtain ⟨g, gated⟩ := (checked.ejPop vc pkt.length).gateEccLog
  have recorded := gated.counts (counts_gateRecord (gateEccLog (ejPop u n vc pkt.length) n) n false (hd p) n.val
    (gateKind (fOp (hd p)) false) (gateInbound s n vc p))
  have through := routers_gates (ejPop u n vc pkt.length) n false (hd p) n.val (gateKind (fOp (hd p)) false)
    (gateInbound s n vc p)
  generalize gateRecord (gateEccLog (ejPop u n vc pkt.length) n) n false (hd p) n.val (gateKind (fOp (hd p)) false)
    (gateInbound s n vc p) = w at run recorded through
  obtain ⟨t, run, is⟩ : ∃ t, exec (.inboundRequest n vc) s = .next t ∧ t = _ := ⟨_, run, rfl⟩
  have routed : t.routers = w.routers := is ▸ rfl
  obtain ⟨own, rest⟩ := PortStep.of_updN is recorded
  refine ⟨t, _, run, congrArg NI.inq own, rfl, rfl, rfl, rfl, (congrArg (fun x => tget x.ej vc) own).trans (tget_tupd ..), ?_, rest⟩
  rw [rtr, routed, through]
  refine (returning_ejPop ..).trans ?_
  rw [rtr, routers]

end Arrival

/-! ### Inbound discard and ordered gaps (R103, R137) -/

theorem reported_updN {s u : State} {code : EventCode} {kind : UnitKind} {num : Nat} (told : reported s u code kind num)
    (n : Slot) (f : NI → NI) : reported s (updN u n f) code kind num := told

section Rows
variable {s : State} {n : Slot} (runs : niRuns s n = true)
include runs

theorem discard_begins (off : (nif s n).discarding = false) (idle : 16 ≤ (nif s n).idle)
    (full : queueFull (nif s n) = true) : ∃ t, exec (.inboundDiscard n) s = .next t ∧ (nif t n).discarding = true ∧
      reported s t .inboundDiscard .ni n.val ∧ niFrame n s t := by
  have noted := niStep_updN s n (fun x => { x with discarding := true })
  have step := noted.counts (u := repNi _ n .inboundDiscard 0) (counts_report _ _)
  exact ⟨_, congrArg Host.Outcome.next (if_pos (by simp [runs, off, idle, full])), congrArg NI.discarding step.1,
    reported_report rfl _, step.2⟩

omit runs in
/-- An NI that skips a gap before sequence `q` of a source. -/
def gapSkipped (src : Slot) (q : BitVec 10) (x : NI) : NI :=
  releaseEarly (earlyFuel x src) { x with
    exp := tupd x.exp src (fun _ => some q)
    gone := tupd x.gone src (fun l => l.filter (fun g => decide (seqDist g q < 512))) } src

theorem gap_runs {src : Slot} {e : BitVec 10} {p q : InPkt} (waits : tget (nif s n).exp src = some e)
    (mem : q ∈ (nif s n).inq) (early : q.early = true) (from_ : fSrc (hd q.pkt) = src.val)
    (old : q.epoch + cfgN s n itOrdGap 0 ≤ epochN s n) (next : nextEarly (nif s n) src e = some p) :
    ∃ detail, exec (.ordGap n src) s = .next (updN (repNi (countN s n 0x0C) n .ordGap detail) n
      (gapSkipped src (fOseq (hd p.pkt)))) := by
  have due : (nif s n).inq.any (fun p => p.early && decide (fSrc (hd p.pkt) = src.val) &&
      decide (p.epoch + cfgN s n itOrdGap 0 ≤ epochN s n)) = true :=
    List.any_eq_true.mpr ⟨q, mem, by simp [early, from_, old]⟩
  apply Exists.intro
  show execOrdGap n src s = _
  unfold execOrdGap
  dsimp only
  rw [if_pos (by rw [runs, due]; rfl), waits]
  dsimp only
  rw [next]
  rfl

theorem gap_skipped {src : Slot} {e : BitVec 10} {p q : InPkt} (waits : tget (nif s n).exp src = some e)
    (mem : q ∈ (nif s n).inq) (early : q.early = true) (from_ : fSrc (hd q.pkt) = src.val)
    (old : q.epoch + cfgN s n itOrdGap 0 ≤ epochN s n) (next : nextEarly (nif s n) src e = some p) :
    ∃ t, exec (.ordGap n src) s = .next t ∧ reported s t .ordGap .ni n.val ∧
      nif t n = releaseEarly (earlyFuel (nif s n) src) { nif s n with
        exp := tupd (nif s n).exp src (fun _ => some (fOseq (hd p.pkt)))
        gone := tupd (nif s n).gone src (fun l => l.filter (fun g => decide (seqDist g (fOseq (hd p.pkt)) < 512))) }
        src ∧ niFrame n s t := by
  obtain ⟨detail, run⟩ := gap_runs runs waits mem early from_ old next
  have told : Counts s (repNi (countN s n 0x0C) n .ordGap detail) :=
    (counts_countN s n 0x0C none none 1).trans (counts_report _ _)
  have event : reported s (repNi (countN s n 0x0C) n .ordGap detail) .ordGap .ni n.val :=
    reported_of_tells (counts_countN s n 0x0C none none 1).tells (mkEvent .ordGap .ni n.val (secBit (slotSector n))
      (epochN (countN s n 0x0C) n) (BitVec.ofNat 32 detail) (BitVec.ofNat 128 0))
  obtain ⟨own, frame⟩ := (told.niStep n).updN (gapSkipped src (fOseq (hd p.pkt)))
  rw [gapSkipped] at own
  exact ⟨_, run, reported_updN event n _, own, frame⟩

end Rows

/-- Settles O14. -/
theorem inboundQueueWorks : Obligations.InboundQueueWorks :=
  ⟨fun _ _ _ _ runs which front open_ free room inner => inbound_queued runs which front open_ free room inner,
    fun _ _ runs => ⟨discard_begins runs, congrArg Host.Outcome.next (if_pos runs),
      fun _ _ _ _ waits mem early from_ old next => gap_skipped runs waits mem early from_ old next⟩⟩

end Sys2Proof.Proofs

/-! ## Locks and atomics at the target (R157–R159, R170): O16, O17. -/

namespace Sys2Proof.Proofs
open Sys2Proof.Machine Sys2Proof.Safety

section Target
variable {s : State} {n : Slot} {p : InPkt}

/-- A packet that is next leaves its queue. -/
theorem takeInbound_takes {kind : InPkt → Bool} (f : State → InPkt → State) (runs : niRuns s n = true)
    (notHerd : n ≠ herdSlot) (next : nextInbound (nif s n) kind = some p) :
    takeInbound s n kind f = f (leaveQueue s n p) p := by
  unfold takeInbound
  rw [if_pos runs, next]
  exact if_neg (by simp [notHerd])

theorem leaveQueue_leaves (s : State) (n : Slot) (p : InPkt) : NiStep n s (leaveQueue s n p)
    { nif s n with inq := (nif s n).inq.filter (fun q => q.stamp != p.stamp) } := niStep_updN ..

theorem NiStep.sendRsp {t : State} {x : NI} (step : NiStep n s t x) (pkt : Packet) :
    NiStep n s (sendRsp t n pkt) (queueRsp x pkt) := step.updN _

/-! ### The lock table (R170, R174) -/

section Locks
variable (runs : niRuns s n = true)

theorem lockRow_acts {op : BitVec 6} (f : State → Slot → Flit → State) (runs : niRuns s n = true) (notHerd : n ≠ herdSlot)
    (next : nextInbound (nif s n) (fun q => inOp q == op) = some p) (code : p.codes.headD .ok = .ok) :
    lockRow s n op f = f (leaveQueue s n p) n (hd p.pkt) := by
  unfold lockRow
  rw [takeInbound_takes _ runs notHerd next, code]
  rfl

/-- A lock entered for its acquirer. -/
def lockFor (s : State) (n : Slot) (h : Flit) : LockEnt :=
  { line := fAddr h, word := lockWordOf h, owner := some (Fin.ofNat 192 (fSrc h))
    gen := tget (nif s n).gens (Fin.ofNat 192 (fSrc h)), epoch := epochN s n }

theorem lockAcquire_enters {t : State} {h : Flit} (room : (nif t n).locks.length < 64)
    (steady : (nif t n).lockReopen = none) (free : lockAt (nif t n) (fAddr h) (lockWordOf h) = none) :
    lockAcquire t n h = sendRsp (updN t n (fun x => { x with locks := x.locks ++ [lockFor t n h] })) n
      (lockRsp h .ok true) := by
  unfold lockAcquire
  dsimp only
  rw [free]
  dsimp only
  rw [if_neg (Nat.not_le.mpr room), steady]
  rfl

theorem lock_acquired (runs : niRuns s n = true) (notHerd : n ≠ herdSlot) (code : p.codes.headD .ok = .ok)
    (next : nextInbound (nif s n) (fun q => inOp q == opLkAcq) = some p) (room : (nif s n).locks.length < 64)
    (steady : (nif s n).lockReopen = none) (free : lockAt (nif s n) (fAddr (hd p.pkt)) (lockWordOf (hd p.pkt)) = none) :
    ∃ t e, exec (.lockTableAcquire n) s = .next t ∧ (nif t n).locks = (nif s n).locks ++ [e] ∧
      e.line = fAddr (hd p.pkt) ∧ e.word = lockWordOf (hd p.pkt) ∧
      e.owner = some (Fin.ofNat 192 (fSrc (hd p.pkt))) ∧ e.epoch = epochN s n ∧
      (nif t n).rspQ = (nif s n).rspQ ++ [((nif s n).nextPid, lockRsp (hd p.pkt) .ok true)] ∧ niFrame n s t := by
  have left := leaveQueue_leaves s n p
  have run : exec (.lockTableAcquire n) s = .next _ :=
    congrArg Host.Outcome.next (lockRow_acts lockAcquire runs notHerd next code)
  rw [lockAcquire_enters (by rw [left.1]; exact room) (by rw [left.1]; exact steady) (by rw [left.1]; exact free)] at run
  obtain ⟨own, frame⟩ := (left.updN (fun x => { x with
    locks := x.locks ++ [lockFor (leaveQueue s n p) n (hd p.pkt)] })).sendRsp (lockRsp (hd p.pkt) .ok true)
  exact ⟨_, _, run, congrArg NI.locks own, rfl, rfl, rfl, rfl, congrArg NI.rspQ own, frame⟩

theorem lockAt_released (x : NI) (line w : Nat) :
    lockAt { x with locks := x.locks.filter (fun e => !lockKey line w e) } line w = none := by
  refine List.find?_eq_none.mpr fun e mem => ?_
  have := (List.mem_filter.mp mem).2
  rwa [Bool.not_eq_true', ← Bool.not_eq_true] at this

theorem lock_released {e : LockEnt} {o : Slot} (runs : niRuns s n = true) (notHerd : n ≠ herdSlot)
    (code : p.codes.headD .ok = .ok) (next : nextInbound (nif s n) (fun q => inOp q == opLkRel) = some p)
    (held : lockAt (nif s n) (fAddr (hd p.pkt)) (lockWordOf (hd p.pkt)) = some e) (owner : e.owner = some o)
    (mine : o.val = fSrc (hd p.pkt)) : ∃ t, exec (.lockTableRelease n) s = .next t ∧
      lockAt (nif t n) (fAddr (hd p.pkt)) (lockWordOf (hd p.pkt)) = none ∧
      (nif t n).rspQ = (nif s n).rspQ ++ [((nif s n).nextPid, lockRsp (hd p.pkt) .ok true)] ∧ niFrame n s t := by
  have left := leaveQueue_leaves s n p
  have out : lockRelease (leaveQueue s n p) n (hd p.pkt) = sendRsp (updN (leaveQueue s n p) n (fun x => { x with
      locks := x.locks.filter (fun e => !lockKey (fAddr (hd p.pkt)) (lockWordOf (hd p.pkt)) e) })) n
      (lockRsp (hd p.pkt) .ok true) := by
    have same : lockAt (nif (leaveQueue s n p) n) (fAddr (hd p.pkt)) (lockWordOf (hd p.pkt)) = some e := by
      rw [left.1]
      exact held
    unfold lockRelease
    dsimp only
    rw [same, Option.bind_some, owner]
    exact if_pos mine
  have run : exec (.lockTableRelease n) s = .next _ :=
    congrArg Host.Outcome.next (lockRow_acts lockRelease runs notHerd next code)
  rw [out] at run
  obtain ⟨own, frame⟩ := (left.updN (fun x => { x with
    locks := x.locks.filter (fun e => !lockKey (fAddr (hd p.pkt)) (lockWordOf (hd p.pkt)) e) })).sendRsp
    (lockRsp (hd p.pkt) .ok true)
  refine ⟨_, run, ?_, congrArg NI.rspQ own, frame⟩
  rw [own]
  exact lockAt_released (nif s n) _ _

/-- Breaking locks takes away their owners, and logs. -/
theorem NiStep.breakLocks {t : State} {x : NI} (step : NiStep n s t x) (ev : EventCode) (which : LockEnt → Bool) :
    NiStep n s (breakLocks t n ev which) { x with
      locks := x.locks.map (fun e => if e.owner.isSome && which e then { e with owner := none } else e) } := by
  unfold Machine.breakLocks
  exact (step.updN _).counts (counts_foldl (fun _ _ => counts_report _ _) _)

theorem leases_end (runs : niRuns s n = true) (lease : cfgN s n itLockLease 0 ≠ 0) :
    ∃ t, exec (.lockLease n) s = .next t ∧
      (nif t n).locks = (nif s n).locks.map (fun e =>
        if e.owner.isSome && decide (e.epoch + cfgN s n itLockLease 0 ≤ epochN s n) then { e with owner := none }
        else e) ∧ niFrame n s t := by
  obtain ⟨own, frame⟩ := (niStep_refl s n).breakLocks .lockLease
    (fun e => decide (e.epoch + cfgN s n itLockLease 0 ≤ epochN s n))
  exact ⟨_, congrArg Host.Outcome.next (if_pos (by simp [runs, lease])), congrArg NI.locks own, frame⟩

theorem generation_changes {o : Slot} (runs : niRuns s n = true) (reached : niReached s n = true)
    (new : tget (nif s n).gens o ≠ tget s.herd.gens o) : ∃ t, exec (.ownerGenerationChange n o) s = .next t ∧
      tget (nif t n).gens o = tget s.herd.gens o ∧
      (nif t n).locks = (nif s n).locks.map (fun e => if e.owner.isSome && (e.owner == some o) then
        { e with owner := none } else e) ∧
      (tget s.herd.resync o = true → tget (nif t n).exp o = none) ∧ niFrame n s t := by
  have took : takeGeneration s n o = breakLocks (updN s n (fun x => { x with
      gens := tupd x.gens o (fun _ => tget s.herd.gens o)
      exp := if tget s.herd.resync o then tupd x.exp o (fun _ => none) else x.exp })) n .lockBreak
      (fun e => e.owner == some o) := if_pos (by simp [new])
  obtain ⟨own, frame⟩ := (niStep_updN s n (fun x => { x with
    gens := tupd x.gens o (fun _ => tget s.herd.gens o)
    exp := if tget s.herd.resync o then tupd x.exp o (fun _ => none) else x.exp })).breakLocks .lockBreak
    (fun e => e.owner == some o)
  rw [← took] at own frame
  refine ⟨_, congrArg Host.Outcome.next (if_pos (by simp [runs, reached])), ?_, congrArg NI.locks own, fun resync => ?_, frame⟩
  · exact (congrArg (fun x => tget x.gens o) own :).trans (tget_tupd ..)
  · refine (congrArg (fun x => tget x.exp o) own :).trans ?_
    dsimp only
    rw [if_pos resync]
    exact tget_tupd ..

end Locks

/-- Settles O17. -/
theorem locksHeldAndBroken : Obligations.LocksHeldAndBroken := by
  refine ⟨fun s n p runs notHerd code => ⟨fun next room steady free => lock_acquired runs notHerd code next room steady free,
      fun e o next held owner mine => lock_released runs notHerd code next held owner mine⟩,
    fun s n runs => ⟨leases_end runs, fun o reached new => generation_changes runs reached new, fun e reopens old => ?_⟩⟩
  show execLockReopenWindowEnd n s = _
  unfold execLockReopenWindowEnd
  rw [reopens]
  exact congrArg Host.Outcome.next (if_pos (by simp [runs, old]))

end Target

end Sys2Proof.Proofs

/-! ## Atomics at the target (R157–R159): O16. -/

namespace Sys2Proof.Proofs
open Sys2Proof.Machine Sys2Proof.Safety

section Atomics
variable {s : State} {n : Slot}

/-! ### What stands still -/

theorem pump_idle {g : GroupId} (off : (grpOf (nif s n) g).releasing = none) : pump s n g = s := by
  unfold pump
  dsimp only
  rw [off, ite_self]

theorem pumpAll_idle (off : ∀ g, (grpOf (nif s n) g).releasing = none) (none_ : (nif s n).readWait = []) :
    pumpAll s n = s := by
  have still (l : List GroupId) : l.foldl (fun s g => pump s n g) s = s := by
    induction l with
    | nil => rfl
    | cons g l ih => rw [List.foldl_cons, pump_idle (off g), ih]
  rw [pumpAll, still, serveWaiting, none_]
  rfl

/-- Nothing that waits at an NI goes on after work that keeps its groups and its read-wait store. -/
theorem NiStep.pumpAll {t : State} {x : NI} (step : NiStep n s t x) (groups : x.groups = (nif s n).groups)
    (wait : x.readWait = (nif s n).readWait) (off : ∀ g, (grpOf (nif s n) g).releasing = none)
    (none_ : (nif s n).readWait = []) : pumpAll t n = t :=
  pumpAll_idle (fun g => by rw [step.1, grpOf, groups]; exact off g) (by rw [step.1, wait, none_])

/-! ### An atomic takes an entry (R157) -/

theorem canonGroup_none {t : State} (line : Nat) (plain : cRegions t = []) : canonGroup t line = none := by
  rw [canonGroup, plain]
  rfl

/-- The entry that an atomic takes. -/
def atomEntry (x : NI) (p : Packet) : AtomEnt :=
  { num := x.nextAtom, pkt := p, phase := 0, old := zeroLine, fresh := 0, stagedIdx := none }

/-- An NI that has taken an atomic and offers its read. -/
def atomTaken (p : Packet) (x : NI) : NI :=
  putOut { x with
    atoms := x.atoms ++ [atomEntry x p], nextAtom := x.nextAtom + 1
    taken := x.taken ++ [{ kind := .atomicRead x.nextAtom, pkt := p, tag := fTag (hd p), results := [], first := 0
                           count := 1, rest := [], whole := .ok, after := [] }]
    idle := 0, discarding := false } (.inb (atomRead p))

theorem atomStart_takes (t : State) (p : Packet) : atomStart t n p none = updN t n (atomTaken p) := by
  rw [atomStart, offerPkt, updN_updN]
  exact congrArg (fun v => ({ t with nis := v } : State)) (tupd_congr rfl)

theorem takeAtomic_ordinary {t : State} {p : InPkt} (plain : cRegions t = []) (code : p.codes.headD .ok = .ok) :
    takeAtomic t n p = updN t n (atomTaken p.pkt) := by
  have judged (h : Flit) (line : Nat) : judgeWrite t n h line = .ordinary := by
    rw [judgeWrite, canonGroup_none _ plain]
  unfold takeAtomic
  dsimp only
  rw [code, if_neg (by decide), judged]
  exact atomStart_takes t p.pkt

theorem atomic_executed {p : InPkt} (runs : niRuns s n = true) (notHerd : n ≠ herdSlot)
    (next : nextInbound (nif s n) (fun q => isAtomic (inOp q)) = some p) (room : (nif s n).atoms.length < 16)
    (takes : delivers (nif s n) n = true) (plain : cRegions s = []) (code : p.codes.headD .ok = .ok) :
    ∃ t e, exec (.atomicExecute n) s = .next t ∧ (nif t n).atoms = (nif s n).atoms ++ [e] ∧ e.pkt = p.pkt ∧
      e.phase = 0 ∧ (nif t n).out = (nif s n).out ++ [.inb (atomRead p.pkt)] ∧
      (nif t n).inq = (nif s n).inq.filter (fun q => q.stamp != p.stamp) ∧ niFrame n s t := by
  have kind : (fun q : InPkt => isAtomic (inOp q) && (decide ((nif s n).atoms.length < 16) || !delivers (nif s n) n ||
      !needsEntry s n q)) = fun q => isAtomic (inOp q) := by
    funext q
    simp [room]
  rw [← kind] at next
  have left := leaveQueue_leaves s n p
  have run : exec (.atomicExecute n) s = .next _ := congrArg Host.Outcome.next (takeInbound_takes (fun s p =>
    if !delivers (nif s n) n then sendRsp s n (refuseAll p .notReady) else takeAtomic s n p) runs notHerd next)
  have takes : delivers (nif (leaveQueue s n p) n) n = true := (congrArg (delivers · n) left.1).trans takes
  rw [takes, if_neg (by decide), takeAtomic_ordinary (t := leaveQueue s n p) plain code] at run
  obtain ⟨own, frame⟩ := left.updN (atomTaken p.pkt)
  exact ⟨_, _, run, congrArg NI.atoms own, rfl, rfl, congrArg NI.out own, congrArg NI.inq own, frame⟩

/-! ### Its read is answered (R157, R158) -/

section Answers
variable {w : Taken} {rest : List Taken} {e : AtomEnt} (answers : takesAnswer s n = true)
  (known : (nif s n).atoms.find? (fun q => q.num == e.num) = some e)
  (off : ∀ g, (grpOf (nif s n) g).releasing = none) (none_ : (nif s n).readWait = [])
include answers known off none_

/-- An NI that offers the write-back of an atomic with `v`. -/
def atomWrites (e : AtomEnt) (d : BitVec 512) (v : BitVec 128) (x : NI) : NI :=
  putOut { x with
    atoms := x.atoms.map (fun q => if q.num = e.num then
      { q with phase := 1, old := goodLine d, fresh := (atomPut (atomArgs (hd e.pkt)) v).1 } else q)
    taken := x.taken.filter (fun t => t.kind != .atomicRead e.num) ++ [
      { kind := .atomicWrite e.num, pkt := e.pkt, tag := fTag (hd e.pkt), results := [], first := 0, count := 1, rest := []
        whole := .ok, after := [] }]
    idle := 0, discarding := false }
    (.inb (atomWrite e.pkt (atomPut (atomArgs (hd e.pkt)) v).1 (atomPut (atomArgs (hd e.pkt)) v).2))

omit answers known off none_ in
theorem atomReadDone_writes {u : State} {line : Line} {d : BitVec 512} {v : BitVec 128} (takes : delivers (nif u n) n = true)
    (good : line.poison = false) (words : atomWords (atomArgs (hd e.pkt)) line = some d)
    (new : atomNew (fOp (hd e.pkt)) (atomArgs (hd e.pkt)) (oldOf (atomArgs (hd e.pkt)) d) = some v) :
    atomReadDone u n e line .ok = (updN u n (atomWrites e d v), .waits) := by
  unfold atomReadDone
  dsimp only
  rw [if_neg (by decide), good, if_neg (by decide), words]
  dsimp only
  rw [new]
  dsimp only
  rw [takes, if_neg (by decide), offerPkt, updN_updN]
  rfl

theorem atomRead_answered {line : Line} {d : BitVec 512} {v : BitVec 128} (takes : delivers (nif s n) n = true)
    (open_ : takeFirst (fun t => t.kind == .atomicRead e.num) (nif s n).taken = some (w, rest))
    (kind : w.kind = .atomicRead e.num) (good : line.poison = false)
    (words : atomWords (atomArgs (hd e.pkt)) line = some d)
    (new : atomNew (fOp (hd e.pkt)) (atomArgs (hd e.pkt)) (oldOf (atomArgs (hd e.pkt)) d) = some v) :
    ∃ t, exec (.atomicReadReturn n e.num line .ok) s = .next t ∧
      (nif t n).out = (nif s n).out ++ [.inb (atomWrite e.pkt (atomPut (atomArgs (hd e.pkt)) v).1
        (atomPut (atomArgs (hd e.pkt)) v).2)] ∧ (∃ q ∈ (nif t n).atoms, q.num = e.num ∧ q.phase = 1) ∧
      niFrame n s t := by
  have took := niStep_updN s n (fun x => { x with taken := rest })
  have step := took.updN (atomWrites e d v)
  have run : exec (.atomicReadReturn n e.num line .ok) s = .next
      (updN (updN s n (fun x => { x with taken := rest })) n (atomWrites e d v)) := by
    show execAtomicReadReturn n e.num line .ok s = _
    unfold execAtomicReadReturn atomAnswer
    rw [if_pos answers, open_]
    unfold answerWork
    dsimp only
    rw [kind]
    dsimp only
    rw [took.1]
    dsimp only
    rw [known]
    show Host.Outcome.next (pumpAll (atomEnd (atomReadDone (updN s n (fun x => { x with taken := rest })) n e line .ok).1 n e
      (atomReadDone (updN s n (fun x => { x with taken := rest })) n e line .ok).2) n) = _
    rw [atomReadDone_writes ((congrArg (delivers · n) took.1).trans takes) good words new]
    exact congrArg Host.Outcome.next (step.pumpAll rfl rfl off none_)
  obtain ⟨own, frame⟩ := step
  refine ⟨_, run, congrArg NI.out own, ?_, frame⟩
  have mem := List.mem_map_of_mem (f := fun q : AtomEnt => if q.num = e.num then
    { q with phase := 1, old := goodLine d, fresh := (atomPut (atomArgs (hd e.pkt)) v).1 } else q)
    (List.mem_of_find?_eq_some known)
  rw [if_pos rfl] at mem
  exact ⟨_, (congrArg (_ ∈ ·) (congrArg NI.atoms own)).mpr mem, rfl, rfl⟩

/-! ### Its write-back is answered (R157) -/

theorem atomWrite_answered (open_ : takeFirst (fun t => t.kind == .atomicWrite e.num) (nif s n).taken = some (w, rest))
    (kind : w.kind = .atomicWrite e.num) (plain : e.stagedIdx = none) :
    ∃ t, exec (.atomicWritebackAck n e.num .ok) s = .next t ∧
      (nif t n).atoms = (nif s n).atoms.filter (fun q => q.num != e.num) ∧
      (nif t n).rspQ = (nif s n).rspQ ++ [((nif s n).nextPid, atResult (hd e.pkt) .ok
        (goodLine (atomData (atomArgs (hd e.pkt)) (oldOf (atomArgs (hd e.pkt)) e.old.data))))] ∧ niFrame n s t := by
  have took := niStep_updN s n (fun x => { x with taken := rest })
  have step := (took.updN (fun x => dropAtom x e.num)).sendRsp (atResult (hd e.pkt) .ok
    (goodLine (atomData (atomArgs (hd e.pkt)) (oldOf (atomArgs (hd e.pkt)) e.old.data))))
  have run : exec (.atomicWritebackAck n e.num .ok) s = .next (sendRsp (updN (updN s n (fun x => { x with taken := rest })) n
      (fun x => dropAtom x e.num)) n (atResult (hd e.pkt) .ok
      (goodLine (atomData (atomArgs (hd e.pkt)) (oldOf (atomArgs (hd e.pkt)) e.old.data))))) := by
    show execAtomicWritebackAck n e.num .ok s = _
    unfold execAtomicWritebackAck atomAnswer
    rw [if_pos answers, open_]
    unfold answerWork
    dsimp only
    rw [kind]
    dsimp only
    rw [took.1]
    dsimp only
    rw [known]
    show Host.Outcome.next (pumpAll (atomEnd (atomWriteDone (updN s n (fun x => { x with taken := rest })) n e .ok).1 n e
      (atomWriteDone (updN s n (fun x => { x with taken := rest })) n e .ok).2) n) = _
    unfold atomWriteDone atomEnd
    dsimp only
    rw [plain]
    exact congrArg Host.Outcome.next (step.pumpAll rfl rfl off none_)
  exact ⟨_, run, congrArg NI.atoms step.1, congrArg NI.rspQ step.1, step.2⟩

end Answers

/-! ### What an atomic computes (R158) -/

theorem atomLt_signed {a : AtomArgs} (wide : a.wide = true) (signed : a.signed = true) (x y : BitVec 128) :
    atomLt a x y = decide (x.toInt < y.toInt) := by
  rw [atomLt, if_pos wide, if_pos signed, BitVec.slt_eq_decide]

theorem atomLt_narrow {a : AtomArgs} (narrow : a.wide = false) (unsigned : a.signed = false) (x y : BitVec 128) :
    atomLt a x y = decide (x.toNat % 2 ^ 64 < y.toNat % 2 ^ 64) := by
  rw [atomLt, narrow, unsigned]
  exact BitVec.ult_eq_decide.trans (by rw [BitVec.toNat_setWidth, BitVec.toNat_setWidth])

end Atomics

/-- Settles O16. -/
theorem atomicsPerformed : Obligations.AtomicsPerformed := by
  refine ⟨fun s n runs notHerd => ⟨fun p next room takes plain code => atomic_executed runs notHerd next room takes plain code,
      fun w rest e line d v answers takes open_ kind known off none_ good words new =>
        atomRead_answered answers known off none_ takes open_ kind good words new,
      fun w rest e answers open_ kind known off none_ plain => atomWrite_answered answers known off none_ open_ kind plain⟩,
    fun a old => ⟨fun wide => ?_, fun narrow => ?_, rfl, rfl, rfl, rfl, atomLt_signed, atomLt_narrow⟩⟩
  · exact congrArg some (if_pos wide)
  · refine ⟨_, congrArg some (if_neg (by simp [narrow])), ?_⟩
    rw [BitVec.setWidth_setWidth_of_le _ (by omega)]
    exact BitVec.setWidth_eq _

end Sys2Proof.Proofs

/-! ## The endpoint's port: answers, reset, readiness (R144–R146, R485–R487): O18, O19. -/

namespace Sys2Proof.Proofs
open Sys2Proof.Machine Sys2Proof.Safety

section Endpoint
variable {s t u : State} {n : Slot}

/-! ### An answer is forwarded (R485, R486) -/

theorem abandon_none (whole : (nif s n).partialReq = none) : abandon s n = s := by
  rw [abandon, whole]

theorem parityPoison_of_clean {pkt : Packet} (good : clean pkt) :
    parityPoison (fLen (hd pkt)) 0 pkt [] = (pkt, []) := by
  obtain ⟨-, -, body⟩ := good
  exact Laws.parityPoison_clean fun q at_ later _ => body q at_ later

theorem answer_forwarded {pkt : Packet} {w : Taken} {rest : List Taken} (takes : takesAnswer s n = true)
    (some_ : pkt ≠ []) (good : clean pkt) (room : answerRoom (nif s n) pkt.length = true)
    (whole : (nif s n).partialReq = none) (open_ : takeFirst (isAnswerTo (hd pkt)) (nif s n).taken = some (w, rest))
    (kind : w.kind = .request) (last : w.rest = []) (after : w.after = []) (fits : answerFits w pkt = true) :
    ∃ t, exec (.endpointAnswer n pkt) s = .next t ∧ (nif t n).taken = rest ∧
      (nif t n).rspQ = (nif s n).rspQ ++ [((nif s n).nextPid,
        answerOf w.pkt (mergeRun w.results w.first (answerLines w pkt).2)
          (stWorse w.whole (answerLines w pkt).1))] ∧ niFrame n s t := by
  have closed := niStep_updN s n (fun x => { x with remainder := 0, shortfall := x.shortfall + x.remainder })
  have took := closed.updN (fun x => { x with taken := rest })
  have step := took.sendRsp (answerOf w.pkt (mergeRun w.results w.first (answerLines w pkt).2)
    (stWorse w.whole (if (answerLines w pkt).1 == .ok then .ok else (answerLines w pkt).1)))
  have status : (if (answerLines w pkt).1 == .ok then .ok else (answerLines w pkt).1) = (answerLines w pkt).1 := by
    cases (answerLines w pkt).1 <;> rfl
  rw [status] at step
  have run : exec (.endpointAnswer n pkt) s = .next (sendRsp (updN (updN s n (fun x =>
      { x with remainder := 0, shortfall := x.shortfall + x.remainder })) n (fun x => { x with taken := rest })) n
      (answerOf w.pkt (mergeRun w.results w.first (answerLines w pkt).2) (stWorse w.whole (answerLines w pkt).1))) := by
    show Host.Outcome.next (answerStep s n pkt) = _
    unfold answerStep
    have head : isHead (hd pkt) = true := good.1
    have even : badGroups (hd pkt) = 0 := good.2.1
    rw [if_neg (by simp [takes, some_, head, room])]
    dsimp only
    rw [abandon_none whole, if_neg (by simp [even]), parityPoison_of_clean good]
    dsimp only [logLocalParities, List.foldl_nil]
    rw [closed.1]
    dsimp only
    rw [open_]
    dsimp only
    rw [if_pos fits]
    unfold answerWork
    dsimp only
    rw [kind]
    dsimp only
    rw [last, after, status]
    rfl
  exact ⟨_, run, congrArg NI.taken step.1, congrArg NI.rspQ step.1, step.2⟩

/-! ### Work for the inbound queues alone -/

/-- The endpoint's own requests, and the state of its port. -/
structure Port where
  reset : Bool
  resetPin : Bool
  readyHold : Bool
  ready : Bool
  readyChanges : Nat
  partialReq : Option PendReq
  reqFifo : List FifoFlits
  store : List PendReq
  tags : List TagEnt
  reqs : List ReqEnt

/-- What an NI holds of them. -/
def portPart (x : NI) : Port :=
  { reset := x.reset, resetPin := x.resetPin, readyHold := x.readyHold, ready := x.ready, readyChanges := x.readyChanges
    partialReq := x.partialReq, reqFifo := x.reqFifo, store := x.store, tags := x.tags, reqs := x.reqs }

/-- Only NI `n` has worked, and not on what it holds of its endpoint. -/
def TargetWork (n : Slot) (s t : State) : Prop :=
  portPart (nif t n) = portPart (nif s n) ∧ ((nif s n).taken = [] → (nif t n).taken = []) ∧ niFrame n s t

theorem targetWork_refl (s : State) (n : Slot) : TargetWork n s s := ⟨rfl, id, (niStep_refl s n).2⟩

theorem TargetWork.trans (first : TargetWork n s t) (second : TargetWork n t u) : TargetWork n s u :=
  ⟨second.1.trans first.1, fun none_ => second.2.1 (first.2.1 none_), niFrame_trans first.2.2 second.2.2⟩

theorem targetWork_updN (s : State) (n : Slot) (f : NI → NI) (keeps : ∀ x, portPart (f x) = portPart x)
    (none_ : ∀ x, x.taken = [] → (f x).taken = []) : TargetWork n s (updN s n f) := by
  have step := niStep_updN s n f
  refine ⟨(congrArg portPart step.1).trans (keeps _), fun empty => ?_, step.2⟩
  rw [step.1]
  exact none_ _ empty

/-- Work that goes through a list, each of its elements by itself. -/
theorem targetWork_foldl {α : Type} (l : List α) (f : State → α → State) (s : State)
    (each : ∀ u, ∀ a ∈ l, TargetWork n s u → TargetWork n u (f u a)) : TargetWork n s (l.foldl f s) :=
  List.foldlRecOn (motive := TargetWork n s) l f (targetWork_refl s n) fun u so_far a mem =>
    so_far.trans (each u a mem so_far)

theorem targetWork_sendAfter (s : State) (n : Slot) (stamps : List Nat) (p : Packet) :
    TargetWork n s (sendAfter s n stamps p) := by
  refine targetWork_updN s n _ (fun x => ?_) (fun x none_ => ?_) <;> dsimp only <;> split
  · rfl
  · rfl
  · exact none_
  · exact none_

/-- The endpoint's reset is asserted, so that its NI answers in its place. -/
def HeldReset (s : State) (n : Slot) : Prop := ownPort n = false ∧ (nif s n).reset = true

theorem TargetWork.held (work : TargetWork n s t) (held : HeldReset s n) : HeldReset t n :=
  ⟨held.1, (congrArg Port.reset work.1).trans held.2⟩

theorem HeldReset.delivers (held : HeldReset s n) : delivers (nif s n) n = false := by
  obtain ⟨other, held⟩ := held
  have off : (n == herdSlot || n == canSlot) = false := other
  rw [Machine.delivers, off, held]
  rfl

theorem HeldReset.pump (held : HeldReset s n) (g : GroupId) : pump s n g = s := by
  unfold Machine.pump
  dsimp only
  rw [held.delivers, Bool.and_false, if_neg (by decide)]

theorem targetWork_entDone (held : HeldReset s n) (g : GroupId) (idx : Nat) (again : Bool) :
    TargetWork n s (entDone s n g idx again) := by
  have marked := targetWork_updN s n (fun x => { x with
    stage := if again then x.stage.map (fun e => if isEnt g idx e then { e with sent := false } else e)
             else x.stage.filter (fun e => !isEnt g idx e) }) (fun _ => rfl) (fun _ => id)
  unfold entDone
  dsimp only
  rw [(marked.held held).pump, ite_self]
  exact marked

theorem targetWork_serveWaiting (held : HeldReset s n) : TargetWork n s (serveWaiting s n) := by
  unfold serveWaiting
  refine targetWork_foldl _ _ s fun u p _ so_far => ?_
  dsimp only
  split
  · exact targetWork_refl u n
  · have left := targetWork_updN u n (fun x => { x with readWait := x.readWait.filter (fun q => q.stamp != p.stamp) })
      (fun _ => rfl) (fun _ => id)
    rw [((so_far.trans left).held held).delivers, if_neg (by decide)]
    exact left.trans (targetWork_updN _ n _ (fun _ => rfl) fun _ => id)

theorem targetWork_pumpAll (held : HeldReset s n) : TargetWork n s (pumpAll s n) := by
  have still (l : List GroupId) : l.foldl (fun s g => pump s n g) s = s := by
    induction l with
    | nil => rfl
    | cons g l ih => rw [List.foldl_cons, held.pump, ih]
  rw [pumpAll, still]
  exact targetWork_serveWaiting held

theorem targetWork_atomEnd (held : HeldReset s n) (e : AtomEnt) (r : AtomEnd) : TargetWork n s (atomEnd s n e r) := by
  unfold atomEnd
  split
  · exact targetWork_refl s n
  · have sent := targetWork_updN s n (fun x => queueRsp x ‹_›) (fun _ => rfl) (fun _ => id)
    dsimp only
    split
    · exact sent.trans (targetWork_entDone (sent.held held) _ _ _)
    · exact sent
  · split
    · exact targetWork_entDone held _ _ _
    · exact targetWork_refl s n

theorem targetWork_dropAtom (s : State) (n : Slot) (num : Nat) : TargetWork n s (updN s n (fun x => dropAtom x num)) :=
  targetWork_updN s n _ (fun _ => rfl) fun x none_ => by rw [dropAtom, none_]; rfl

/-- An atomic whose read is answered POISON writes nothing back. -/
theorem targetWork_atomReadDone (s : State) (n : Slot) (e : AtomEnt) (l : Line) :
    TargetWork n s (atomReadDone s n e l .poison).1 := by
  unfold atomReadDone
  dsimp only
  rw [if_neg (by decide), if_pos (by simp)]
  exact targetWork_dropAtom s n e.num

theorem targetWork_answerAtom (held : HeldReset s n) {w : Taken} (num : Nat)
    (kind : w.kind = .atomicRead num ∨ w.kind = .atomicWrite num) (ls : List LineRes)
    (bad : stWorse .poison (worst (ls.map (·.code))) = .poison) : TargetWork n s (answerWork s n w .poison ls) := by
  unfold answerWork
  dsimp only
  rw [bad]
  have ends (e : AtomEnt) (r : AtomEnd) {u : State} (work : TargetWork n s u) :
      TargetWork n s (pumpAll (atomEnd u n e r) n) := by
    have ended := work.trans (targetWork_atomEnd (work.held held) e r)
    exact ended.trans (targetWork_pumpAll (ended.held held))
  rcases kind with kind | kind <;> rw [kind] <;> dsimp only <;> split
  · exact ends _ _ (targetWork_atomReadDone s n _ _)
  · exact targetWork_refl s n
  · exact ends _ _ (targetWork_dropAtom s n _)
  · exact targetWork_refl s n

theorem worst_poisoned (k : Nat) :
    stWorse .poison (worst ((List.replicate k (noLine .poison .ok 0)).map (·.code))) = .poison := by
  have absorbs (a : Status) (low : a = .ok ∨ a = .poison) (l : List Status) (all : ∀ b ∈ l, b = .poison) :
      stWorse .poison (l.foldl stWorse a) = .poison := by
    induction l generalizing a with
    | nil => rcases low with rfl | rfl <;> rfl
    | cons b l ih =>
      have next : stWorse a .poison = .poison := by rcases low with rfl | rfl <;> rfl
      rw [List.foldl_cons, all b List.mem_cons_self, next]
      exact ih .poison (.inr rfl) fun c mem => all c (List.mem_cons_of_mem _ mem)
  refine absorbs .ok (.inl rfl) _ fun b mem => ?_
  obtain ⟨r, of, rfl⟩ := List.mem_map.mp mem
  have eq : r = noLine .poison .ok 0 := List.eq_of_mem_replicate of
  rw [eq]
  rfl

theorem targetWork_answerTaken (held : HeldReset s n) :
    TargetWork n (updN s n (fun x => { x with taken := [] })) (answerTaken s n) := by
  have emptied : HeldReset (updN s n (fun x => { x with taken := [] })) n := by
    refine ⟨held.1, ?_⟩
    rw [nif_updN_same]
    exact held.2
  unfold answerTaken
  refine targetWork_foldl _ _ _ fun u w _ so_far => ?_
  have held := so_far.held emptied
  dsimp only
  split
  · exact targetWork_sendAfter ..
  · exact targetWork_entDone held _ _ _
  · exact targetWork_updN u n _ (fun _ => rfl) fun _ => id
  · exact targetWork_updN u n _ (fun _ => rfl) fun _ => id
  · cases kind : w.kind with
    | atomicRead num => exact targetWork_answerAtom held num (.inl kind) _ (worst_poisoned _)
    | atomicWrite num => exact targetWork_answerAtom held num (.inr kind) _ (worst_poisoned _)
    | _ => simp_all

/-! ### What waits in the inbound queues is answered (R146) -/

/-- What waits there, and is neither early nor of a lock. -/
def queueWaits (p : InPkt) : Bool := !p.early && !isLock (fOp (hd p.pkt))

/-- An NI without what waits there. -/
def queueEmptied (x : NI) : NI := { x with inq := x.inq.filter (fun p => !queueWaits p), readWait := [] }

theorem answersSent (l : List InPkt) (t : State) :
    TargetWork n t (l.foldl (fun s p => sendRsp s n (refuseAll p .notReady)) t) ∧
    (nif (l.foldl (fun s p => sendRsp s n (refuseAll p .notReady)) t) n).readWait = (nif t n).readWait ∧
    (nif (l.foldl (fun s p => sendRsp s n (refuseAll p .notReady)) t) n).inq = (nif t n).inq ∧
    (l.foldl (fun s p => sendRsp s n (refuseAll p .notReady)) t).herd = t.herd := by
  induction l generalizing t with
  | nil => exact ⟨targetWork_refl t n, rfl, rfl, rfl⟩
  | cons p l ih =>
    have step := (niStep_refl t n).sendRsp (refuseAll p .notReady)
    obtain ⟨work, wait, inq, herd⟩ := ih (sendRsp t n (refuseAll p .notReady))
    exact ⟨(targetWork_updN t n (fun x => queueRsp x (refuseAll p .notReady)) (fun _ => rfl) fun _ => id).trans work,
      wait.trans (congrArg NI.readWait step.1 :), inq.trans (congrArg NI.inq step.1 :), herd⟩

theorem answerQueue_answers (s : State) (n : Slot) : TargetWork n s (answerQueue s n) ∧
    (nif (answerQueue s n) n).readWait = [] ∧
    (nif (answerQueue s n) n).inq = (nif s n).inq.filter (fun p => !queueWaits p) ∧
    (answerQueue s n).herd = s.herd := by
  have emptied := niStep_updN s n queueEmptied
  obtain ⟨work, wait, inq, herd⟩ := answersSent ((nif s n).inq.filter queueWaits ++ (nif s n).readWait) (updN s n queueEmptied)
  exact ⟨(targetWork_updN s n queueEmptied (fun _ => rfl) fun _ => id).trans work,
    wait.trans (congrArg NI.readWait emptied.1), inq.trans (congrArg NI.inq emptied.1), herd⟩

/-! ### The reset of an endpoint (R144, R146) -/

/-- What the assertion of the endpoint's reset does to its NI. -/
def heldInReset (x : NI) : NI :=
  { x with
    reset := true, readyHold := true, reqFifo := [], reqDrop := 0, store := [], partialReq := none, partialTicks := 0,
    remainder := 0
    tags := x.tags.map (fun t => { t with orphan := true })
    reqs := x.reqs.map (fun r => { r with discard := true }) }

/-- What it leaves there. -/
def InReset (s t : State) (n : Slot) : Prop :=
  (nif t n).reset = true ∧ (nif t n).resetPin = true ∧
  (nif t n).readyHold = true ∧ (nif t n).reqFifo = [] ∧ (nif t n).store = [] ∧ (nif t n).partialReq = none ∧
  (nif t n).taken = [] ∧ (nif t n).readWait = [] ∧
  (∀ q ∈ (nif t n).tags, q.orphan = true) ∧ (∀ r ∈ (nif t n).reqs, r.discard = true) ∧
  otherNis n s t ∧ t.routers = s.routers ∧ sameRest s t

theorem resetEndpoint_resets (other : ownPort n = false) (pin : (nif s n).resetPin = true) :
    InReset s (resetEndpoint s n) n := by
  have noted : NiStep n s (if unacceptedFlits (nif s n) = 0 then s else
      repNi s n .epResetDiscard (min 65535 (unacceptedFlits (nif s n)))) (nif s n) :=
    (niStep_refl s n).ite ((niStep_refl s n).counts (counts_report _ _))
  have reset := noted.updN heldInReset
  unfold resetEndpoint
  dsimp only
  rw [show (fun x : NI => ({ x with
    reset := true, readyHold := true, reqFifo := [], reqDrop := 0, store := [], partialReq := none, partialTicks := 0,
    remainder := 0
    tags := x.tags.map (fun t => { t with orphan := true })
    reqs := x.reqs.map (fun r => { r with discard := true }) } : NI)) = heldInReset from rfl]
  generalize updN (if unacceptedFlits (nif s n) = 0 then s else
      repNi s n .epResetDiscard (min 65535 (unacceptedFlits (nif s n)))) n heldInReset = u at reset
  have held : HeldReset u n := ⟨other, congrArg NI.reset reset.1⟩
  have emptied := niStep_updN u n (fun x => { x with taken := [] })
  obtain ⟨part, none_, work⟩ := targetWork_answerTaken held
  have none_ := none_ (congrArg NI.taken emptied.1)
  have part : portPart (nif (answerTaken u n) n) = portPart (heldInReset (nif s n)) :=
    (part.trans (congrArg portPart emptied.1)).trans (congrArg portPart reset.1 :)
  obtain ⟨⟨part', none', work'⟩, wait, -⟩ := answerQueue_answers (answerTaken u n) n
  have part := part'.trans part
  have none_ := none' none_
  have frame := niFrame_trans (niFrame_trans reset.2 (niFrame_trans emptied.2 work)) work'
  generalize answerQueue (answerTaken u n) n = v at part none_ wait frame
  obtain ⟨gone, order, ooo, own, drop⟩ := (niStep_refl v n).dropDiscarded
  obtain ⟨others, routers, -, rest, -, -, -⟩ := niFrame_trans frame drop
  obtain ⟨g, gl, rs, bumped⟩ := bumpGen_frame (s := dropDiscarded v n) n false
  rw [bumped]
  have own : nif ({ dropDiscarded v n with herd := { (dropDiscarded v n).herd with
    gens := g, gensLate := gl, resync := rs } } : State) n = _ := own
  rw [InReset, own]
  refine ⟨congrArg Port.reset part, (congrArg Port.resetPin part).trans pin, congrArg Port.readyHold part,
    congrArg Port.reqFifo part, congrArg Port.store part, congrArg Port.partialReq part, none_, wait, fun q mem => ?_,
    fun r mem => ?_, others, routers, rest⟩
  · have tags : (nif v n).tags = (nif s n).tags.map (fun t => { t with orphan := true }) := congrArg Port.tags part
    have mem : q ∈ (nif v n).tags := mem
    rw [tags] at mem
    obtain ⟨e, -, rfl⟩ := List.mem_map.mp mem
    rfl
  · have reqs : (nif v n).reqs = (nif s n).reqs.map (fun r => { r with discard := true }) := congrArg Port.reqs part
    have mem : r ∈ (nif v n).reqs := List.mem_of_mem_filter mem
    rw [reqs] at mem
    obtain ⟨e, -, rfl⟩ := List.mem_map.mp mem
    rfl

theorem reset_asserted (runs : niRuns s n = true) (other : ownPort n = false) (off : (nif s n).reset = false)
    (serves : s.aon.mode ≠ .retain) : ∃ t, exec (.epResetAssert n) s = .next t ∧ InReset s t n := by
  have pinned := niStep_updN s n (fun x => { x with resetPin := true })
  have run : exec (.epResetAssert n) s = .next (resetEndpoint (updN s n (fun x => { x with resetPin := true })) n) := by
    show execEpResetAssert n s = _
    unfold execEpResetAssert
    have notRetain : ((updN s n (fun x => { x with resetPin := true })).aon.mode == .retain) = false := by simp [serves]
    have starts : (niRuns (updN s n (fun x => { x with resetPin := true })) n &&
        !(nif (updN s n (fun x => { x with resetPin := true })) n).reset) = true := by
      rw [pinned.1]
      simp only [off]
      exact (Bool.and_true _).trans runs
    dsimp only
    rw [other, if_neg (by decide), notRetain, if_neg (by decide), if_pos starts]
  obtain ⟨a, b, c, d, e, f, g, h, i, j, others, routers, rest⟩ :=
    resetEndpoint_resets (s := updN s n (fun x => { x with resetPin := true })) other (congrArg NI.resetPin pinned.1)
  exact ⟨_, run, a, b, c, d, e, f, g, h, i, j, fun m ne => (others m ne).trans (pinned.2.1 m ne), routers, rest⟩

/-! ### Its release and request-ready (R145) -/

theorem drainSink_empty (spills : (nif s n).vatSpills = []) (drains : (nif s n).vatDrains = []) :
    drainSink s n = s := by
  have same (f : NI → NI) (fixed : f (nif s n) = nif s n) : updN s n f = s := by
    have nis : tupd s.nis n f = s.nis := (tupd_congr (g := id) fixed).trans (by simp [tupd])
    rw [updN, nis]
  have noSpills := same (fun x => { x with vatSpills := [] }) (by rw [← spills])
  have noDrains := same (fun x => { x with vatDrains := [] }) (by rw [← drains])
  unfold drainSink
  dsimp only
  rw [spills, noSpills, List.foldl_nil, drains, noDrains, List.foldl_nil, ite_self]

theorem reset_released (runs : niRuns s n = true) (other : ownPort n = false) (on : (nif s n).reset = true)
    (pin : (nif s n).resetPin = true) (serves : s.aon.mode ≠ .retain) (spills : (nif s n).vatSpills = [])
    (drains : (nif s n).vatDrains = []) :
    exec (.epResetRelease n) s = .next (updN s n (fun x => { x with resetPin := false, reset := false })) := by
  have unpinned := niStep_updN s n (fun x => { x with resetPin := false })
  have released := unpinned.updN (fun x => { x with reset := false })
  have drained : releaseEndpoint (updN s n (fun x => { x with resetPin := false })) n =
      updN s n (fun x => { x with resetPin := false, reset := false }) := by
    rw [releaseEndpoint, drainSink_empty ((congrArg NI.vatSpills released.1).trans spills)
      ((congrArg NI.vatDrains released.1).trans drains), updN_updN]
  have notRetain : ((updN s n (fun x => { x with resetPin := false })).aon.mode == .retain) = false := by simp [serves]
  have runs : niRuns (updN s n (fun x => { x with resetPin := false })) n = true := runs
  show execEpResetRelease n s = _
  unfold execEpResetRelease
  dsimp only
  rw [other, pin, if_neg (by decide), if_neg (by rw [unpinned.1]; simp [on]), notRetain, if_neg (by decide), if_pos runs,
    drained]

/-! ### EP_READY (R487) -/

/-- The NI's sink is emptied into the endpoint: the free values drawn and the NI are all that may change, and of the NI
neither its readiness nor the count of its changes. -/
def SinkWork (n : Slot) (s t : State) : Prop :=
  (nif t n).ready = (nif s n).ready ∧ (nif t n).readyChanges = (nif s n).readyChanges ∧
  otherNis n s t ∧ t.routers = s.routers ∧ t.herd = s.herd ∧ t.cfgA = s.cfgA ∧ t.cfgB = s.cfgB

theorem SinkWork.trans (first : SinkWork n s t) (second : SinkWork n t u) : SinkWork n s u := by
  obtain ⟨a, b, others, c, d, e, f⟩ := first
  obtain ⟨a', b', others', c', d', e', f'⟩ := second
  exact ⟨a'.trans a, b'.trans b, fun m ne => (others' m ne).trans (others m ne), c'.trans c, d'.trans d, e'.trans e,
    f'.trans f⟩

theorem sinkWork_refl (s : State) (n : Slot) : SinkWork n s s := ⟨rfl, rfl, fun _ _ => rfl, rfl, rfl, rfl, rfl⟩

theorem sinkWork_updN (s : State) (n : Slot) (f : NI → NI) (ready : ∀ x, (f x).ready = x.ready)
    (changes : ∀ x, (f x).readyChanges = x.readyChanges) : SinkWork n s (updN s n f) := by
  obtain ⟨own, others, routers, -, -, -, -, -⟩ := niStep_updN s n f
  exact ⟨(congrArg NI.ready own).trans (ready _), (congrArg NI.readyChanges own).trans (changes _), others, rfl, rfl, rfl,
    rfl⟩

theorem sinkWork_foldl {α : Type} (l : List α) (f : State → α → State) (s : State)
    (each : ∀ u a, SinkWork n u (f u a)) : SinkWork n s (l.foldl f s) :=
  List.foldlRecOn (motive := SinkWork n s) l f (sinkWork_refl s n) fun u so_far a _ => so_far.trans (each u a)

/-- Work offered under a tag drawn for it. -/
theorem sinkWork_offered (s : State) (n : Slot) (w : Taken) (p : Packet) :
    SinkWork n s (offerPkt { s with drawn := s.drawn + 1 } n w p) :=
  (sinkWork_refl s n : SinkWork n s { s with drawn := s.drawn + 1 }).trans
    (sinkWork_updN _ n _ (fun _ => rfl) fun _ => rfl)

theorem sinkWork_drainSink (s : State) (n : Slot) : SinkWork n s (drainSink s n) := by
  unfold drainSink
  dsimp only
  split
  · exact sinkWork_refl s n
  · have spills := sinkWork_updN s n (fun x => { x with vatSpills := [] }) (fun _ => rfl) fun _ => rfl
    refine (spills.trans (sinkWork_foldl _ _ _ fun u p => ?_)).trans
      ((sinkWork_updN _ n (fun x => { x with vatDrains := [] }) (fun _ => rfl) fun _ => rfl).trans
        (sinkWork_foldl _ _ _ fun u p => sinkWork_offered ..))
    exact sinkWork_foldl _ _ _ fun u f => sinkWork_offered ..

theorem ready_changed {level : Bool} (runs : niRuns s n = true) (other : ownPort n = false)
    (new : (nif s n).ready ≠ level) :
    ∃ t, exec (.epReadyChange n level) s = .next t ∧ (nif t n).ready = level ∧
      (nif t n).readyChanges = (nif s n).readyChanges + 1 ∧
      (level = false → (nif t n).readWait = [] ∧
        ∀ p ∈ (nif t n).inq, p.early = true ∨ isLock (fOp (hd p.pkt)) = true) ∧
      otherNis n s t ∧ t.routers = s.routers ∧ t.herd = s.herd ∧ t.cfgA = s.cfgA ∧ t.cfgB = s.cfgB := by
  obtain ⟨own, others, -⟩ := niStep_updN s n (fun x => { x with ready := level, readyChanges := x.readyChanges + 1 })
  have run : exec (.epReadyChange n level) s = .next _ :=
    congrArg Host.Outcome.next (if_neg (by simp [other, runs, new]))
  cases level with
  | true =>
    obtain ⟨ready, changes, others', routers, herd, cfgA, cfgB⟩ := sinkWork_drainSink
      (updN s n (fun x => { x with ready := true, readyChanges := x.readyChanges + 1 })) n
    exact ⟨_, run, ready.trans (congrArg NI.ready own), changes.trans (congrArg NI.readyChanges own),
      fun down => absurd down (by decide), fun m ne => (others' m ne).trans (others m ne), routers, herd, cfgA, cfgB⟩
  | false =>
    obtain ⟨⟨part, -, others', routers, -, rest, -⟩, wait, inq, herd⟩ := answerQueue_answers
      (updN s n (fun x => { x with ready := false, readyChanges := x.readyChanges + 1 })) n
    refine ⟨_, run, (congrArg Port.ready part).trans (congrArg NI.ready own),
      (congrArg Port.readyChanges part).trans (congrArg NI.readyChanges own), fun _ => ⟨wait, fun p mem => ?_⟩,
      fun m ne => (others' m ne).trans (others m ne), routers, herd, rest.2.1, rest.2.2.1⟩
    have stays := (List.mem_filter.mp (inq ▸ mem)).2
    simpa [queueWaits, or_iff_not_imp_left] using stays

end Endpoint

/-- Settles O18. -/
theorem endpointAnswerForwarded : Obligations.EndpointAnswerForwarded :=
  fun _ _ _ _ _ takes some_ good room whole open_ kind last after fits =>
    answer_forwarded takes some_ good room whole open_ kind last after fits

/-- Settles O19. -/
theorem endpointPort : Obligations.EndpointPort := by
  intro s n runs other
  refine ⟨fun off serves => reset_asserted runs other off serves,
    fun on pin serves spills drains => reset_released runs other on pin serves spills drains,
    fun off held none_ tags reqs => congrArg Host.Outcome.next (if_pos ?_), fun level new => ready_changed runs other new,
    congrArg Host.Outcome.next (if_pos (by simp [runs, other]))⟩
  have freeTags : (nif s n).tags.all (fun t => !t.orphan || t.staged) = true :=
    List.all_eq_true.mpr fun q mem => by
      rcases tags q mem with orphan | staged
      · simp [orphan]
      · simp [staged]
  have freeReqs : (nif s n).reqs.any (holdsTag (nif s n)) = false :=
    List.any_eq_false.mpr fun r mem => by simp [reqs r mem]
  simp [runs, off, held, none_, freeTags, freeReqs]

end Sys2Proof.Proofs

/-! ## A request packet on its way into an empty request store (R109–R111): what its turn finds there. -/

namespace Sys2Proof.Proofs
open Sys2Proof.Machine Sys2Proof.Safety

section Arriving
variable {n : Slot} {s t u : State}

/-! ### An NI before its requests have their turns -/

/-- An NI but for its request FIFO and store. -/
def sight (x : NI) : NI :=
  { x with reqFifo := [], reqDrop := 0, remainder := 0, shortfall := 0, store := [], partialReq := none }

/-- Flits have come to NI `n`, and none of its requests has had its turn. -/
def Arrived (n : Slot) (s u : State) : Prop :=
  sight (nif u n) = sight (nif s n) ∧ niFrame n s u ∧ u.can = s.can ∧ Tells s u

theorem arrived_refl (s : State) (n : Slot) : Arrived n s s := ⟨rfl, (niStep_refl s n).2, rfl, .of_eq rfl⟩

theorem Arrived.trans (first : Arrived n s t) (second : Arrived n t u) : Arrived n s u :=
  ⟨second.1.trans first.1, niFrame_trans first.2.1 second.2.1, second.2.2.1.trans first.2.2.1,
    first.2.2.2.trans second.2.2.2⟩

theorem arrived_updN (s : State) (n : Slot) (f : NI → NI) (keeps : ∀ x, sight (f x) = sight x) :
    Arrived n s (updN s n f) := by
  have step := niStep_updN s n f
  exact ⟨(congrArg sight step.1).trans (keeps _), step.2, rfl, .of_eq rfl⟩

theorem Counts.arrived (counts : Counts s t) (n : Slot) : Arrived n s t := by
  have step := counts.niStep n
  have tells := counts.tells
  obtain ⟨v, o, k, evs, rfl⟩ := counts
  exact ⟨congrArg sight step.1, step.2, rfl, tells⟩

/-- All that may differ. -/
theorem Arrived.explicit (arrived : Arrived n s u) : ∃ nis dip reports,
    u = { s with nis := nis, dip := dip, herd := { s.herd with reports := reports } } := by
  obtain ⟨-, ⟨-, routers, spine, ⟨epochs, cfgA, cfgB, crock, aon, churn, recov, drawn, pending⟩, herd, -, -⟩, can, -⟩ := arrived
  have herd : u.herd = { s.herd with reports := u.herd.reports } := herd
  refine ⟨u.nis, u.dip, u.herd.reports, ?_⟩
  rw [← routers, ← spine, ← epochs, ← cfgA, ← cfgB, ← crock, ← aon, ← churn, ← recov, ← drawn, ← pending, ← can, ← herd]

theorem Arrived.seen {α : Type} (arrived : Arrived n s u) (f : NI → α) (same : ∀ x, f (sight x) = f x) :
    f (nif u n) = f (nif s n) := by
  rw [← same, arrived.1, same]

/-! ### What its checks read is as before -/

theorem Arrived.cfgN (arrived : Arrived n s u) : cfgN u = cfgN s := by
  obtain ⟨nis, dip, reports, rfl⟩ := arrived.explicit
  rfl

theorem Arrived.wordBad (arrived : Arrived n s u) : wordBad u = wordBad s := by
  obtain ⟨nis, dip, reports, rfl⟩ := arrived.explicit
  rfl

theorem Arrived.canonGroup (arrived : Arrived n s u) : canonGroup u = canonGroup s := by
  obtain ⟨nis, dip, reports, rfl⟩ := arrived.explicit
  rfl

theorem Arrived.soundWords (arrived : Arrived n s u) (sound : soundWords s) : soundWords u := by
  obtain ⟨nis, dip, reports, rfl⟩ := arrived.explicit
  exact sound

theorem Arrived.planOf (arrived : Arrived n s u) (op : BitVec 6) (pkt : Packet) : planOf u n op pkt = planOf s n op pkt := by
  obtain ⟨nis, dip, reports, rfl⟩ := arrived.explicit
  rfl

theorem Arrived.gateSetOf (arrived : Arrived n s u) : gateSetOf u n = gateSetOf s n := by
  unfold Machine.gateSetOf gRegionBad
  dsimp only
  rw [arrived.wordBad, arrived.seen NI.gates fun _ => rfl, arrived.seen NI.gateActive fun _ => rfl]

theorem Arrived.curdSource (arrived : Arrived n s u) (op : BitVec 6) (ord : Bool) (low line : Nat) :
    curdSource u n op ord low line = curdSource s n op ord low line := by
  unfold Machine.curdSource
  rw [arrived.canonGroup, arrived.seen NI.groups fun _ => rfl]

theorem Arrived.checkLine (arrived : Arrived n s u) (op : BitVec 6) (fetch : Bool) (h : Flit) (pos : Nat) (m : LineMap) :
    checkLine u n op fetch h pos m = checkLine s n op fetch h pos m := by
  unfold Machine.checkLine gateLine gateMail
  dsimp only
  rw [arrived.wordBad, arrived.cfgN, arrived.gateSetOf, arrived.curdSource, arrived.seen NI.gates fun _ => rfl,
    arrived.seen NI.gateActive fun _ => rfl, arrived.seen NI.dbgAuth fun _ => rfl]

theorem Arrived.checksOf (arrived : Arrived n s u) (op : BitVec 6) (fetch : Bool) (pkt : Packet) (plan : List LineMap) :
    checksOf u n op fetch pkt plan = checksOf s n op fetch pkt plan := by
  unfold Safety.checksOf
  exact List.map_congr_left fun p _ => arrived.checkLine ..

theorem Arrived.curdWaits (arrived : Arrived n s u) : curdWaits u n = curdWaits s n := by
  funext op c
  unfold Machine.curdWaits
  rw [arrived.seen NI.groups fun _ => rfl]

theorem Arrived.doorbells (arrived : Arrived n s u) (op : BitVec 6) (pkt : Packet) (cs : List LineChk) :
    doorbells u n op pkt cs = doorbells s n op pkt cs := by
  have window : windowOf (nif u n) = windowOf (nif s n) := arrived.seen windowOf fun _ => rfl
  have home : isHomeLine (nif u n) = isHomeLine (nif s n) := arrived.seen isHomeLine fun _ => rfl
  unfold Machine.doorbells
  rw [window, home]

theorem Arrived.laneRoom (arrived : Arrived n s u) (inb : Bool) (need : Nat) : laneRoom u n inb need = laneRoom s n inb need := by
  unfold Machine.laneRoom
  rw [arrived.2.2.1]

theorem Arrived.step5Waits (arrived : Arrived n s u) (op : BitVec 6) (pkt : Packet) (cs : List LineChk)
    (pieces : List (List LineChk)) (tallies : Nat) : step5Waits u n op pkt cs pieces tallies =
      step5Waits s n op pkt cs pieces tallies := by
  unfold Machine.step5Waits
  dsimp only
  rw [arrived.curdWaits, arrived.doorbells, arrived.laneRoom, arrived.seen NI.holdAll fun _ => rfl,
    arrived.seen NI.reqs fun _ => rfl, arrived.seen NI.inj fun _ => rfl, arrived.seen NI.dbQ fun _ => rfl]

theorem Arrived.admitted (arrived : Arrived n s u) {op : BitVec 6} {fetch : Bool} {pkt : Packet} {plan : List LineMap}
    (ok : admitted s n op fetch pkt plan) : admitted u n op fetch pkt plan := by
  obtain ⟨some_, all, held, goes⟩ := ok
  unfold Safety.admitted
  dsimp only
  rw [arrived.checksOf, arrived.step5Waits, arrived.seen NI.holdPosted fun _ => rfl]
  exact ⟨some_, all, held, goes⟩

theorem Arrived.unpoliced (arrived : Arrived n s u) {pkt : Packet} (free : unpoliced s n pkt) : unpoliced u n pkt := by
  unfold Safety.unpoliced meterWord
  rw [arrived.seen NI.meter fun _ => rfl]
  exact free

theorem Arrived.closeHeld (arrived : Arrived n s u) : closeHeld (nif u n) = closeHeld (nif s n) :=
  arrived.seen Machine.closeHeld fun _ => rfl

theorem wordBad_sound (sound : soundWords s) (u : TabUnit) (k : WordKind) : wordBad s u k = false := by
  rw [wordBad, sound.1, sound.2]
  rfl

theorem gateEccLog_sound (sound : soundWords s) : gateEccLog s n = s := by
  unfold gateEccLog
  generalize List.finRange 32 = l
  dsimp only
  have still : ∀ i, (gRegionBad s n (nif s n).gateActive i && !(nif s n).gateEcc.contains ((nif s n).gateActive, i)) = false :=
    fun i => by rw [gRegionBad, wordBad_sound sound, Bool.false_and]
  induction l with
  | nil => rfl
  | cons i l ih => rw [List.foldl_cons, if_neg (by rw [still]; decide), ih]

theorem meterEcc_sound (sound : soundWords s) (tenant : Fin 4096) : meterEcc s n tenant = s := by
  unfold meterEcc
  dsimp only
  rw [wordBad_sound sound, wordBad_sound sound]
  rfl

/-! ### A whole packet enters the store -/

/-- The entry of a whole request in the store. -/
def entryOf (s : State) (n : Slot) (op : BitVec 6) (fetch : Bool) (pkt : Packet) : PendReq :=
  { op := op, fetch := fetch, pkt := pkt, metered := .no, parity := [], tagFree := !tagBusy (nif s n) (fTag (hd pkt))
    bad := step1Bad (nif s n) op pkt, plan := planOf s n op pkt }

theorem checkOperand_clean {op : BitVec 6} {pkt : Packet} (good : operandClean op (hd pkt)) (some_ : pkt ≠ []) :
    checkOperand s n op pkt = (s, pkt) := by
  obtain ⟨h, rest, rfl⟩ := List.exists_cons_of_ne_nil some_
  unfold checkOperand
  dsimp only
  split
  · next reads =>
    have clean_ := good (by simpa using reads)
    have which : (if (op == opRdSpray) = true then 1 else 0) = if op = opRdSpray then 1 else 0 := by simp
    rw [which, show h = hd (h :: rest) from rfl, clean_]
  · rfl

/-- A packet that stands whole at an NI with an empty store. -/
structure Stands (s : State) (n : Slot) (op : BitVec 6) (pkt : Packet) : Prop where
  takes : takesRequest s n pkt.length = true
  clean : clean pkt
  opcode : fOp (hd pkt) = op
  operand : operandClean op (hd pkt)
  whole : pkt.length = fLen (hd pkt) + 1
  noPart : (nif s n).partialReq = none
  fifo : (nif s n).reqFifo = []
  store : (nif s n).store = []
  room : storeRoom (nif s n) pkt.length = true
  open_ : closeHeld (nif s n) = false
  sound : soundWords s

theorem stands_of_offered {op : BitVec 6} {pkt : Packet} (o : offered s n op pkt) : Stands s n op pkt := by
  obtain ⟨takes, clean, opcode, operand, whole, noPart, fifo, store, room, open_, sound⟩ := o
  exact ⟨takes, clean, opcode, operand, whole, noPart, fifo, store, room, open_, sound⟩

theorem takesRequest_other {k : Nat} (takes : takesRequest s n k = true) : ownPort n = false := by
  unfold takesRequest at takes
  simp only [Bool.and_eq_true, Bool.not_eq_true'] at takes
  exact takes.1.1.1.1.1.2

theorem ne_nil_of_whole {pkt : Packet} (whole : pkt.length = fLen (hd pkt) + 1) : pkt ≠ [] :=
  List.ne_nil_of_length_pos (by omega)

theorem present_pushes {op : BitVec 6} {fetch : Bool} {pkt : Packet} (takes : takesRequest s n pkt.length = true)
    (some_ : pkt ≠ []) (good : clean pkt) (op_ : fOp (hd pkt) = op) :
    present s n op fetch pkt = pushFlits s n { op := op, fetch := fetch, flits := pkt } := by
  obtain ⟨head, even, -⟩ := good
  have heads : pkt.all (fun f => !isHead f) = false := by
    obtain ⟨h, rest, rfl⟩ := List.exists_cons_of_ne_nil some_
    have : isHead h = true := head
    simp [this]
  unfold present
  dsimp only
  rw [if_neg (by simp [takes, some_]), if_neg (by simp [heads]), if_neg (by simp [op_])]

/-- With an empty FIFO and a clean head, its flits are drawn at once. -/
theorem pushFlits_draws {op : BitVec 6} {fetch : Bool} {pkt : Packet} (some_ : pkt ≠ []) (good : clean pkt)
    (fifo : (nif s n).reqFifo = []) (room : storeRoom (nif s n) pkt.length = true) :
    pushFlits s n { op := op, fetch := fetch, flits := pkt } =
      processOnce (drawHead (updN s n (fun x => { x with reqFifo := [] })) n op fetch pkt) n := by
  obtain ⟨head, even, -⟩ := good
  have heads : pkt.all (fun f => !isHead f) = false := by
    obtain ⟨h, rest, rfl⟩ := List.exists_cons_of_ne_nil some_
    have : isHead h = true := head
    simp [this]
  have pushed := niStep_updN s n (fun x => { x with reqFifo := x.reqFifo ++ [{ op := op, fetch := fetch, flits := pkt }] })
  unfold pushFlits
  dsimp only
  rw [pushed.1]
  dsimp only
  rw [fifo]
  show drawFifo 1 _ n = _
  unfold drawFifo
  dsimp only
  rw [pushed.1]
  dsimp only
  rw [fifo]
  dsimp only [List.nil_append]
  have room : storeRoom ({ nif s n with reqFifo := [{ op := op, fetch := fetch, flits := pkt }] } : NI) pkt.length = true := room
  rw [if_pos room, updN_updN]
  unfold drawFifo drawFlits
  dsimp only
  rw [if_neg (by simp [heads])]

/-- An NI whose request store has been drawn from its FIFO. -/
def drawn (x : NI) : NI :=
  { x with reqFifo := [], remainder := 0, shortfall := x.shortfall + x.remainder, reqDrop := 0 }

theorem drawHead_enters {op : BitVec 6} {fetch : Bool} {pkt : Packet} (good : clean pkt)
    (noPart : (nif s n).partialReq = none) :
    drawHead (updN s n (fun x => { x with reqFifo := [] })) n op fetch pkt =
      enterStore (updN s n drawn) n op fetch pkt (!tagBusy (nif (updN s n drawn) n) (fTag (hd pkt))) [] := by
  have emptied := niStep_updN s n (fun x => { x with reqFifo := [] })
  unfold drawHead
  dsimp only
  rw [abandon_none ((congrArg NI.partialReq emptied.1).trans noPart), if_neg (by simp [good.2.1]),
    parityPoison_of_clean good, updN_updN, updN_updN]
  rfl

/-- A request put into the store. -/
def stored (e : PendReq) (x : NI) : NI := { x with store := x.store ++ [e], partialReq := none }

theorem enterStore_whole {op : BitVec 6} {fetch free : Bool} {pkt : Packet} (good : operandClean op (hd pkt))
    (whole : pkt.length = fLen (hd pkt) + 1) : ∃ u, Arrived n s u ∧ nif u n = nif s n ∧
    enterStore s n op fetch pkt free [] = updN u n (stored { op := op, fetch := fetch, pkt := pkt, metered := .no
                                                             parity := [], tagFree := free
                                                             bad := step1Bad (nif s n) op pkt, plan := planOf s n op pkt }) := by
  have all : pkt.take (fLen (hd pkt) + 1) = pkt := List.take_of_length_le (by omega)
  unfold enterStore
  dsimp only
  rw [if_neg (by omega), all, checkOperand_clean good (ne_nil_of_whole whole)]
  have counted : Counts s (if !step1Bad (nif s n) op pkt && decide (fVc (hd pkt) = 4) && !gAllowed op then countN s n 0x0D
      else s) := counts_ite s (counts_countN ..) (.refl s)
  exact ⟨_, counted.arrived n, (counted.niStep n).1, rfl⟩

/-- A whole packet presented to an empty store stands there at its turn. -/
theorem present_enters {op : BitVec 6} {fetch : Bool} {pkt : Packet} (at_ : Stands s n op pkt) :
    ∃ u, Arrived n s u ∧ (nif u n).store = [entryOf s n op fetch pkt] ∧ (nif u n).reqFifo = [] ∧
      present s n op fetch pkt = processOnce u n := by
  have some_ := ne_nil_of_whole at_.whole
  have step := niStep_updN s n drawn
  have arrived := arrived_updN s n drawn fun _ => rfl
  obtain ⟨u, on, same, enters⟩ := enterStore_whole (s := updN s n drawn) (n := n) (fetch := fetch)
    (free := !tagBusy (nif (updN s n drawn) n) (fTag (hd pkt))) at_.operand at_.whole
  have same := same.trans step.1
  rw [arrived.planOf, step.1] at enters
  have entry : ({ op := op, fetch := fetch, pkt := pkt, metered := .no, parity := []
                  tagFree := !tagBusy (Proofs.drawn (nif s n)) (fTag (hd pkt))
                  bad := step1Bad (Proofs.drawn (nif s n)) op pkt, plan := planOf s n op pkt } : PendReq) =
      entryOf s n op fetch pkt := rfl
  rw [entry] at enters
  have put := niStep_updN u n (stored (entryOf s n op fetch pkt))
  rw [same] at put
  have store : (nif (updN u n (stored (entryOf s n op fetch pkt))) n).store = (nif s n).store ++ [entryOf s n op fetch pkt] :=
    congrArg NI.store put.1
  rw [at_.store] at store
  refine ⟨_, (arrived.trans on).trans (arrived_updN u n (stored (entryOf s n op fetch pkt)) fun _ => rfl), store,
    congrArg NI.reqFifo put.1, ?_⟩
  rw [present_pushes at_.takes some_ at_.clean at_.opcode, pushFlits_draws some_ at_.clean at_.fifo at_.room,
    drawHead_enters at_.clean at_.noPart, step.1, ← enters]

/-! ### The turn of the only request -/

/-- The only request of the store at its turn is done with. -/
theorem processOnce_done {e : PendReq} {v : State} (store : (nif u n).store = [e]) (open_ : closeHeld (nif u n) = false)
    (goes : e.metered ≠ .blocked) (done : turnOf u n 0 e = .done v) (left : (nif v n).store.length = 1) :
    processOnce u n = updN v n (fun x => { x with store := [] }) := by
  have gone : updN v n (fun x => { x with store := x.store.eraseIdx 0 }) = updN v n (fun x => { x with store := [] }) :=
    congrArg (fun nis => ({ v with nis := nis } : State)) (tupd_congr (by
      obtain ⟨e', is⟩ := List.length_eq_one_iff.mp left
      have is : (tget v.nis n).store = [e'] := is
      rw [is]
      rfl))
  have empty : (nif (updN v n (fun x => { x with store := [] })) n).store = [] := congrArg NI.store (niStep_updN v n _).1
  have flow (y : NI) (tenant : Nat) : flowHeld y 0 tenant = false := rfl
  rw [processOnce, store]
  show processFrom 4 u n 0 = _
  unfold processFrom
  dsimp only
  rw [open_, if_neg (by decide), store]
  dsimp only [List.getElem?_cons_zero]
  rw [if_neg (by simp [goes]), flow, if_neg (by simp), done]
  dsimp only
  rw [gone]
  unfold processFrom
  dsimp only
  rw [empty]
  exact ite_self _

end Arriving

end Sys2Proof.Proofs

/-! ## A request for lines is accepted (R111, R112, R226): O8, O11. -/

namespace Sys2Proof.Proofs
open Sys2Proof.Machine Sys2Proof.Safety

section Accepting
variable {n : Slot} {s t u : State}

/-! ### What acceptance logs -/

theorem counts_logStep3 (s : State) (n : Slot) (op : BitVec 6) (fetch : Bool) (h : Flit) (pieces : List (List LineChk)) :
    Counts s (logStep3 s n op fetch h pieces) := by
  unfold logStep3
  refine counts_foldl (fun s p => ?_) s
  refine (counts_gateRecord s n true h _ _ _).trans (counts_foldl (fun s c => ?_) _)
  split
  · exact .refl s
  · split
    · exact (counts_countN s n _ none none 1).trans (counts_report _ _)
    · split
      · exact counts_report _ _
      · exact .refl s

theorem NiStep.putTally {x : NI} (step : NiStep n s t x) (inb : Bool) (words : List (BitVec 24)) :
    NiStep n s (putTally t n inb words) x := by
  unfold Machine.putTally
  split
  · obtain ⟨own, others, routers, spine, rest, reports, counts, tallies⟩ := step
    refine ⟨own, others, routers, spine, rest, reports, counts, ?_⟩
    have tallies : t.can = { s.can with lanes := t.can.lanes } := tallies
    unfold onlyTallies
    rw [updCan, tallies]
  · exact step

/-! ### Its pieces (R125) -/

theorem mkPieces_of (s : State) (n : Slot) (op : BitVec 6) (pkt : Packet) (parity : List Nat) (h : Flit) (vc : Nat)
    (colour : BitVec 2) (req : Nat) (split : Bool) (pid : Nat) (pieces : List (List LineChk)) :
    ∀ p ∈ mkPieces s n op pkt parity h vc colour req split pid pieces, p.req = req ∧ p.posted = isPosted op := by
  induction pieces generalizing pid with
  | nil => exact fun p mem => absurd mem List.not_mem_nil
  | cons q rest ih =>
    intro p mem
    unfold mkPieces at mem
    split at mem
    · rcases List.mem_cons.mp mem with rfl | mem
      · exact ⟨rfl, rfl⟩
      · exact ih _ p mem
    · exact ih _ p mem

theorem mkPieces_some (s : State) (n : Slot) (op : BitVec 6) (pkt : Packet) (parity : List Nat) (h : Flit) (vc : Nat)
    (colour : BitVec 2) (req : Nat) (split : Bool) (pid : Nat) (pieces : List (List LineChk))
    (some_ : ∃ p ∈ pieces, p.any lcOk = true) :
    mkPieces s n op pkt parity h vc colour req split pid pieces ≠ [] := by
  induction pieces generalizing pid with
  | nil => simp at some_
  | cons q rest ih =>
    unfold mkPieces
    split
    · exact List.cons_ne_nil _ _
    · next none_ =>
      obtain ⟨p, mem, any⟩ := some_
      rcases List.mem_cons.mp mem with rfl | mem
      · exact absurd any none_
      · exact ih _ ⟨p, mem, any⟩

/-- Cutting a list leaves pieces of it. -/
theorem cutLines_some {α : Type} (f : α → LineMap) (lim : Nat) (run xs : List α) (some_ : run ++ xs ≠ []) :
    ∃ q ∈ cutLines f lim run xs, q ≠ [] ∧ ∀ c ∈ q, c ∈ run ++ xs := by
  induction xs generalizing run with
  | nil =>
    rw [List.append_nil] at some_ ⊢
    refine ⟨run.reverse, ?_, by simp [some_], fun c mem => List.mem_reverse.mp mem⟩
    cases run with
    | nil => exact absurd rfl some_
    | cons y run => exact List.mem_singleton.mpr rfl
  | cons x xs ih =>
    cases run with
    | nil => exact ih [x] (by simp)
    | cons y run =>
      unfold cutLines
      dsimp only
      split
      · obtain ⟨q, mem, some_, of⟩ := ih (x :: y :: run) (by simp)
        refine ⟨q, mem, some_, fun c mem => ?_⟩
        have := of c mem
        simp only [List.mem_append, List.mem_cons] at this ⊢
        tauto
      · exact ⟨_, List.mem_cons_self, by simp, fun c mem => List.mem_append_left _ (List.mem_reverse.mp mem)⟩

/-! ### Steps 3 to 5 let it through -/

/-- What the meter lets through at once. -/
theorem stepFour_goes {op : BitVec 6} {pkt : Packet} {verdict : Metered} (sound : soundWords u) (lines : Nat)
    (verdict_ : (∃ c, verdict = .colour c) ∨ (verdict = .no ∨ verdict = .held) ∧ unpoliced u n pkt) :
    ∃ colour, stepFour u n op (normHead n (hd pkt)) verdict lines = (.go colour, u) := by
  have free (of : unpoliced u n pkt) : ∃ colour, (if isHostLink n.val && !asksG op (normHead n (hd pkt)) then
      meterReq u n (Fin.ofNat 4096 (fTenant (normHead n (hd pkt)))) (asksB (normHead n (hd pkt))) (meterCharge op lines)
    else (.go (if asksG op (normHead n (hd pkt)) then 0 else colourOf (asksB (normHead n (hd pkt))) none), u)) =
      (.go colour, u) := by
    split
    · unfold meterReq
      dsimp only
      rw [meterEcc_sound sound, of, if_pos (by decide)]
      exact ⟨_, rfl⟩
    · exact ⟨_, rfl⟩
  rcases verdict_ with ⟨c, rfl⟩ | ⟨rfl | rfl, of⟩
  · exact ⟨c, rfl⟩
  · exact free of
  · exact free of

theorem field_ownHead {lo w : Nat} (n : Slot) (op : BitVec 6) (f : Flit) (m : Option LineMap) (canon : Option GroupId)
    (out : 31 ≤ lo ∧ lo + w ≤ 109 ∨ 112 ≤ lo ∧ lo + w ≤ 120) :
    field (ownHead n op f m canon).ctl lo w = field (normHead n f).ctl lo w := by
  unfold ownHead
  dsimp only [withCtl]
  rw [field_setField_of_out _ _ (by omega), field_setField_of_out _ _ (by omega), field_setField_of_out _ _ (by omega),
    field_setField_of_out _ _ (by omega), field_setField_of_out _ _ (by omega), field_setField_of_out _ _ (by omega),
    field_setField_of_out _ _ (by omega)]

theorem fTag_ownHead (n : Slot) (op : BitVec 6) (f : Flit) (m : Option LineMap) (canon : Option GroupId) :
    fTag (ownHead n op f m canon) = fTag (normHead n f) := field_ownHead n op f m canon (by omega)

/-- An NI that has accepted a request, with its pieces. -/
def takenOn (op : BitVec 6) (own : Flit) (ps : List Piece) (lines : List (Option LineRes)) (slot : Bool) (x : NI) : NI :=
  let x := { x with inj := x.inj ++ ps, nextPid := x.nextPid + ps.length }
  if isPosted op then { x with nextReq := x.nextReq + 1 } else addReq x (newReq x op own lines slot)

/-- A request that owes a response is entered with the next number. -/
theorem addReq_keeps (x : NI) (e : ReqEnt) : (addReq x e).reqs = x.reqs ++ [e] ∧ (addReq x e).nextReq = x.nextReq + 1 ∧
    ∃ order, addReq x e = { x with reqs := x.reqs ++ [e], nextReq := x.nextReq + 1, order := order } := by
  unfold addReq
  dsimp only
  split
  · exact ⟨rfl, rfl, _, rfl⟩
  · exact ⟨rfl, rfl, x.order, rfl⟩

theorem takenOn_keeps (op : BitVec 6) (own : Flit) (ps : List Piece) (lines : List (Option LineRes)) (slot : Bool) (x : NI) :
    (takenOn op own ps lines slot x).store = x.store ∧ (takenOn op own ps lines slot x).nextReq = x.nextReq + 1 ∧
    (takenOn op own ps lines slot x).inj = x.inj ++ ps ∧ (takenOn op own ps lines slot x).reqFifo = x.reqFifo := by
  unfold takenOn
  dsimp only
  split
  · exact ⟨rfl, rfl, rfl, rfl⟩
  · obtain ⟨-, -, order, is⟩ := addReq_keeps { x with inj := x.inj ++ ps, nextPid := x.nextPid + ps.length }
      (newReq { x with inj := x.inj ++ ps, nextPid := x.nextPid + ps.length } op own lines slot)
    rw [is]
    exact ⟨rfl, rfl, rfl, rfl⟩

/-- An NI whose meter has coloured its first request. -/
def coloured (c : BitVec 2) (x : NI) : NI := { x with store := x.store.modify 0 (fun e => { e with metered := .colour c }) }

theorem turnLines_done {e : PendReq} (other : ownPort n = false) (sound : soundWords u)
    (ok : admitted u n e.op e.fetch e.pkt e.plan)
    (verdict : (∃ c, e.metered = .colour c) ∨ (e.metered = .no ∨ e.metered = .held) ∧ unpoliced u n e.pkt) :
    ∃ v colour ps lines slot own, turnLines u n 0 e = .done v ∧ ps ≠ [] ∧ fTag own = fTag (normHead n (hd e.pkt)) ∧
      (∀ p ∈ ps, p.req = (nif u n).nextReq ∧ p.posted = isPosted e.op) ∧
      NiStep n u v (takenOn e.op own ps lines slot (coloured colour (nif u n))) := by
  obtain ⟨some_, all, held, goes⟩ := ok
  have notHerd : n ≠ herdSlot := fun is => by simp [is, ownPort] at other
  unfold turnLines
  dsimp only
  rw [gateEccLog_sound sound]
  generalize checks : List.map _ e.plan.zipIdx = cs
  have checks : checksOf u n e.op e.fetch e.pkt e.plan = cs := checks
  rw [checks] at some_ all goes
  obtain ⟨colour, four⟩ := stepFour_goes (op := e.op) sound cs.length verdict
  have noneBad : cs.filter (fun c => !lcOk c) = [] := List.filter_eq_nil_iff.mpr fun c mem => by simp [all c mem]
  have total : cs.length ≠ 0 := fun zero => some_ (List.length_eq_zero_iff.mp zero)
  have step : NiStep n u (noteMeter u n 0 (.colour colour)) (coloured colour (nif u n)) := niStep_updN u n (coloured colour)
  have noted : Arrived n u (noteMeter u n 0 (.colour colour)) := arrived_updN u n (coloured colour) fun _ => rfl
  have pair (tenant kind : Nat) : (tallyPair tenant kind (cs.length - 0) 0).length = 1 := by
    unfold tallyPair
    rw [if_pos (by omega), if_neg (by omega)]
    rfl
  rw [noneBad, List.length_nil, if_neg (Ne.symm total), four]
  dsimp only
  rw [pair, noted.step5Waits, goes, noted.seen NI.holdPosted fun _ => rfl, held, if_neg (by simp), if_neg (by decide),
    if_neg (by simp [notHerd])]
  generalize counted : countN _ n 0x0E none none _ = w
  have finished : NiStep n u w (coloured colour (nif u n)) := by
    rw [← counted]
    exact (((step.counts (counts_logStep3 ..)).putTally false _).counts (counts_countN ..)).counts (counts_countN ..)
  have req : (nif w n).nextReq = (nif u n).nextReq := (congrArg NI.nextReq finished.1 :)
  rw [req]
  obtain ⟨q, mem, full, of⟩ := cutLines_some (fun c : LineChk => c.m) (if isPart e.op then 3 else 4) [] cs some_
  have live : ∃ p ∈ cutLines (fun c : LineChk => c.m) (if isPart e.op then 3 else 4) [] cs, p.any lcOk = true := by
    obtain ⟨c, rest, rfl⟩ := List.exists_cons_of_ne_nil full
    exact ⟨_, mem, by simp [all c (of c List.mem_cons_self)]⟩
  generalize made : mkPieces w n e.op e.pkt e.parity _ _ _ _ _ _ _ = ps
  generalize header : ownHead n e.op (hd e.pkt) _ _ = own
  generalize List.map _ cs = lines
  generalize (_ && !isPosted e.op) = slot
  exact ⟨updN w n (takenOn e.op own ps lines slot), colour, ps, lines, slot, own, rfl, made ▸ mkPieces_some _ _ _ _ _ _ _ _ _ _ _ _ live, header ▸ fTag_ownHead ..,
    made ▸ mkPieces_of _ _ _ _ _ _ _ _ _ _ _ _, finished.updN (takenOn e.op own ps lines slot)⟩

/-- The only request of the store, when it names lines and nothing holds it, is accepted at its turn. -/
theorem lines_accepted {e : PendReq} (store : (nif u n).store = [e]) (open_ : closeHeld (nif u n) = false)
    (other : ownPort n = false) (sound : soundWords u) (good : e.bad = false) (notFence : isFence e.op = false)
    (notClose : (e.op == opEpochClose) = false) (ok : admitted u n e.op e.fetch e.pkt e.plan)
    (verdict : (∃ c, e.metered = .colour c) ∨ (e.metered = .no ∨ e.metered = .held) ∧ unpoliced u n e.pkt) :
    accepted u (processOnce u n) n e.op e.pkt ∧ niFrame n u (processOnce u n) ∧
      (nif (processOnce u n) n).reqFifo = (nif u n).reqFifo := by
  obtain ⟨v, colour, ps, lines, slot, own, done, some_, tag, of, step⟩ := turnLines_done other sound ok verdict
  have turn : turnOf u n 0 e = .done v := by
    rw [turnOf, good, notFence, notClose]
    exact done
  have goes : e.metered ≠ .blocked := by
    rcases verdict with ⟨c, is⟩ | ⟨is | is, -⟩ <;> simp [is]
  have left : (nif v n).store.length = 1 := by
    rw [step.1, (takenOn_keeps ..).1, coloured, store]
    rfl
  rw [processOnce_done store open_ goes turn left]
  obtain ⟨own_, frame⟩ := step.updN (fun x => { x with store := [] })
  refine ⟨?_, frame, ?_⟩
  · unfold accepted
    rw [own_]
    refine ⟨rfl, ?_, ⟨ps, some_, ?_, of⟩, ?_⟩
    · exact (takenOn_keeps ..).2.1
    · exact (takenOn_keeps ..).2.2.1
    · dsimp only [takenOn]
      split
      · rfl
      · exact ⟨newReq _ e.op own lines slot, (addReq_keeps ..).1, rfl, rfl, tag, rfl⟩
  · rw [own_]
    exact (takenOn_keeps ..).2.2.2

end Accepting

/-- The rows that present requests for lines present them under their opcodes. -/
theorem lineRows_present {n : Slot} {k : Nat} {fetch : Bool} {pkt : Packet} {row : Instr × BitVec 6 × Bool}
    (mem : row ∈ lineRows n k fetch pkt) : isFence row.2.1 = false ∧ (row.2.1 == opEpochClose) = false ∧
      ∀ s, exec row.1 s = .next (present s n row.2.1 row.2.2 pkt) := by
  simp only [lineRows, List.mem_cons, List.not_mem_nil, or_false] at mem
  rcases mem with rfl | rfl | rfl | rfl | rfl | rfl | rfl | rfl | rfl | rfl | rfl | rfl | rfl | rfl | rfl <;>
    exact ⟨rfl, rfl, fun _ => rfl⟩

theorem accepted_of_arrived {n : Slot} {s u t : State} {op : BitVec 6} {pkt : Packet} (arrived : Arrived n s u)
    (taken : accepted u t n op pkt) : accepted s t n op pkt := by
  unfold accepted at taken ⊢
  rw [arrived.seen NI.nextReq fun _ => rfl, arrived.seen NI.inj fun _ => rfl, arrived.seen NI.reqs fun _ => rfl] at taken
  exact taken

/-- Settles O8. -/
theorem requestForLinesAccepted : Obligations.RequestForLinesAccepted := by
  intro s n k fetch pkt row mem stands good free ok
  obtain ⟨notFence, notClose, run⟩ := lineRows_present mem
  have at_ := stands_of_offered stands
  obtain ⟨u, arrived, store, -, enters⟩ := present_enters (fetch := row.2.2) at_
  obtain ⟨taken, frame, -⟩ := lines_accepted store (arrived.closeHeld.trans at_.open_) (takesRequest_other at_.takes)
    (arrived.soundWords at_.sound) good notFence notClose (arrived.admitted ok) (.inr ⟨.inl rfl, arrived.unpoliced free⟩)
  exact ⟨processOnce u n, (run s).trans (congrArg Host.Outcome.next enters), accepted_of_arrived arrived taken,
    niFrame_trans arrived.2.1 frame⟩

section Resuming
variable {n : Slot} {s u : State}

theorem resumeStore_once (runs : niRuns u n = true) (other : ownPort n = false) (open_ : (nif u n).closed = false)
    (fifo : (nif (processOnce u n) n).reqFifo = []) : resumeStore u n = processOnce u n := by
  have notHerd : n ≠ herdSlot := fun is => by simp [is, ownPort] at other
  have notCan : n ≠ canSlot := fun is => by simp [is, ownPort] at other
  unfold resumeStore processStore
  rw [if_pos (by simp [runs, open_]), if_neg (by simp [open_])]
  dsimp only
  rw [fifo, if_neg notHerd, if_neg notCan]
  rfl

/-- A request that waits is accepted when its NI works on it again. -/
theorem waiting_accepted {e : PendReq} (arrived : Arrived n s u) (same : nif u n = nif s n) (runs : niRuns s n = true)
    (other : ownPort n = false) (works : (nif s n).closed = false) (fifo : (nif s n).reqFifo = [])
    (store : (nif s n).store = [e]) (open_ : closeHeld (nif s n) = false) (sound : soundWords s) (good : e.bad = false)
    (notFence : isFence e.op = false) (notClose : (e.op == opEpochClose) = false)
    (ok : admitted s n e.op e.fetch e.pkt e.plan)
    (verdict : (∃ c, e.metered = .colour c) ∨ (e.metered = .no ∨ e.metered = .held) ∧ unpoliced s n e.pkt) :
    accepted s (resumeStore u n) n e.op e.pkt ∧ niFrame n s (resumeStore u n) := by
  have runs : niRuns u n = true := by
    obtain ⟨nis, dip, reports, rfl⟩ := arrived.explicit
    exact runs
  obtain ⟨taken, frame, empty⟩ := lines_accepted (same ▸ store) (same ▸ open_) other (arrived.soundWords sound) good notFence
    notClose (arrived.admitted ok) (verdict.imp id fun ⟨is, free⟩ => ⟨is, arrived.unpoliced free⟩)
  rw [same, fifo] at empty
  rw [resumeStore_once runs other (same ▸ works) empty]
  exact ⟨accepted_of_arrived arrived taken, niFrame_trans arrived.2.1 frame⟩

end Resuming

/-- Settles O11. -/
theorem waitingRequestAccepted : Obligations.WaitingRequestAccepted := by
  intro s n k e row mem runs other works fifo store open_ good op sound ok
  obtain ⟨notFence, notClose, -⟩ := lineRows_present mem
  rw [← op] at notFence notClose
  refine ⟨fun c coloured => ?_, fun held free => ?_⟩
  · obtain ⟨taken, frame⟩ := waiting_accepted (arrived_refl s n) rfl runs other works fifo store open_ sound good notFence
      notClose ok (.inl ⟨c, coloured⟩)
    exact ⟨_, rfl, taken, frame⟩
  · have counted := counts_countN s n 0x0F none none 1
    obtain ⟨taken, frame⟩ := waiting_accepted (counted.arrived n) (counted.niStep n).1 runs other works fifo store open_
      sound good notFence notClose ok (.inr ⟨.inr held, free⟩)
    exact ⟨_, congrArg Host.Outcome.next (if_pos (by simp [store, PendReq.inHold, held])), taken, frame⟩

end Sys2Proof.Proofs

/-! ## Fences, closes and malformed requests at their turn, and what ends a packet that stopped partway (R68, R142, R143,
R161, R188, R483): O9, O10, O12. -/

namespace Sys2Proof.Proofs
open Sys2Proof.Machine Sys2Proof.Safety

section Turns
variable {n : Slot} {s u : State} {e : PendReq}

/-- The only request of the store leaves it when its turn is done. -/
theorem processOnce_leaves {v : State} {y : NI} (store : (nif u n).store = [e]) (open_ : closeHeld (nif u n) = false)
    (goes : e.metered ≠ .blocked) (turn : turnOf u n 0 e = .done v) (step : NiStep n u v y)
    (keeps : y.store = (nif u n).store) : NiStep n u (processOnce u n) { y with store := [] } ∧
      Tells v (processOnce u n) := by
  have left : (nif v n).store.length = 1 := by
    rw [step.1, keeps, store]
    rfl
  rw [processOnce_done store open_ goes turn left]
  exact ⟨step.updN (fun x => { x with store := [] }), .of_eq rfl⟩

/-! ### A fence (R161) -/

theorem fDest_ownHead_none (n : Slot) (op : BitVec 6) (f : Flit) (canon : Option GroupId) :
    fDest (ownHead n op f none canon) = fDest (normHead n f) := by
  unfold fDest ownHead
  dsimp only [withCtl]
  rw [field_setField_of_out _ _ (by omega), field_setField_of_out _ _ (by omega), field_setField_of_out _ _ (by omega),
    field_setField_of_out _ _ (by omega), field_setField_of_out _ _ (by omega), field_setField_of_out _ _ (by omega)]
  exact field_setField_field _ _ (by omega)

/-- An NI that has taken a fence. -/
def fenceTaken (op : BitVec 6) (h : Flit) (x : NI) : NI :=
  { addReq x (newReq x op h [none] false) with
    fences := x.fences ++ [{ req := x.nextReq, op := op, dest := fDest h, wait := fenceSet x op (fDest h) }] }

theorem turnFence_done (goes : (nif u n).holdAll = false) (room : (nif u n).fences.length < 16) :
    turnFence u n e true =
      .done (updN (countN u n 0x03) n (fenceTaken e.op (ownHead n e.op (hd e.pkt) none none))) := by
  unfold turnFence
  dsimp only
  rw [if_neg (by simp [goes, room])]
  rfl

theorem fence_accepted {k : Nat} {pkt : Packet} {row : Instr × BitVec 6} (mem : row ∈ fenceRows n k pkt)
    (stands : offered s n row.2 pkt) (good : step1Bad (nif s n) row.2 pkt = false) (goes : (nif s n).holdAll = false)
    (room : (nif s n).fences.length < 16) :
    ∃ t, exec row.1 s = .next t ∧ (nif t n).store = [] ∧
       (nif t n).fences = (nif s n).fences ++
         [{ req := (nif s n).nextReq, op := row.2, dest := fDest (normHead n (hd pkt)),
            wait := fenceSet (nif s n) row.2 (fDest (normHead n (hd pkt))) }] ∧
       (∃ e : ReqEnt, (nif t n).reqs = (nif s n).reqs ++ [e] ∧ e.num = (nif s n).nextReq ∧ e.lines = [none]) ∧
       niFrame n s t := by
  have rows : isFence row.2 = true ∧ exec row.1 s = .next (present s n row.2 false pkt) := by
    simp only [fenceRows, List.mem_cons, List.not_mem_nil, or_false] at mem
    rcases mem with rfl | rfl | rfl | rfl <;> exact ⟨rfl, rfl⟩
  obtain ⟨fence, run⟩ := rows
  have at_ := stands_of_offered stands
  obtain ⟨u, arrived, store, -, enters⟩ := present_enters (fetch := false) at_
  have turn : turnOf u n 0 (entryOf s n row.2 false pkt) = .done (updN (countN u n 0x03) n
      (fenceTaken row.2 (ownHead n row.2 (hd pkt) none none))) := by
    rw [turnOf, show (entryOf s n row.2 false pkt).bad = false from good, show isFence (entryOf s n row.2 false pkt).op = true
      from fence]
    exact turnFence_done ((arrived.seen NI.holdAll fun _ => rfl).trans goes)
      (by rw [arrived.seen NI.fences fun _ => rfl]; exact room)
  obtain ⟨reqs, next, order, is⟩ := addReq_keeps (nif u n)
    (newReq (nif u n) row.2 (ownHead n row.2 (hd pkt) none none) [none] false)
  obtain ⟨⟨own, frame⟩, -⟩ := processOnce_leaves store (arrived.closeHeld.trans at_.open_)
    (fun is => Metered.noConfusion (is : Metered.no = .blocked)) turn
    (((niStep_refl u n).counts (counts_countN u n 0x03 none none 1)).updN _) (by rw [fenceTaken, is])
  refine ⟨_, run.trans (congrArg Host.Outcome.next enters), congrArg NI.store own, ?_, ⟨newReq (nif u n) row.2 (ownHead n row.2 (hd pkt) none none) [none] false, ?_, ?_, rfl⟩,
    niFrame_trans arrived.2.1 frame⟩
  · rw [own, ← fDest_ownHead_none n row.2 (hd pkt) none, ← arrived.seen NI.fences fun _ => rfl,
      ← arrived.seen NI.nextReq fun _ => rfl, ← arrived.seen (fun x => fenceSet x row.2 _) fun _ => rfl]
    rfl
  · rw [own, ← arrived.seen NI.reqs fun _ => rfl]
    exact reqs
  · exact arrived.seen NI.nextReq fun _ => rfl

/-! ### A close (R188) -/

/-- The close of logical epoch `l` of group `g`, as it waits at its member. -/
def closeWait (x : NI) (g : GroupId) (l : Nat) : CloseWait :=
  { req := x.nextReq, lep := l, wait := closeSet x g l, inexact := (tget x.groups g).inexact.any (fun i => lepLe i l) }

/-- An NI that has taken a close. -/
def closeTaken (op : BitVec 6) (h : Flit) (g : GroupId) (l : Nat) (x : NI) : NI :=
  { addReq x (newReq x op h [none] false) with
    groups := tupd x.groups g (fun q => { q with close := some (closeWait x g l) }) }

theorem close_accepted {k : Nat} {pkt : Packet} {g : GroupId} (stands : offered s n opEpochClose pkt)
    (good : step1Bad (nif s n) opEpochClose pkt = false) (goes : (nif s n).holdAll = false)
    (group : (Fin.ofNat 32 (field (word (normHead n (hd pkt)) 0) 0 5) : GroupId) = g)
    (member : (tget (nif s n).groups g).member = true) (active : (tget (nif s n).groups g).state = .active)
    (next : lepFull (tget (nif s n).groups g).k (field (word (normHead n (hd pkt)) 0) 8 8) =
      lepAdd (tget (nif s n).groups g).k 1) :
    ∃ t c, exec (.epochClose n k pkt) s = .next t ∧ (nif t n).store = [] ∧
       (tget (nif t n).groups g).close = some c ∧ c.lep = lepAdd (tget (nif s n).groups g).k 1 ∧
       c.wait = closeSet (nif s n) g c.lep ∧ (tget (nif t n).groups g).k = (tget (nif s n).groups g).k ∧ niFrame n s t := by
  have at_ := stands_of_offered stands
  obtain ⟨u, arrived, store, -, enters⟩ := present_enters (fetch := false) at_
  have groups : (nif u n).groups = (nif s n).groups := arrived.seen NI.groups fun _ => rfl
  have hold : (nif u n).holdAll = false := (arrived.seen NI.holdAll fun _ => rfl).trans goes
  have turn : turnOf u n 0 (entryOf s n opEpochClose false pkt) = .done (updN (countN u n 0x03) n
      (closeTaken opEpochClose (ownHead n opEpochClose (hd pkt) none none) g (lepAdd (tget (nif s n).groups g).k 1))) := by
    rw [turnOf, show (entryOf s n opEpochClose false pkt).bad = false from good]
    show turnClose u n _ true = _
    unfold turnClose
    dsimp only
    have group : (Fin.ofNat 32 (field (word (ownHead n (entryOf s n opEpochClose false pkt).op
      (hd (entryOf s n opEpochClose false pkt).pkt) none none) 0) 0 5) : GroupId) = g := group
    have next : lepFull (tget (nif s n).groups g).k (field (word (ownHead n (entryOf s n opEpochClose false pkt).op
      (hd (entryOf s n opEpochClose false pkt).pkt) none none) 0) 8 8) = lepAdd (tget (nif s n).groups g).k 1 := next
    rw [group, groups, next, if_neg (by simp [active]), if_neg (by simp [member, active]), if_neg (by simp [hold])]
    rfl
  obtain ⟨reqs, num, order, is⟩ := addReq_keeps (nif u n)
    (newReq (nif u n) opEpochClose (ownHead n opEpochClose (hd pkt) none none) [none] false)
  obtain ⟨⟨own, frame⟩, -⟩ := processOnce_leaves store (arrived.closeHeld.trans at_.open_)
    (fun is => Metered.noConfusion (is : Metered.no = .blocked)) turn
    (((niStep_refl u n).counts (counts_countN u n 0x03 none none 1)).updN _) (by rw [closeTaken, is])
  have closed : tget (nif (processOnce u n) n).groups g = { tget (nif u n).groups g with
      close := some (closeWait (nif u n) g (lepAdd (tget (nif s n).groups g).k 1)) } := by
    rw [own]
    exact tget_tupd ..
  refine ⟨_, closeWait (nif u n) g (lepAdd (tget (nif s n).groups g).k 1), congrArg Host.Outcome.next enters,
    congrArg NI.store own, congrArg NiGroup.close closed, rfl, ?_, (congrArg NiGroup.k closed).trans (by rw [groups]),
    niFrame_trans arrived.2.1 frame⟩
  exact arrived.seen (fun x => closeSet x g _) fun _ => rfl

/-! ### A malformed request (R68) -/

/-- A response that the NI forms itself is entered as one more request. -/
theorem addLocal_adds (x : NI) (op : BitVec 6) (h : Flit) (codes : List Status) (whole : Status) (aux : BitVec 16)
    (frees : Bool) : ∃ e order, addLocal x op h codes whole aux frees =
      { x with reqs := x.reqs ++ [e], nextReq := x.nextReq + 1, order := order } ∧ e.whole = whole ∧ e.tag = fTag h ∧
      e.lines = codes.map (fun c => some (noLine c whole (fDest h))) := by
  obtain ⟨-, -, order, is⟩ := addReq_keeps x _
  exact ⟨_, order, is, rfl, rfl, rfl⟩

/-- An NI that refuses a posted malformed request. -/
def malformedPosted (op : BitVec 6) (x : NI) : NI :=
  putOut { x with refused := x.refused + 1 } (.err 0 .poison op false)

/-- An NI that refuses another, which it answers. -/
def malformedAnswered (op : BitVec 6) (h : Flit) (lines : Nat) (ours : Bool) (x : NI) : NI :=
  { addLocal x (if presentable op then op else 0x00) h (List.replicate lines .poison) .poison 0xFFFF ours with
    refused := x.refused + 1 }

theorem reported_repNi (tells : Tells s u) (n : Slot) (code : EventCode) (detail record : Nat) :
    reported s (repNi u n code detail record) code .ni n.val := reported_of_tells tells _

theorem NiStep.repNi {x : NI} (step : NiStep n s u x) (code : EventCode) (detail record : Nat) :
    NiStep n s (repNi u n code detail record) x := step.counts (counts_report u _)

theorem refuseMalformed_refuses (u : State) (n : Slot) (op : BitVec 6) (pkt : Packet) :
    reported u (refuseMalformed u n op pkt false) .malformed .ni n.val ∧ ∃ lines,
      NiStep n u (refuseMalformed u n op pkt false) (if isPosted op then malformedPosted op (nif u n) else
        malformedAnswered op (ownHead n op (hd pkt) none none) lines false (nif u n)) := by
  have counted := counts_countN u n 0x15 none none 1
  have told := reported_repNi counted.tells n .malformed (op.toNat * 2 ^ 16 + fTag (ownHead n op (hd pkt) none none)) 0
  have step := ((niStep_refl u n).counts counted).repNi .malformed
    (op.toNat * 2 ^ 16 + fTag (ownHead n op (hd pkt) none none)) 0
  unfold refuseMalformed
  dsimp only
  generalize repNi (countN u n 0x15) n .malformed _ = w at told step ⊢
  split
  · exact ⟨reported_updN (reported_updN told n _) n _, 0,
      (step.updN (fun x => { x with refused := x.refused + 1 })).updN (fun x => putOut x (.err 0 .poison op false))⟩
  · exact ⟨reported_updN told n _, _, step.updN (malformedAnswered op (ownHead n op (hd pkt) none none) _ false)⟩

theorem malformed_refused {k : Nat} {pkt : Packet} (stands : offered s n (fOp (hd pkt)) pkt)
    (bad : step1Bad (nif s n) (fOp (hd pkt)) pkt = true) :
    ∃ t, exec (.malformed n k pkt) s = .next t ∧ (nif t n).store = [] ∧
      (nif t n).refused = (nif s n).refused + 1 ∧ reported s t .malformed .ni n.val ∧
      (if isPosted (fOp (hd pkt)) then
        (nif t n).out = (nif s n).out ++ [.err 0 .poison (fOp (hd pkt)) false] ∧ (nif t n).reqs = (nif s n).reqs
       else ∃ e : ReqEnt, (nif t n).reqs = (nif s n).reqs ++ [e] ∧ e.whole = .poison ∧
         e.lines.all (fun l => l.any (fun r => r.code == .poison)) = true) ∧ niFrame n s t := by
  have at_ := stands_of_offered stands
  obtain ⟨u, arrived, store, -, enters⟩ := present_enters (fetch := false) at_
  have run : exec (.malformed n k pkt) s = .next (present s n (fOp (hd pkt)) false pkt) :=
    congrArg Host.Outcome.next (if_pos (by simp [show isHead (hd pkt) = true from at_.clean.1]))
  obtain ⟨told, lines, step⟩ := refuseMalformed_refuses u n (fOp (hd pkt)) pkt
  have turn : turnOf u n 0 (entryOf s n (fOp (hd pkt)) false pkt) = .done (refuseMalformed u n (fOp (hd pkt)) pkt false) := by
    rw [turnOf, show (entryOf s n (fOp (hd pkt)) false pkt).bad = true from bad]
    rfl
  have reqs : (nif u n).reqs = (nif s n).reqs := arrived.seen NI.reqs fun _ => rfl
  have out : (nif u n).out = (nif s n).out := arrived.seen NI.out fun _ => rfl
  have refused : (nif u n).refused = (nif s n).refused := arrived.seen NI.refused fun _ => rfl
  have open_ := arrived.closeHeld.trans at_.open_
  have goes : (entryOf s n (fOp (hd pkt)) false pkt).metered ≠ .blocked :=
    fun is => Metered.noConfusion (is : Metered.no = .blocked)
  refine ⟨_, run.trans (congrArg Host.Outcome.next enters), ?_⟩
  split at step
  · next posted =>
    obtain ⟨⟨own, frame⟩, tells⟩ := processOnce_leaves store open_ goes turn step rfl
    rw [own, if_pos posted, ← reqs, ← out, ← refused]
    exact ⟨rfl, rfl, reported_then (arrived.2.2.2.reported told) tells, ⟨rfl, rfl⟩, niFrame_trans arrived.2.1 frame⟩
  · next answered =>
    obtain ⟨e, order, is, whole, -, codes⟩ := addLocal_adds (nif u n) (if presentable (fOp (hd pkt)) then fOp (hd pkt) else 0x00)
      (ownHead n (fOp (hd pkt)) (hd pkt) none none) (List.replicate lines .poison) .poison 0xFFFF false
    rw [malformedAnswered, is] at step
    obtain ⟨⟨own, frame⟩, tells⟩ := processOnce_leaves store open_ goes turn step rfl
    rw [own, if_neg answered]
    refine ⟨rfl, congrArg (· + 1) refused, reported_then (arrived.2.2.2.reported told) tells,
      ⟨e, congrArg (· ++ [e]) reqs, whole, ?_⟩,
      niFrame_trans arrived.2.1 frame⟩
    rw [codes, List.map_replicate]
    refine List.all_eq_true.mpr fun l mem => ?_
    rw [List.eq_of_mem_replicate mem]
    rfl

/-! ### A packet that stopped partway (R142, R483) -/

/-- An NI that gives up its partial packet, of which `left` flits are still to come. -/
def partDropped (e : PendReq) (left : Nat) (x : NI) : NI :=
  { x with partialReq := none, partialTicks := 0, remainder := left, remainderOp := e.op }

/-- What its endpoint is told. -/
def Told (x y : NI) (e : PendReq) (n : Slot) : Prop :=
  (isPosted e.op = true → y.out = x.out ++ [EpOut.err 1 .abandoned e.op false]) ∧
  (isPosted e.op = false → ∃ r ∈ y.reqs, r.whole = Status.abandoned ∧ r.tag = fTag (normHead n (hd e.pkt)))

theorem abandon_ends (part : (nif s n).partialReq = some e) : reported s (abandon s n) .abandon .ni n.val ∧ ∃ y,
    NiStep n s (abandon s n) y ∧ y.partialReq = none ∧ y.remainder = fLen (normHead n (hd e.pkt)) + 1 - e.pkt.length ∧
    y.store = (nif s n).store ∧ Told (nif s n) y e n := by
  have counted := counts_countN s n 0x12 none none 1
  have told := reported_repNi counted.tells n .abandon
    (e.op.toNat * 2 ^ 16 + e.pkt.length * 2 ^ 12 + fTag (ownHead n e.op (hd e.pkt) none none)) 0
  have len : fLen (ownHead n e.op (hd e.pkt) none none) = fLen (normHead n (hd e.pkt)) :=
    field_ownHead n e.op (hd e.pkt) none none (by omega)
  have step := ((niStep_refl s n).counts counted).repNi .abandon
    (e.op.toNat * 2 ^ 16 + e.pkt.length * 2 ^ 12 + fTag (ownHead n e.op (hd e.pkt) none none)) 0
  unfold abandon
  rw [part]
  dsimp only
  generalize repNi (countN s n 0x12) n .abandon _ = w at told step ⊢
  rw [len]
  have dropped := step.updN (partDropped e (fLen (normHead n (hd e.pkt)) + 1 - e.pkt.length))
  split
  · next posted =>
    exact ⟨reported_updN (reported_updN told n _) n _, _, dropped.updN (fun x => putOut x (.err 1 .abandoned e.op false)), rfl,
      rfl, rfl, fun _ => rfl, fun not_ => absurd posted (by simp [not_])⟩
  · next answered =>
    refine ⟨reported_updN (reported_updN told n _) n _, ?_⟩
    generalize List.replicate _ Status.poison = codes
    obtain ⟨r, order, is, whole, tag, -⟩ := addLocal_adds
      (partDropped e (fLen (normHead n (hd e.pkt)) + 1 - e.pkt.length) (nif s n)) (if presentable e.op then e.op else 0)
      (ownHead n e.op (hd e.pkt) none none) codes .abandoned 0 e.tagFree
    refine ⟨_, dropped.updN (fun x => addLocal x (if presentable e.op then e.op else 0)
      (ownHead n e.op (hd e.pkt) none none) codes .abandoned 0 e.tagFree), ?_⟩
    rw [is]
    exact ⟨rfl, rfl, rfl, fun posted => absurd posted answered, fun _ => ⟨r, List.mem_append_right _ (List.mem_singleton.mpr rfl),
      whole, tag.trans (fTag_ownHead ..)⟩⟩

theorem stalled_abandoned (runs : niRuns s n = true) (part : (nif s n).partialReq = some e) (fifo : (nif s n).reqFifo = [])
    (late : cfgN s n itAbandon 0 ≤ (nif s n).partialTicks) :
    ∃ t, exec (.endpointAbandon n) s = .next t ∧ (nif t n).partialReq = none ∧
      (nif t n).remainder = fLen (normHead n (hd e.pkt)) + 1 - e.pkt.length ∧ reported s t .abandon .ni n.val ∧
      (isPosted e.op = true → (nif t n).out = (nif s n).out ++ [.err 1 .abandoned e.op false]) ∧
      (isPosted e.op = false → ∃ r ∈ (nif t n).reqs, r.whole = .abandoned ∧ r.tag = fTag (normHead n (hd e.pkt))) ∧
      niFrame n s t := by
  obtain ⟨told, y, ⟨own, frame⟩, gone, left, -, posted, answered⟩ := abandon_ends part
  have run : exec (.endpointAbandon n) s = .next (abandon s n) := by
    refine congrArg Host.Outcome.next ((if_pos (by simp [runs, part, late])).trans ?_)
    rw [fifo]
    rfl
  rw [← own] at gone left posted answered
  exact ⟨_, run, gone, left, told, posted, answered, frame⟩

theorem processOnce_empty (store : (nif u n).store = []) : processOnce u n = u := by
  rw [processOnce, store]
  show processFrom 2 u n 0 = u
  unfold processFrom
  dsimp only
  rw [store]
  exact ite_self _

/-- The packet, short of flits, that a head begins. -/
def partOf (op : BitVec 6) (fetch free : Bool) (pkt : Packet) : PendReq :=
  { op := op, fetch := fetch, pkt := pkt, metered := .no, parity := [], tagFree := free, bad := false, plan := [] }

theorem head_abandons {k : Nat} {fetch : Bool} {pkt : Packet} (part : (nif s n).partialReq = some e)
    (fifo : (nif s n).reqFifo = []) (takes : takesRequest s n pkt.length = true) (some_ : pkt ≠ []) (good : clean pkt)
    (short : pkt.length ≤ fLen (hd pkt)) (store : (nif s n).store = []) (room : storeRoom (nif s n) pkt.length = true) :
    ∃ t p, exec (.prematureHead n k fetch pkt) s = .next t ∧ (nif t n).partialReq = some p ∧ p.pkt = pkt ∧
       (nif t n).remainder = 0 ∧ reported s t .abandon .ni n.val ∧
       (isPosted e.op = false → ∃ r ∈ (nif t n).reqs, r.whole = .abandoned ∧ r.tag = fTag (normHead n (hd e.pkt))) ∧
       niFrame n s t := by
  have emptied := niStep_updN s n (fun x => { x with reqFifo := [] })
  have run : exec (.prematureHead n k fetch pkt) s = .next _ := congrArg Host.Outcome.next ((if_pos good.1).trans
    ((present_pushes takes some_ good rfl).trans (pushFlits_draws some_ good fifo room)))
  obtain ⟨told, y, step, -, -, stored, -, answered⟩ :=
    abandon_ends (s := updN s n (fun x => { x with reqFifo := [] })) ((congrArg NI.partialReq emptied.1).trans part)
  unfold drawHead at run
  dsimp only at run
  generalize abandon (updN s n (fun x => { x with reqFifo := [] })) n = v at run told step
  rw [if_neg (by simp [good.2.1]), parityPoison_of_clean good] at run
  dsimp only [logLocalParities, List.foldl_nil] at run
  unfold enterStore at run
  dsimp only at run
  rw [if_pos (by omega)] at run
  obtain ⟨own, frame⟩ := (((emptied.trans step).updN (fun x => { x with
    remainder := 0, shortfall := x.shortfall + x.remainder })).updN (fun x => { x with reqDrop := 0 })).updN (fun x => { x with
      partialReq := some (partOf (fOp (hd pkt)) fetch (!tagBusy (nif (updN (updN v n (fun x => { x with
        remainder := 0, shortfall := x.shortfall + x.remainder })) n (fun x => { x with reqDrop := 0 })) n)
        (fTag (hd pkt))) pkt), partialTicks := 0 })
  have run := run.trans (congrArg Host.Outcome.next
    (processOnce_empty ((congrArg NI.store own).trans (stored.trans ((congrArg NI.store emptied.1).trans store)))))
  obtain ⟨t, run, told, own, frame⟩ : ∃ t, exec (.prematureHead n k fetch pkt) s = .next t ∧
      reported s t .abandon .ni n.val ∧ NiStep n s t _ :=
    ⟨_, run, reported_updN (reported_updN (reported_updN told n _) n _) n _, own, frame⟩
  refine ⟨t, _, run, congrArg NI.partialReq own, rfl, congrArg NI.remainder own, told, fun not_ => ?_, frame⟩
  rw [own]
  exact answered not_

theorem remainder_discarded {f : Flit} (takes : takesRequest s n 1 = true) (fifo : (nif s n).reqFifo = [])
    (more : 0 < (nif s n).remainder) (body : isHead f = false) :
    exec (.abandonRemainderDiscard n f) s = .next (updN s n (fun x => { x with
      remainder := x.remainder - 1, out := x.out ++ [.err 2 .abandoned x.remainderOp false] })) := by
  have goes : (decide (0 < (nif s n).remainder) && !isHead f && takesRequest s n 1 && (nif s n).reqFifo.isEmpty) = true := by
    simp [more, body, takes, fifo]
  have run : exec (.abandonRemainderDiscard n f) s = .next (errRec (updN s n (fun x => { x with
      remainder := x.remainder - 1 })) n 2 .abandoned (nif s n).remainderOp) := congrArg Host.Outcome.next (if_pos (by simpa using goes))
  rw [run, errRec, updN_updN]
  exact congrArg (fun nis => Host.Outcome.next ({ s with nis := nis } : State)) (tupd_congr rfl)

end Turns

/-- Settles O9. -/
theorem fenceAndCloseAccepted : Obligations.FenceAndCloseAccepted :=
  ⟨fun _ _ _ _ _ mem stands good goes room => fence_accepted mem stands good goes room,
    fun _ _ _ _ _ stands good goes group member active next => close_accepted stands good goes group member active next⟩

/-- Settles O10. -/
theorem malformedRequestRefused : Obligations.MalformedRequestRefused :=
  fun _ _ _ _ stands bad => malformed_refused stands bad

/-- Settles O12. -/
theorem partialPacketEnds : Obligations.PartialPacketEnds :=
  ⟨fun _ _ _ runs part fifo => ⟨stalled_abandoned runs part fifo, fun _ _ _ takes some_ good short store room =>
      head_abandons part fifo takes some_ good short store room⟩,
    fun _ _ _ takes fifo more body => remainder_discarded takes fifo more body⟩

end Sys2Proof.Proofs

/-! ## The test port (R425, R428, R476, R500, R501): O59. -/

namespace Sys2Proof.Proofs
open Sys2Proof.Machine Sys2Proof.Safety

section TestPort
variable (s : State)

theorem idcode_field (lo w : Nat) (inside : lo + w ≤ 32) :
    field (idcodeWord.setWidth 714) lo w = (idcodeWord.extractLsb' lo w).toNat := by
  refine congrArg BitVec.toNat (BitVec.eq_of_getLsbD_eq fun i hi => ?_)
  have low : lo + i < 714 := by omega
  rw [BitVec.getLsbD_extractLsb', BitVec.getLsbD_extractLsb', BitVec.getLsbD_setWidth, decide_eq_true low, Bool.true_and]

/-- Its constant fields, below and above the manufacturer's. -/
theorem idcode_fields : idcodeWord.extractLsb' 0 1 = 1#1 ∧ idcodeWord.extractLsb' 12 16 = 0x2C0C#16 ∧
    idcodeWord.extractLsb' 28 4 = 1#4 := by
  refine ⟨BitVec.eq_of_getLsbD_eq fun i hi => ?_, BitVec.eq_of_getLsbD_eq fun i hi => ?_,
    BitVec.eq_of_getLsbD_eq fun i hi => ?_⟩ <;> rw [BitVec.getLsbD_extractLsb', idcodeWord]
  · rw [BitVec.getLsbD_append, if_pos (by omega), Nat.zero_add, decide_eq_true hi, Bool.true_and]
  · rw [BitVec.getLsbD_append, if_neg (by omega), BitVec.getLsbD_append, if_neg (by omega), BitVec.getLsbD_append,
      if_pos (by omega), show 12 + i - 1 - 11 = i by omega, decide_eq_true hi, Bool.true_and]
  · rw [BitVec.getLsbD_append, if_neg (by omega), BitVec.getLsbD_append, if_neg (by omega), BitVec.getLsbD_append,
      if_neg (by omega), show 28 + i - 1 - 11 - 16 = i by omega, decide_eq_true hi, Bool.true_and]

/-! ### FRZ_HOLD (R425) -/

theorem hold_stops (authorised : s.aon.dbgAuth = true) (serves : s.aon.mode = .serve) :
    ∃ t, exec (.frzHold true) s = .next t ∧ t.aon.mode = .freeze ∧ t.aon.freezeHold = true ∧ t.aon.tapIr = 0x20 ∧
      t = { s with aon := t.aon } := by
  have stops : freezeNow (updAon s (fun a => { a with freezeHold := true })) =
      stopTree (updAon s (fun a => { a with freezeHold := true })) := by
    have mode : (updAon s (fun a => { a with freezeHold := true })).aon.mode = .serve := serves
    unfold freezeNow
    rw [mode]
    rfl
  have run : exec (.frzHold true) s = .next (tapSelect (stopTree (updAon s (fun a => { a with freezeHold := true }))) 0x20
      (BitVec.ofNat 714 (stopTree (updAon s (fun a => { a with freezeHold := true }))).aon.freezeHold.toNat)) := by
    show execFrzHold true s = _
    unfold execFrzHold
    dsimp only
    rw [if_pos rfl, if_pos authorised, stops]
  exact ⟨_, run, rfl, rfl, rfl, rfl⟩

theorem hold_ignored (not_ : s.aon.dbgAuth = false) : exec (.frzHold true) s =
    .next (tapSelect s 0x20 (BitVec.ofNat 714 s.aon.freezeHold.toNat)) := by
  show execFrzHold true s = _
  unfold execFrzHold
  dsimp only
  rw [if_pos rfl, if_neg (by simp [not_])]

/-! ### FRZ_READ (R428, R476) -/

theorem read_frozen (seg : BitVec 16) (frozen : s.aon.mode = .freeze) : exec (.frzRead seg) s = .next
    (if s.aon.dbgAuth then { tapSelect s 0x21 (Config.readout s.drawn) with drawn := s.drawn + 1 }
     else tapSelect s 0x21 (Config.openChain seg (openEntries s) (openFields s))) :=
  congrArg Host.Outcome.next (if_pos (by simp [frozen]))

/-! ### DBG_MASTER (R501) -/

section Debug
variable {flit : Flit} {fetch : Bool} (head : isHead flit = true)
include head

theorem presentAny_head : presentAny s 191 fetch [flit] = present s 191 (fOp flit) fetch [flit] :=
  if_pos (by simp [show isHead (hd [flit]) = true from head])

/-- What the debug master captures of slot 191's responses. -/
def captured (t : State) : State :=
  match nextOut (nif t 191).out with
  | some (f, rest) => tapSelect (updN t 191 (fun x => { x with out := rest })) 0x30 ((flitWires f).setWidth 714)
  | none => tapSelect t 0x30 0

theorem debug_presents : exec (.dbgMaster flit false fetch) s = .next (captured (present s 191 (fOp flit) fetch [flit])) := by
  show execDbgMaster flit false fetch s = _
  unfold execDbgMaster
  dsimp only
  rw [if_neg (by decide), if_pos head, presentAny_head s head]
  rfl

omit head in
/-- Capturing touches the port and slot 191's responses alone. -/
theorem captured_keeps (t : State) : (captured t).aon.tapIr = 0x30 ∧ (captured t).routers = t.routers ∧
    (captured t).spine = t.spine ∧ otherNis 191 t (captured t) ∧
    ∃ out, nif (captured t) 191 = { nif t 191 with out := out } := by
  unfold captured
  split
  · obtain ⟨own, others, -⟩ := niStep_updN t 191 (fun x => { x with out := ‹List EpOut› })
    exact ⟨rfl, rfl, rfl, others, _, own⟩
  · exact ⟨rfl, rfl, rfl, fun _ _ => rfl, _, rfl⟩

theorem debug_read_accepted (stands : offered s 191 opRdLine [flit]) (good : step1Bad (nif s 191) opRdLine [flit] = false)
    (free : unpoliced s 191 [flit]) (ok : admitted s 191 opRdLine fetch [flit] (planOf s 191 opRdLine [flit])) :
    ∃ t, exec (.dbgMaster flit false fetch) s = .next t ∧ accepted s t 191 opRdLine [flit] ∧
      t.aon.tapIr = 0x30 ∧ otherNis 191 s t ∧ t.routers = s.routers ∧ t.spine = s.spine := by
  have op : fOp flit = opRdLine := stands.2.2.1
  obtain ⟨t, run, taken, others, routers, spine, -⟩ := requestForLinesAccepted s 191 0 fetch [flit]
    (.rdLine 191 0 fetch [flit], opRdLine, fetch) List.mem_cons_self stands good free ok
  have presented : present s 191 opRdLine fetch [flit] = t := Host.Outcome.next.inj run
  obtain ⟨ir, routers', spine', others', out, own⟩ := captured_keeps t
  have runs := debug_presents s (fetch := fetch) head
  rw [op, presented] at runs
  refine ⟨captured t, runs, ?_, ir, fun m ne => (others' m ne).trans (others m ne), routers'.trans routers, spine'.trans spine⟩
  unfold accepted at taken ⊢
  rw [own]
  exact taken

theorem debug_captures {f : Flit} {rest : List EpOut} (full : takesRequest s 191 1 = false)
    (next : nextOut (nif s 191).out = some (f, rest)) :
    ∃ t, exec (.dbgMaster flit false fetch) s = .next t ∧ t.aon.tapDr = (flitWires f).setWidth 714 ∧
      nif t 191 = { nif s 191 with out := rest } ∧ otherNis 191 s t ∧
      t = { s with nis := t.nis, aon := { s.aon with tapIr := 0x30, tapDr := t.aon.tapDr } } := by
  have refused : present s 191 (fOp flit) fetch [flit] = s := if_pos (by simp [full])
  have runs := debug_presents s (fetch := fetch) head
  rw [refused, captured, next] at runs
  obtain ⟨own, others, -⟩ := niStep_updN s 191 (fun x => { x with out := rest })
  exact ⟨_, runs, rfl, own, others, rfl⟩

end Debug

end TestPort

/-- Settles O59. -/
theorem testPortWorks : Obligations.TestPortWorks := by
  intro s
  obtain ⟨low, mid, high⟩ := idcode_fields
  refine ⟨⟨_, rfl, rfl, ?_, ?_, ?_, rfl⟩, fun reset => ?_, fun authorised serves => hold_stops s authorised serves,
    fun not_ => ⟨_, hold_ignored s not_, rfl, rfl, rfl⟩, fun seg frozen authorised => ?_, fun seg frozen not_ => ?_,
    fun seg thawed => ⟨_, congrArg Host.Outcome.next (if_neg (by simp [thawed])), rfl, rfl⟩,
    fun flit fetch head stands good free ok => debug_read_accepted s head stands good free ok,
    fun flit f fetch rest head full next => debug_captures s head full next, fun code a b c d e => ?_, fun thawed => ?_⟩
  · exact (idcode_field 0 1 (by omega)).trans (congrArg BitVec.toNat low)
  · exact (idcode_field 12 16 (by omega)).trans (congrArg BitVec.toNat mid)
  · exact (idcode_field 28 4 (by omega)).trans (congrArg BitVec.toNat high)
  · exact ⟨_, congrArg Host.Outcome.next (if_pos (by simp [reset])), rfl, rfl, rfl⟩
  · exact ⟨_, (read_frozen s seg frozen).trans (congrArg Host.Outcome.next (if_pos authorised)), rfl, rfl, rfl⟩
  · exact ⟨_, (read_frozen s seg frozen).trans (congrArg Host.Outcome.next (if_neg (by simp [not_]))), rfl, rfl, rfl⟩
  · refine congrArg Host.Outcome.next (if_neg ?_)
    have other {v : BitVec 8} (ne : code ≠ v) : code.toNat ≠ v.toNat := fun same => ne (BitVec.eq_of_toNat_eq same)
    simpa using ⟨other a, other b, other c, other d, other e⟩
  · exact congrArg Host.Outcome.next (if_pos (by simp [thawed, updAon]))

end Sys2Proof.Proofs
